-- ==== Sys2Proof/Word.lean ====
section
/-! DEFINITION. The word types of the Zeale Z9 (00 R2, R3, R67): bytes, 16-bit halves, 32-bit words, 64-bit
double words. Everything that computes with them is in `Machine/Bits.lean`. -/
namespace Sys2Proof

/-- A byte of memory. -/
abbrev Byte := BitVec 8
/-- A 16-bit pattern, also a mask of the sixteen lanes of a team (bit `l` for lane `l`). -/
abbrev Half := BitVec 16
/-- A register, an instruction word or a literal. -/
abbrev Word := BitVec 32
/-- A register pair, a device register, an address. -/
abbrev DWord := BitVec 64

end Sys2Proof
end

