-- ==== Sys2Proof/Machine/Bits.lean ====
section
/-! DEFINITION. The bit, sign and byte-order helpers of the pseudocode (02 R70; 00 R2, R3). Values are natural
numbers or integers while they are computed and are narrowed once, at the end (00 R7). -/
namespace Sys2Proof

/-- `bits(x, h, l)` of R70: bits [h:l] of `x` as an unsigned integer. -/
def bits (x h l : Nat) : Nat := (x / 2 ^ l) % 2 ^ (h + 1 - l)

/-- Bit `i` of `x`. -/
def bit (x i : Nat) : Bool := x / 2 ^ i % 2 == 1

/-- `zext(x, n)` of R70. -/
def zext (x n : Nat) : Nat := x % 2 ^ n

/-- `sext(x, n)` of R70: the low `n` bits of `x` read as two's complement. -/
def sext (x n : Nat) : Int :=
  if x % 2 ^ n < 2 ^ (n - 1) then (x % 2 ^ n : Nat) else (x % 2 ^ n : Nat) - (2 ^ n : Nat)

/-- `wrap(x, n)` of R70: `x` mod 2^n, as a natural number. -/
def wrapN (x : Int) (n : Nat) : Nat := (x % (2 ^ n : Nat)).toNat

/-- `wrap(x, n)` of R70, as an `n`-bit pattern. -/
def wrap (n : Nat) (x : Int) : BitVec n := BitVec.ofInt n x

/-- `clamp(x, lo, hi)` of R70. -/
def clamp (x lo hi : Int) : Int := if x < lo then lo else if x > hi then hi else x

/-- `clamp` on naturals. -/
def clampN (x lo hi : Nat) : Nat := if x < lo then lo else if x > hi then hi else x

/-- The least multiple of `a` that is at least `x`. -/
def roundUp (x a : Nat) : Nat := (x + a - 1) / a * a

/-- `x / y` rounded up. -/
def ceilDiv (x y : Nat) : Nat := (x + y - 1) / y

/-- A truth value as 0 or 1. -/
def b2n (b : Bool) : Nat := if b then 1 else 0

/-- The `n` bytes of `x`, least significant first (R3). -/
def leBytes : Nat → Nat → List Byte
  | 0, _ => []
  | n + 1, x => BitVec.ofNat 8 x :: leBytes n (x / 256)

/-- The number whose bytes, least significant first, are the list (R3). -/
def ofLe : List Byte → Nat
  | [] => 0
  | b :: r => b.toNat + 256 * ofLe r

/-- `n` bytes of a list from offset `o`, as a number; bytes beyond the list read as 0. -/
def field (r : List Byte) (o n : Nat) : Nat := ofLe ((r.drop o).take n)

/-- A list of `n` elements, `x` in every place. -/
def fill {α : Type} (n : Nat) (x : α) : List α := List.replicate n x

/-- `xs` with element `i` replaced; unchanged when `i` is beyond the list. -/
def setAt {α : Type} (xs : List α) (i : Nat) (x : α) : List α := xs.set i x

/-- The sixteen lane numbers, ascending (R7). -/
def lanes : List Nat := List.range 16

/-- Lane `l`'s bit of a mask. -/
def laneIn (m : Half) (l : Nat) : Bool := m.getLsbD l

/-- The lanes of a mask, ascending. -/
def lanesOf (m : Half) : List Nat := lanes.filter (laneIn m)

/-- The mask whose lanes satisfy `p`. -/
def maskOf (p : Nat → Bool) : Half := BitVec.ofNat 16 ((lanes.filter p).foldl (fun a l => a + 2 ^ l) 0)

/-- The mask of one lane. -/
def laneMask (l : Nat) : Half := BitVec.ofNat 16 (2 ^ l)

/-- The number whose bits below `n` are those of `f`. -/
def bitsBelow (f : Nat → Bool) : Nat → Nat
  | 0 => 0
  | n + 1 => 2 ^ n * b2n (f n) + bitsBelow f n

/-- The pattern of width `n` whose bit `i` is `f i`. -/
def ofBits (n : Nat) (f : Nat → Bool) : BitVec n := BitVec.ofNat n (bitsBelow f n)

/-- Set bits of a mask. -/
def popcount (x n : Nat) : Nat := ((List.range n).filter (bit x)).length

/-- Position of the highest 1 bit plus one; 0 for 0. -/
def bitLen (x : Nat) : Nat := if x = 0 then 0 else Nat.log2 x + 1

/-- The pairs of a list of even length, an odd last element dropped. -/
def chunk {α : Type} (n : Nat) : Nat → List α → List (List α)
  | 0, _ => []
  | f + 1, xs => if xs.isEmpty then [] else xs.take n :: chunk n f (xs.drop n)

/-- The first element of `xs` for which `f` answers, with the answer. -/
def firstOf {α β : Type} (f : α → Option β) : List α → Option β
  | [] => none
  | x :: r => match f x with
    | some y => some y
    | none => firstOf f r

/-- `x` added to a list without repeats. -/
def addNew (x : Nat) (l : List Nat) : List Nat := if l.contains x then l else l ++ [x]

/-- Insertion of `x` by a strict order, after equal elements. -/
def insertBy {α : Type} (lt : α → α → Bool) (x : α) : List α → List α
  | [] => [x]
  | y :: r => if lt x y then x :: y :: r else y :: insertBy lt x r

/-- Stable sort by a strict order. -/
def sortBy {α : Type} (lt : α → α → Bool) (xs : List α) : List α := xs.foldl (fun a x => insertBy lt x a) []

end Sys2Proof
end

