-- ==== Sys2Proof/Machine/IntFns.lean ====
section
/-! DEFINITION. The integer results of 04 R111-R118 and R125, as functions of register words. -/
namespace Sys2Proof.Machine
open Sys2Proof

def minI32 : Int := -2147483648
def maxI32 : Int := 2147483647

/-- Saturating sums and differences (R111). -/
def addsI (x y : Word) : Word := wrap 32 (clamp (x.toInt + y.toInt) minI32 maxI32)
def addsN (x y : Word) : Word := BitVec.ofNat 32 (min (x.toNat + y.toNat) 4294967295)
def subsI (x y : Word) : Word := wrap 32 (clamp (x.toInt - y.toInt) minI32 maxI32)
def subsN (x y : Word) : Word := BitVec.ofNat 32 (x.toNat - y.toNat)
/-- High halves of products (R111). -/
def mulhI (x y : Word) : Word := ((x.signExtend 64 * y.signExtend 64) >>> 32).setWidth 32
def mulhN (x y : Word) : Word := ((x.setWidth 64 * y.setWidth 64) >>> 32).setWidth 32
def minI (x y : Word) : Word := if x.slt y then x else y
def minN (x y : Word) : Word := if x < y then x else y
def maxI (x y : Word) : Word := if x.slt y then y else x
def maxN (x y : Word) : Word := if x < y then y else x
def absW (x : Word) : Word := if x.slt 0 then -x else x

/-- Full products (R112). -/
def mulwN (x y : Word) : DWord := x.setWidth 64 * y.setWidth 64
def mulwI (x y : Word) : DWord := x.signExtend 64 * y.signExtend 64
/-- The shift count: bits [7:0] of the operand (R112, R113). -/
def shCount8 (y : Word) : Nat := y.toNat % 256
def shlW (x : DWord) (y : Word) : DWord := x <<< shCount8 y
def shrnW (x : DWord) (y : Word) : DWord := x >>> shCount8 y
def shl (x y : Word) : Word := x <<< shCount8 y
def shrn (x y : Word) : Word := x >>> shCount8 y
def shra (x y : Word) : Word := x.sshiftRight (min (shCount8 y) 31)
def rotl (x y : Word) : Word := x.rotateLeft (shCount8 y % 32)

/-- Bit counts and reversal (R113). -/
def popc (x : Word) : Word := BitVec.ofNat 32 (popcount x.toNat 32)
def clz (x : Word) : Word := BitVec.ofNat 32 (32 - bitLen x.toNat)
def brev (x : Word) : Word := ofBits 32 fun i => x.getLsbD (31 - i)

/-- Field position and width of `BFX`, `BFI` (R114). -/
def fieldO (y : Word) : Nat := min (y.toNat % 256) 32
def fieldK (y : Word) : Nat := min (y.toNat / 256 % 256) 32
def bfxN (x y : Word) : Word := BitVec.ofNat 32 (x.toNat / 2 ^ fieldO y % 2 ^ fieldK y)
def bfxI (x y : Word) : Word :=
  let f := (x.signExtend 64).toNat / 2 ^ fieldO y % 2 ^ fieldK y
  if fieldK y = 0 then 0 else wrap 32 (sext f (fieldK y))
def bfi (x y z : Word) : Word :=
  let o := fieldO y
  let k := fieldK y
  let mask : Word := BitVec.ofNat 32 ((2 ^ k - 1) * 2 ^ o)
  (z &&& ~~~mask) ||| (BitVec.ofNat 32 (x.toNat % 2 ^ k * 2 ^ o) &&& mask)

/-- `LEA` with scale (R117). -/
def lea (scale : Nat) (a : DWord) (y : Word) : DWord := a + y.signExtend 64 * BitVec.ofNat 64 scale

/-- Interleaved coordinates and the reverse (R118). -/
def morton (x y : Word) : Word :=
  ofBits 32 fun i => if i % 2 = 0 then x.getLsbD (i / 2) else y.getLsbD (i / 2)
def unmorton (x : Word) : DWord :=
  ofBits 64 fun i =>
    if i < 16 then x.getLsbD (2 * i)
    else if 32 ≤ i ∧ i < 48 then x.getLsbD (2 * (i - 32) + 1) else false

/-- The source lane of `SHFL` as an integer, if it is one of the sixteen (R119). -/
def laneOfInt (q : Int) : Option Nat := if 0 ≤ q ∧ q ≤ 15 then some q.toNat else none

/-- The random function (R125). -/
def rngmix (s c : Word) (l : Nat) : Word :=
  let h := s ^^^ (c * 0x9E3779B9) ^^^ (BitVec.ofNat 32 (l + 1) * 0x85EBCA6B)
  let h := (h ^^^ (h >>> 16)) * 0x7FEB352D
  let h := (h ^^^ (h >>> 15)) * 0x846CA68B
  h ^^^ (h >>> 16)

end Sys2Proof.Machine
end

