-- ==== Sys2Proof/Config.lean ====
section
/-! DEFINITION. What the module ordered as `ZL9-192-LC` fixes (00 R1, 01 R9-R24, 17 R434-R450), and the free values: constants
without a body, for what the spec leaves open. -/
namespace Sys2Proof.Config

/-- Cores of a room: 6 posts of 8 (R9). -/
def coresPerRoom : Nat := 48
def coresPerPost : Nat := 8
def postsPerRoom : Nat := 6
def rooms : Nat := 8
/-- Register file of a core in bytes (R14). -/
def regFileBytes : Nat := 524288
def teamSlots : Nat := 256
def maxBlocks : Nat := 32
def stashBytes : Nat := 262144
def matrixContexts : Nat := 2
/-- Entries of the translation caches (R192). -/
def coreTlbSize : Nat := 512
def postTlbSize : Nat := 8192
/-- Collector entries of a core (R188); provisional stores a core holds (R205). -/
def collectorEntries : Nat := 64
/-- How long an entry is held before it goes to L1, and one that a gather opened: 16 and 32 core clocks, in ticks (R188). -/
def holdTicks : Nat := 8
def gatherTicks : Nat := 16
/-- The replay queue of a core's stash (R14). -/
def replayMax : Nat := 32
/-- L1 and stash of a core together (R14). -/
def l1Bytes : Nat := 393216
def provisionalMax : Nat := 64
/-- Unacknowledged atomic packets from a core to one home (R228). -/
def unackedMax : Nat := 32
/-- How far apart the rooms' partitions begin: 24 GiB (17 R439). -/
def roomBytes : Nat := 25769803776
/-- Memory of one channel: 6 GiB; a room has 4 channels, or 3 on a degraded part (R22, 17 R449). -/
def channelBytes : Nat := 6442450944
/-- Leases in logical time (R203, R181). -/
def lease : Nat := 16
def constLease : Nat := 1024
/-- Ticks of one logical count (R203). -/
def ptsTicks : Nat := 16
/-- Limit of an open transaction in ticks (R235). -/
def txTicks : Nat := 65536
/-- Hitch windows begin here (R102, R175). -/
def windowBase : Nat := 16777216

/-- A word no rule gives a value to: what a lane that is not active gives to a channel push, and the like (log 6). -/
opaque freeWord : Nat → Word
/-- The physical page, by number, that the ostler takes when it makes a page present, if there is one to be had
(log 6). -/
opaque freePage : Nat → Option Nat
/-- Where the areas begin that the ostler allocates for lane-private space, in units of 16 MiB (log 6). -/
opaque laneOrigin : Nat
/-- How far apart the frames of the pool stand, in units of 256 bytes (log 6). -/
opaque frameStride : Nat
/-- What the root firmware's report carries (17 R447). -/
structure Report where
  nonce : List Byte
  serial : BitVec 64
  code : Nat
  stage : List Byte
  image : List Byte
  fences : List Byte
  map : List Nat
  tick : Nat
  deriving DecidableEq, Repr

/-- The digests, of 64 bytes, of the root stage, of the service image and of a fence configuration (17 R446, R447; log 6). -/
opaque stageDigest : List Byte
opaque imageDigest : List Byte
opaque fenceDigest : List Nat → List Nat → List Byte
/-- How the root firmware encodes and signs a report (17 R447, R478; log 6). -/
opaque reportBytes : Report → List Byte
/-- The 12-bit sequence number that the first 8 bytes of a flit hold (17 R444; log 117). -/
opaque flitSeq : Nat → Nat
/-- The picture that a head composes of its plane records, its planes' bytes and its size; whether lines were repeated (17 R441, R442;
log 118). -/
opaque compose : List (List Byte) → List (List Byte) → Nat → Nat → Bool → List Byte
/-- A byte another device answers a get with, and the encodings that belong to firmware and encoder (log 6). -/
opaque freeByte : Nat → Byte

end Sys2Proof.Config
end

