-- ==== Sys2Proof/Machine/Tab.lean ====
section
/-! DEFINITION. Tables of plain data: a list of (key, value) pairs, keys strictly rising, no entry equal to what
an unlisted key reads as. Registers, memory and every other indexed piece of state are held in this one form, so
that equal contents are equal data. -/
namespace Sys2Proof

/-- A table from natural numbers. -/
abbrev Tab (α : Type) := List (Nat × α)

namespace Tab
variable {α : Type}

/-- The value at `k`; `d` where nothing is listed. -/
def get (d : α) : Tab α → Nat → α
  | [], _ => d
  | (i, x) :: r, k => if i = k then x else if k < i then d else get d r k

/-- The table with `x` at `k`; an entry equal to the default `d` is removed. -/
def set [DecidableEq α] (d : α) : Tab α → Nat → α → Tab α
  | [], k, x => if x = d then [] else [(k, x)]
  | (i, y) :: r, k, x =>
    if k < i then (if x = d then (i, y) :: r else (k, x) :: (i, y) :: r)
    else if i = k then (if x = d then r else (k, x) :: r)
    else (i, y) :: set d r k x

/-- The value at `k`, if one is listed. -/
def find : Tab α → Nat → Option α
  | [], _ => none
  | (i, x) :: r, k => if i = k then some x else if k < i then none else find r k

/-- The table with `x` listed at `k`. -/
def put : Tab α → Nat → α → Tab α
  | [], k, x => [(k, x)]
  | (i, y) :: r, k, x =>
    if k < i then (k, x) :: (i, y) :: r
    else if i = k then (k, x) :: r
    else (i, y) :: put r k x

/-- The table without key `k`. -/
def erase : Tab α → Nat → Tab α
  | [], _ => []
  | (i, y) :: r, k => if i = k then r else if k < i then (i, y) :: r else (i, y) :: erase r k

/-- Keys above `lo` and strictly rising, no listed default. -/
def wfFrom [DecidableEq α] (d : α) : Nat → Tab α → Bool
  | _, [] => true
  | lo, (i, x) :: r => decide (lo ≤ i) && decide (x ≠ d) && wfFrom d (i + 1) r

/-- The canonical form. -/
def wf [DecidableEq α] (d : α) (t : Tab α) : Bool := wfFrom d 0 t

end Tab
end Sys2Proof
end

