-- ==== Sys2Proof/Syntax.lean ====
section
/-! DEFINITION. The syntax of the machine: the operands of instruction words (02 R44-R56) and `Instr`, one
constructor per row of the opcode table. A row with a word is an instruction; a row without one is a step of the
device (spec/95), and carries the identity of what it acts on. -/
namespace Sys2Proof

/-- An operand byte (R51): `v0`-`v95`, `s0`-`s31`, a channel popped (or pushed, as a destination), a channel peeked. -/
inductive Opnd where
  | v (r : Fin 96)
  | s (r : Fin 32)
  | pop (c : Fin 64)
  | peek (c : Fin 64)
  deriving DecidableEq, Repr

/-- A source that a 32-bit literal may replace (R44). -/
inductive Src where
  | reg (o : Opnd)
  | lit (w : Word)
  deriving DecidableEq, Repr

/-- The offset of a Format M word (R48): a register, or a literal with its modifier byte. -/
inductive MOff where
  | reg (o : Opnd)
  | lit (w : Word) (m : Byte)
  deriving DecidableEq, Repr

/-- The offset of a Format B word (R46), in words. -/
inductive BOff where
  | near (o : BitVec 16)
  | far (w : Word)
  deriving DecidableEq, Repr

/-- A predicate source (R77): a predicate or a literal mask. -/
inductive PSrc where
  | p (r : Fin 8)
  | lit (w : Word)
  deriving DecidableEq, Repr

/-- A source of the matrix stream (R289): a `q` register or a literal. -/
inductive QSrc where
  | q (r : Fin 16)
  | lit (w : Word)
  deriving DecidableEq, Repr

/-- The pitch operand of `MLOAD` and `MSTORE` (R291): byte 0x10 for packed, else a `q` register. -/
inductive Pitch where
  | packed
  | q (r : Fin 16)
  deriving DecidableEq, Repr

/-- The count of a barrier arrival (R77): omitted (byte 0x00, one arrival), an s-register or a literal. -/
inductive Count where
  | one
  | reg (r : Fin 32)
  | lit (w : Word)
  deriving DecidableEq, Repr

/-- What issues words: team `t` of the resident block `b`, or the matrix sequencer of block `b` (R284). -/
inductive Agent where
  | team (b t : Nat)
  | seq (b : Nat)
  deriving DecidableEq, Repr

/-- A put or a get that a peer sends (R254): the suite addressed, the address there, the bytes of a put or the
length of a get, and who asked. -/
structure FabricReq where
  put : Bool
  suite : Nat
  addr : Nat
  len : Nat
  data : List Byte
  src : Nat
  id : Nat
  deriving DecidableEq, Repr

/-- A remote-invocation packet (R351). -/
structure Packet where
  suite : Nat
  handler : Nat
  prio : Nat
  args : List Byte
  srcDev : Nat
  srcSuite : Nat
  seq : Nat
  deriving DecidableEq, Repr

/-- One constructor per row of the opcode table. -/
inductive Instr where
  /-- CLAUSE_ISSUE (R34): A clause header whose wait mask is clear starts one frontier entry's clause, reading the guard once and issuing its words in order. -/
  | clauseIssue (g : Agent)
  /-- DELAYED_TRAP_DELIVERY (R196): A trap found after later instructions issued (PAGEFATAL, delayed PROT, ECC, stream trap) is delivered before the team's next instruction. -/
  | delayedTrapDelivery (b : Nat) (t : Nat)
  /-- LONG_LATENCY_COMPLETE (R40): A tracked long-latency instruction completes, writing its result and letting its completion flag clear. -/
  | longLatencyComplete (g : Agent) (op : Nat)
  /-- BARRIER_OP_APPLY (R94): The block's barrier unit applies one arriving barrier operation per core clock in the stated order. -/
  | barrierOpApply (b : Nat)
  /-- BARRIER_COMPLETION (R92): When arrived reaches expect the barrier flips its phase, subtracts expect and releases its waiters, one completion per clock. -/
  | barrierCompletion (b : Nat) (n : Nat)
  /-- SLEEP_EXPIRE (R91): A sleeping team becomes ready when its tick count expires. -/
  | sleepExpire (b : Nat) (t : Nat)
  /-- BLOCK_RETIRE (R33): A block retires once all its teams have retired and all its asynchronous jobs have completed. -/
  | blockRetire (b : Nat)
  /-- OSTLER_PICK (R339): Each post clock the ostler picks a candidate by restore, overdue, deadline, drain-first and aging rules. -/
  | ostlerPick (u : Nat) (r : Nat)
  /-- TRAVERSAL_BATCH_COMPLETE (R408): A traversal batch completes when every ray has its result and every push is made, and the ostler performs its DONE. -/
  | traversalBatchComplete (j : Nat)
  /-- LAUNCH_TAKE (R335): The ostler takes a launch record or kernel waybill from its queue as a new launch. -/
  | launchTake (u : Nat) (q : Nat)
  /-- CANDIDATE_PINNED (R339): A candidate that has waited 2^22 ticks at effective level 0 becomes pinned. -/
  | candidatePinned (u : Nat) (c : Nat)
  /-- CANDIDATE_OVERDUE (R339): A candidate pinned for a further 2^22 ticks becomes overdue. -/
  | candidateOverdue (u : Nat) (c : Nat)
  /-- DRAIN_FIRST_HOLD_END (R339): A drain-first hold ends after 2^20 ticks without a break. -/
  | drainFirstHoldEnd (u : Nat) (q : Nat)
  /-- TRANSLATION_COMPLETE (R193): A lane's translation through the last-page register, TLBs or walker completes with a page, a fault, a fatal entry or PROT. -/
  | translationComplete (b : Nat) (t : Nat) (op : Nat)
  /-- FAULT_ENTRY_POST (R477): The ostler posts a fault entry to the suite's fault queue and raises cause 6, waiting if the queue limits are reached. -/
  | faultEntryPost (u : Nat)
  /-- BLOCK_SAVE (R350): The ostler saves a block to a free frame of the pool, waiting for a frame if none is free. -/
  | blockSave (b : Nat)
  /-- BLOCK_RESTORE (R350): A restorable saved block is restored on a permitted core and its frame freed. -/
  | blockRestore (b : Nat)
  /-- FORCED_SAVE (R349): drainlim ticks after a drain request every block still resident is saved by force. -/
  | forcedSave (u : Nat)
  /-- PROVISIONAL_COMMIT (R205): A provisional store commits when every earlier store of its team is committed, taking its logical time. -/
  | provisionalCommit (b : Nat) (t : Nat) (op : Nat)
  /-- HOME_LOAD (R203): A load or fill request at its home slice extends the read lease and returns the line with its timestamps. -/
  | homeLoad (c : Nat) (line : Nat)
  /-- HOME_STORE (R203): A store at its home slice takes a write timestamp beyond every live lease. -/
  | homeStore (b : Nat) (t : Nat) (op : Nat)
  /-- HOME_ATOMIC (R220): An atomic, reduction, STAGE or commit packet is performed at the home slice's atomic unit, lanes in ascending order. -/
  | homeAtomic (b : Nat) (t : Nat) (op : Nat)
  /-- PTS_TICK (R203): Each core's logical clock pts grows by 1 every 16 ticks. -/
  | ptsTick
  /-- COLLECTOR_SEND (R188): A collector entry is sent to L1 16 core clocks (32 for a gather) after it opened. -/
  | collectorSend (c : Nat) (line : Nat)
  /-- COLLECTOR_LINE_RETURN (R188): A line returns to the collector and each team whose pieces are all served is woken. -/
  | collectorLineReturn (c : Nat) (line : Nat)
  /-- ATOMIC_RESEND (R228): An atomic packet with no valid reply within 3,072 core clocks is resent with the same sequence number. -/
  | atomicResend (c : Nat) (h : Nat)
  /-- REPLY_CACHE_RELEASE (R228): After 96 idle core clocks the core acknowledges replies and the home frees reply-cache entries. -/
  | replyCacheRelease (c : Nat) (h : Nat)
  /-- ECC_UNCORRECTABLE (R217): An uncorrectable memory error poisons sectors and queues a machine-check record to the charged suite. -/
  | eccUncorrectable (kind : Nat) (pa : Nat) (sectors : BitVec 4) (asid : Nat)
  /-- TX_TIMEOUT (R235): A transaction still open 65,536 ticks after its begin aborts with CAPACITY. -/
  | txTimeout (b : Nat) (t : Nat) (l : Nat)
  /-- JOB_COMPLETE (R245): An engine job completes, writing its token status word and sending any barrier arrival. -/
  | jobComplete (j : Nat)
  /-- STREAM_JOB_START (R267): A stream job starts after earlier jobs on its ring and any pending LAYOUT of its slot have ended, capturing its layout. -/
  | streamJobStart (j : Nat)
  /-- STREAM_TILE (R267): A stream engine takes a free or filled slot and fills or drains one tile. -/
  | streamTile (j : Nat)
  /-- NEAR_MEMORY_JOB_START (R316): The room's PKL or selection engine starts its next job in arrival order. -/
  | nearMemoryJobStart (r : Nat) (sel : Bool)
  /-- FABRIC_REQUEST_RECEIVE (R254): A peer device receives a remote put or get of a COPYR and performs its units. -/
  | fabricRequestReceive (q : FabricReq)
  /-- RINVOKE_RECEIVE (R351): A receiving ostler takes a remote-invocation packet and enqueues a handler waybill if the handler is live. -/
  | rinvokeReceive (p : Packet)
  /-- RINVOKE_RETRY (R352): A refused invocation is retried at 4,500, 9,000 and 13,500 ticks after the first refusal. -/
  | rinvokeRetry (b : Nat) (t : Nat) (op : Nat)
  /-- FLIT_RECEIVE (R444): A link port receives a flit, checks CRC after forward error correction, and requests a resend on failure. -/
  | flitReceive (p : Nat) (f : List Byte)
  /-- PORT_DOWN (R444): A port goes down after 16 failed resends or 100 microseconds without lock, moving traffic to the alternate port. -/
  | portDown (p : Nat)
  /-- LINK_RESTORED (R445): A restored link rejoins the route and device 0 becomes the time master again. -/
  | linkRestored (p : Nat)
  /-- TIME_SYNC (R445): Every 65,536 ticks links exchange tick stamps and each device corrects its tick toward the master. -/
  | timeSync (master : DWord)
  /-- BIN_BATCH (R361): A submitted mesh batch reaches the binning unit, which culls and bins its primitives into binbuf. -/
  | binBatch (r : Nat)
  /-- TILE_RESOLVE_START (R367): An OPEN tile of a closed view enters RESOLVING when a pin slot of its post is free. -/
  | tileResolveStart (r : Nat) (v : Nat) (t : Nat)
  /-- TILE_RESOLVED (R365): The resolver finishes applying a tile's primitives and the tile becomes RESOLVED. -/
  | tileResolved (r : Nat) (v : Nat) (t : Nat)
  /-- CLASSIFY_TILE (R375): The classify engine takes a resolved tile, sorts its pixels by material and emits one bin waybill per material. -/
  | classifyTile (r : Nat) (v : Nat) (t : Nat)
  /-- VBOUT_WRITE_DONE (R366): A RELEASED tile's vbout write completes and the tile becomes FREE. -/
  | vboutWriteDone (r : Nat) (v : Nat) (t : Nat)
  /-- SCAN_OUT (R442): A display head scans out a frame at its published tick and publishes the next. -/
  | scanOut (r : Nat)
  /-- PLANE_READ (R442): The head reads its plane records 16,384 ticks before the next scan-out. -/
  | planeRead (r : Nat)
  /-- DISPLAY_ENABLE (R442): Setting dctl enable starts the head, with the first scan-out one period later. -/
  | displayEnable (r : Nat) (v : DWord)
  /-- HOST_WINDOW_READ (R435): A host read through window 0, 1 or 2 is translated and served, or refused with hosterr counted. -/
  | hostWindowRead (w : Fin 3) (a : Nat) (n : Nat)
  /-- HOST_WINDOW_WRITE (R435): A host write through a window becomes an element at its home slice, or is dropped. -/
  | hostWindowWrite (w : Fin 3) (a : Nat) (v : List Byte)
  /-- REGISTER_WRITE (R6): A write to a register without behaviour of its own stores the value per its access code. -/
  | registerWrite (a : Nat) (v : DWord)
  /-- TAIL_WRITE (R334): A host write to tailq submits launch records, or is refused with code 7. -/
  | tailWrite (u : Nat) (q : Nat) (v : DWord)
  /-- CTL_ENABLE (R331): Setting ctl.enable makes the ostler read the register page and queue descriptors and start dispatch. -/
  | ctlEnable (u : Nat)
  /-- CTL_DRAIN (R349): Setting ctl.drain stops picking, sets sr.drain in every resident block and ends waiting QPOPs. -/
  | ctlDrain (u : Nat)
  /-- CTL_DRAIN_END (R349): Clearing ctl.drain makes saved blocks restorable and resumes dispatch. -/
  | ctlDrainEnd (u : Nat)
  /-- QRESERVE_TIMEOUT (R345): A QRESERVE that has waited fulltmo ticks on a full queue returns FULL. -/
  | qreserveTimeout (b : Nat) (t : Nat) (op : Nat)
  /-- WAYBILL_READY_COPY (R344): A waybill whose preds reached 0 is copied from the arena into its queue once the queue has room. -/
  | waybillReadyCopy (u : Nat)
  /-- PFPOP (R436): A write to pfpop removes the oldest fault entry from the pfrec registers. -/
  | pfpop (u : Nat)
  /-- PFDONE_RESOLVED (R477): A pfdone resolved verdict invalidates the page's translations and lets every waiting fault go on. -/
  | pfdoneResolved (u : Nat) (tag : Word)
  /-- PFDONE_DECLINED (R477): A pfdone declined verdict delivers PAGEFATAL to waiting team accesses and fatal outcomes to waiting jobs. -/
  | pfdoneDeclined (u : Nat) (tag : Word)
  /-- MCPOP (R436): A write to mcpop removes the oldest machine-check record. -/
  | mcpop (u : Nat)
  /-- EVQ_POP (R436): A read of evq pops the oldest event mailbox value. -/
  | evqPop (u : Nat)
  /-- HALT_REQUEST (R420): A haltreq write halts the named team or block at the end of its current clause, or holds it pending. -/
  | haltRequest (u : Nat) (v : DWord)
  /-- HALT_RESUME (R420): A haltreq write with the resume bit resumes a halted team. -/
  | haltResume (u : Nat) (v : DWord)
  /-- SUITE_MAP_REQUEST (R440): A root mailbox command 1 asks the root firmware to zero, empty and refence rooms into a new suite map. -/
  | suiteMapRequest
  /-- ATTESTATION_REQUEST (R447): A root mailbox command 2 asks for a signed attestation report written to host memory. -/
  | attestationRequest
  /-- ROOT_MAILBOX_REPLY (R478): The root firmware finishes a mailbox request, posts its reply status and raises vector 64. -/
  | rootMailboxReply
  /-- FUNCTION_LEVEL_RESET (R448): A function-level reset kills every block and re-runs boot step 5 with memory zeroed. -/
  | functionLevelReset
  /-- HOT_RESET (R448): A hot reset re-runs every boot step. -/
  | hotReset
  /-- COLD_RESET (R448): A cold reset runs the boot from link up to ready, with memory training and firmware verification. -/
  | coldReset
  /-- THERMAL_SHUTDOWN (R450): At 115 degrees C the root firmware stops the device and raises vector 67. -/
  | thermalShutdown
  /-- CLOCK_STOP (R424): At the armed tick every clock domain is gated and the tick counter stops for scan-out. -/
  | clockStop
  /-- CLOCK_RELEASE (R424): Clocks released through IEEE 1149.1 resume counting from the stop tick. -/
  | clockRelease (t : DWord)
  /-- NOP (R111): Does nothing. -/
  | nop
  /-- MOV (R111): Copies the source to d. -/
  | mov (d : Opnd) (a : Src)
  /-- IADD (R111): Wrapping 32-bit add. -/
  | iadd (d : Opnd) (a : Opnd) (b : Src)
  /-- IADDS_I32 (R111): Signed saturating add. -/
  | iaddsI32 (d : Opnd) (a : Opnd) (b : Src)
  /-- IADDS_N32 (R111): Unsigned saturating add. -/
  | iaddsN32 (d : Opnd) (a : Opnd) (b : Src)
  /-- ISUB (R111): Wrapping 32-bit subtract. -/
  | isub (d : Opnd) (a : Opnd) (b : Src)
  /-- ISUBS_I32 (R111): Signed saturating subtract. -/
  | isubsI32 (d : Opnd) (a : Opnd) (b : Src)
  /-- ISUBS_N32 (R111): Unsigned saturating subtract. -/
  | isubsN32 (d : Opnd) (a : Opnd) (b : Src)
  /-- IMUL (R111): Wrapping 32-bit multiply. -/
  | imul (d : Opnd) (a : Opnd) (b : Src)
  /-- IMULH_I32 (R111): High word of the signed product. -/
  | imulhI32 (d : Opnd) (a : Opnd) (b : Src)
  /-- IMULH_N32 (R111): High word of the unsigned product. -/
  | imulhN32 (d : Opnd) (a : Opnd) (b : Src)
  /-- IMAD (R111): Wrapping multiply-add into d. -/
  | imad (d : Opnd) (a : Opnd) (b : Src)
  /-- IMIN_I32 (R111): Signed minimum. -/
  | iminI32 (d : Opnd) (a : Opnd) (b : Src)
  /-- IMIN_N32 (R111): Unsigned minimum. -/
  | iminN32 (d : Opnd) (a : Opnd) (b : Src)
  /-- IMAX_I32 (R111): Signed maximum. -/
  | imaxI32 (d : Opnd) (a : Opnd) (b : Src)
  /-- IMAX_N32 (R111): Unsigned maximum. -/
  | imaxN32 (d : Opnd) (a : Opnd) (b : Src)
  /-- IABS (R111): Wrapping absolute value. -/
  | iabs (d : Opnd) (a : Src)
  /-- INEG (R111): Wrapping negation. -/
  | ineg (d : Opnd) (a : Src)
  /-- AND (R113): Bitwise and. -/
  | and (d : Opnd) (a : Opnd) (b : Src)
  /-- OR (R113): Bitwise or. -/
  | or (d : Opnd) (a : Opnd) (b : Src)
  /-- XOR (R113): Bitwise exclusive or. -/
  | xor (d : Opnd) (a : Opnd) (b : Src)
  /-- ANDN (R113): And with the complement of b. -/
  | andn (d : Opnd) (a : Opnd) (b : Src)
  /-- SHL (R113): Saturating-count left shift. -/
  | shl (d : Opnd) (a : Opnd) (b : Src)
  /-- SHRN (R113): Logical right shift. -/
  | shrn (d : Opnd) (a : Opnd) (b : Src)
  /-- SHRA (R113): Arithmetic right shift. -/
  | shra (d : Opnd) (a : Opnd) (b : Src)
  /-- ROTL (R113): Rotate left by c mod 32. -/
  | rotl (d : Opnd) (a : Opnd) (b : Src)
  /-- POPC (R113): Population count. -/
  | popc (d : Opnd) (a : Src)
  /-- CLZ (R113): Count leading zeros. -/
  | clz (d : Opnd) (a : Src)
  /-- BREV (R113): Bit reverse. -/
  | brev (d : Opnd) (a : Src)
  /-- BFX_N32 (R114): Unsigned bit-field extract. -/
  | bfxN32 (d : Opnd) (a : Opnd) (b : Src)
  /-- BFX_I32 (R114): Signed bit-field extract. -/
  | bfxI32 (d : Opnd) (a : Opnd) (b : Src)
  /-- BFI (R114): Bit-field insert into d. -/
  | bfi (d : Opnd) (a : Opnd) (b : Src)
  /-- ICMP_EQ (R115): Equality compare into a predicate. -/
  | icmpEq (p : Fin 8) (a : Opnd) (b : Src)
  /-- ICMP_NE (R115): Inequality compare into a predicate. -/
  | icmpNe (p : Fin 8) (a : Opnd) (b : Src)
  /-- ICMP_LT_I32 (R115): Signed less-than compare. -/
  | icmpLtI32 (p : Fin 8) (a : Opnd) (b : Src)
  /-- ICMP_LE_I32 (R115): Signed less-or-equal compare. -/
  | icmpLeI32 (p : Fin 8) (a : Opnd) (b : Src)
  /-- ICMP_LT_N32 (R115): Unsigned less-than compare. -/
  | icmpLtN32 (p : Fin 8) (a : Opnd) (b : Src)
  /-- ICMP_LE_N32 (R115): Unsigned less-or-equal compare. -/
  | icmpLeN32 (p : Fin 8) (a : Opnd) (b : Src)
  /-- SEL_P (R116): Selects a or b per lane by predicate pN. -/
  | selP (n : Fin 8) (d : Opnd) (a : Opnd) (b : Src)
  /-- IADD_W (R112): Wrapping 64-bit add. -/
  | iaddW (d : Opnd) (a : Opnd) (b : Src)
  /-- ISUB_W (R112): Wrapping 64-bit subtract. -/
  | isubW (d : Opnd) (a : Opnd) (b : Src)
  /-- IMULW_N32 (R112): Full 64-bit unsigned product. -/
  | imulwN32 (d : Opnd) (a : Opnd) (b : Src)
  /-- IMULW_I32 (R112): Full 64-bit signed product. -/
  | imulwI32 (d : Opnd) (a : Opnd) (b : Src)
  /-- SHL_W (R112): 64-bit left shift. -/
  | shlW (d : Opnd) (a : Opnd) (b : Src)
  /-- SHRN_W (R112): 64-bit logical right shift. -/
  | shrnW (d : Opnd) (a : Opnd) (b : Src)
  /-- LEA (R117): 64-bit base plus signed index. -/
  | lea (d : Opnd) (a : Opnd) (b : Src)
  /-- LEA_X4 (R117): 64-bit base plus index times 4. -/
  | leaX4 (d : Opnd) (a : Opnd) (b : Src)
  /-- LEA_X8 (R117): 64-bit base plus index times 8. -/
  | leaX8 (d : Opnd) (a : Opnd) (b : Src)
  /-- MORTON (R118): Interleaves two 16-bit coordinates. -/
  | morton (d : Opnd) (a : Opnd) (b : Src)
  /-- UNMORTON (R118): De-interleaves a Morton code into a pair. -/
  | unmorton (d : Opnd) (a : Src)
  /-- SHFL_IDX (R119): Reads a from an indexed lane. -/
  | shflIdx (d : Opnd) (a : Opnd) (b : Src)
  /-- SHFL_XOR (R119): Reads a from lane l xor y. -/
  | shflXor (d : Opnd) (a : Opnd) (b : Src)
  /-- SHFL_UP (R119): Reads a from lane l minus y. -/
  | shflUp (d : Opnd) (a : Opnd) (b : Src)
  /-- SHFL_DOWN (R119): Reads a from lane l plus y. -/
  | shflDown (d : Opnd) (a : Opnd) (b : Src)
  /-- BALLOT (R120): Writes the mask of active lanes with nonzero a. -/
  | ballot (d : Opnd) (a : Opnd)
  /-- RDLANE (R121): Broadcasts a from one lane. -/
  | rdlane (d : Opnd) (a : Opnd) (b : Src)
  /-- SCAN_ADD (R122): Inclusive or exclusive prefix sum over active lanes. -/
  | scanAdd (ex : Bool) (d : Opnd) (a : Opnd)
  /-- REDUCE_ADD (R123): Sum over active lanes broadcast. -/
  | reduceAdd (d : Opnd) (a : Opnd)
  /-- REDUCE_MIN_I32 (R123): Signed minimum over active lanes broadcast. -/
  | reduceMinI32 (d : Opnd) (a : Opnd)
  /-- REDUCE_MAX_I32 (R123): Signed maximum over active lanes broadcast. -/
  | reduceMaxI32 (d : Opnd) (a : Opnd)
  /-- MATCH (R124): Writes the mask of active lanes with equal values. -/
  | matchV (d : Opnd) (a : Opnd)
  /-- RNG (R126): Writes rngmix of the seed, counter and lane, then advances the counter. -/
  | rng (d : Opnd) (a : Src)
  /-- MODESET (R129): Writes FMODE from a uniform source. -/
  | modeset (a : Src)
  /-- MODESET_RNG (R129): Writes the team's RNG counter. -/
  | modesetRng (a : Src)
  /-- FADD (R159): Binary32 add. -/
  | fadd (d : Opnd) (a : Opnd) (b : Src)
  /-- FSUB (R159): Binary32 subtract. -/
  | fsub (d : Opnd) (a : Opnd) (b : Src)
  /-- FMUL (R159): Binary32 multiply. -/
  | fmul (d : Opnd) (a : Opnd) (b : Src)
  /-- FFMA (R159): Binary32 fused multiply-add into d. -/
  | ffma (d : Opnd) (a : Opnd) (b : Src)
  /-- FMIN (R160): Binary32 minimum. -/
  | fmin (d : Opnd) (a : Opnd) (b : Src)
  /-- FMAX (R160): Binary32 maximum. -/
  | fmax (d : Opnd) (a : Opnd) (b : Src)
  /-- FCMP_EQ (R161): Float equality into a predicate. -/
  | fcmpEq (p : Fin 8) (a : Opnd) (b : Src)
  /-- FCMP_LT (R161): Float less-than into a predicate. -/
  | fcmpLt (p : Fin 8) (a : Opnd) (b : Src)
  /-- FCMP_LE (R161): Float less-or-equal into a predicate. -/
  | fcmpLe (p : Fin 8) (a : Opnd) (b : Src)
  /-- FCMP_UN (R161): Float unordered test into a predicate. -/
  | fcmpUn (p : Fin 8) (a : Opnd) (b : Src)
  /-- HADD2_F16 (R162): Packed f16 add. -/
  | hadd2F16 (d : Opnd) (a : Opnd) (b : Src)
  /-- HMUL2_F16 (R162): Packed f16 multiply. -/
  | hmul2F16 (d : Opnd) (a : Opnd) (b : Src)
  /-- HFMA2_F16 (R162): Packed f16 fused multiply-add. -/
  | hfma2F16 (d : Opnd) (a : Opnd) (b : Src)
  /-- HADD2_BF16 (R162): Packed bf16 add. -/
  | hadd2Bf16 (d : Opnd) (a : Opnd) (b : Src)
  /-- HMUL2_BF16 (R162): Packed bf16 multiply. -/
  | hmul2Bf16 (d : Opnd) (a : Opnd) (b : Src)
  /-- HFMA2_BF16 (R162): Packed bf16 fused multiply-add. -/
  | hfma2Bf16 (d : Opnd) (a : Opnd) (b : Src)
  /-- DADD (R163): Binary64 add. -/
  | dadd (d : Opnd) (a : Opnd) (b : Src)
  /-- DMUL (R163): Binary64 multiply. -/
  | dmul (d : Opnd) (a : Opnd) (b : Src)
  /-- DFMA (R163): Binary64 fused multiply-add. -/
  | dfma (d : Opnd) (a : Opnd) (b : Src)
  /-- DCMP_LT (R164): Binary64 less-than into a predicate. -/
  | dcmpLt (p : Fin 8) (a : Opnd) (b : Src)
  /-- DCMP_EQ (R164): Binary64 equality into a predicate. -/
  | dcmpEq (p : Fin 8) (a : Opnd) (b : Src)
  /-- FRCP (R166): Correctly rounded reciprocal. -/
  | frcp (d : Opnd) (a : Src)
  /-- FRSQ (R166): Correctly rounded reciprocal square root. -/
  | frsq (d : Opnd) (a : Src)
  /-- FSQRT (R166): Correctly rounded square root. -/
  | fsqrt (d : Opnd) (a : Src)
  /-- FEXP2 (R166): Correctly rounded base-2 exponential. -/
  | fexp2 (d : Opnd) (a : Src)
  /-- FLOG2 (R166): Correctly rounded base-2 logarithm. -/
  | flog2 (d : Opnd) (a : Src)
  /-- FSIN (R166): Correctly rounded sin of 2 pi x. -/
  | fsin (d : Opnd) (a : Src)
  /-- FCOS (R166): Correctly rounded cos of 2 pi x. -/
  | fcos (d : Opnd) (a : Src)
  /-- FDIV (R166): Correctly rounded division. -/
  | fdiv (d : Opnd) (a : Opnd) (b : Src)
  /-- FFRACT (R167): Fractional part rounded down. -/
  | ffract (d : Opnd) (a : Src)
  /-- FRND_RN (R167): Round to integral, nearest even. -/
  | frndRn (d : Opnd) (a : Src)
  /-- FRND_RZ (R167): Round to integral toward zero. -/
  | frndRz (d : Opnd) (a : Src)
  /-- FRND_RD (R167): Round to integral downward. -/
  | frndRd (d : Opnd) (a : Src)
  /-- FRND_RU (R167): Round to integral upward. -/
  | frndRu (d : Opnd) (a : Src)
  /-- FDOT2_BF16 (R168): Two-term bf16 dot product accumulated in f32 with one rounding. -/
  | fdot2Bf16 (d : Opnd) (a : Opnd) (b : Src)
  /-- IDOT4_I8 (R169): Four-term signed i8 dot product accumulated with wrap. -/
  | idot4I8 (d : Opnd) (a : Opnd) (b : Src)
  /-- FSAT (R167): Clamps to [+0, 1]. -/
  | fsat (d : Opnd) (a : Src)
  /-- CVT (R146): Converts between type codes by FMODE rounding without saturation. -/
  | cvt (d : Opnd) (a : Src) (t : Fin 16) (s : Fin 16)
  /-- CVT_SAT (R146): Converts between type codes with saturation. -/
  | cvtSat (d : Opnd) (a : Src) (t : Fin 16) (s : Fin 16)
  /-- CVT_SR (R146): Converts with stochastic rounding and saturation. -/
  | cvtSr (d : Opnd) (a : Src) (t : Fin 16) (s : Fin 16)
  /-- PACK (R148): Converts a pair or quad of 32-bit values into one packed word. -/
  | pack (d : Opnd) (a : Opnd) (t : Fin 16) (s : Fin 16)
  /-- UNPACK (R148): Converts a packed word into a pair or quad of 32-bit values. -/
  | unpack (d : Opnd) (a : Src) (t : Fin 16) (s : Fin 16)
  /-- CBLOOK (R149): Reads a codebook entry as the upper half of an f32. -/
  | cblook (c : Fin 8) (d : Opnd) (a : Src)
  /-- CBSET (R149): Writes a pair of codebook entries. -/
  | cbset (c : Fin 8) (q : Fin 8) (a : Src)
  /-- RKEY_F32 (R310): Maps an f32 to a monotone unsigned key. -/
  | rkeyF32 (d : Opnd) (a : Src)
  /-- RKEY_BF16 (R310): Maps a bf16 to a monotone unsigned key. -/
  | rkeyBf16 (d : Opnd) (a : Src)
  /-- RDIG (R311): Extracts an ascending or descending radix digit of a key. -/
  | rdig (desc : Bool) (d : Opnd) (a : Opnd) (b : Src)
  /-- ARGMAX (R312): Writes the lane with the largest nonzero key. -/
  | argmax (d : Opnd) (a : Opnd)
  /-- RANK (R313): Writes each lane's descending rank. -/
  | rank (d : Opnd) (a : Opnd)
  /-- BRA (R78): Predicated branch of active lanes to a marked clause. -/
  | bra (neg : Bool) (p : Fin 8) (o : BOff)
  /-- BRU (R78): Unconditional branch of active lanes. -/
  | bru (o : BOff)
  /-- BRX (R79): Indirect branch to per-lane code addresses. -/
  | brx (a : Opnd)
  /-- CALL (R81): Pushes return address and priority and transfers. -/
  | call (o : BOff)
  /-- CALLX (R81): Indirect call to per-lane addresses. -/
  | callx (a : Opnd)
  /-- RET (R82): Pops the call stack, or retires lanes at depth 0. -/
  | ret
  /-- EXIT (R83): Retires active lanes, and the team when none is left. -/
  | exit
  /-- JSET (R85): Sets a rejoin mask's expect mask and clears arrived. -/
  | jset (i : Fin 8) (a : Src)
  /-- ARRIVE (R86): Marks active expected lanes arrived at a rejoin mask. -/
  | arrive (i : Fin 8)
  /-- WAITJ (R87): Arrives and holds expected lanes at a rejoin mask. -/
  | waitj (i : Fin 8)
  /-- PAND (R89): Predicate and. -/
  | pand (d : Fin 8) (a : Fin 8) (b : PSrc)
  /-- POR (R89): Predicate or. -/
  | por (d : Fin 8) (a : Fin 8) (b : PSrc)
  /-- PXOR (R89): Predicate exclusive or. -/
  | pxor (d : Fin 8) (a : Fin 8) (b : PSrc)
  /-- PNOT (R89): Predicate not. -/
  | pnot (d : Fin 8) (a : Fin 8)
  /-- PMOV (R89): Predicate move. -/
  | pmov (d : Fin 8) (a : PSrc)
  /-- YIELD (R90): Ends the clause and counts the team as just issued. -/
  | yield
  /-- SLEEP (R91): Makes the team not ready for n ticks. -/
  | sleep (a : Src)
  /-- BINIT (R95): Initialises a block barrier's expect count. -/
  | binit (i : Fin 16) (a : Src)
  /-- BARRIVE (R96): Adds arrivals to a block barrier. -/
  | barrive (i : Fin 16) (a : Count)
  /-- BWAIT (R97): Waits for a barrier phase to change. -/
  | bwait (i : Fin 16)
  /-- BSYNC (R96): Arrives at a barrier and waits. -/
  | bsync (i : Fin 16) (a : Count)
  /-- BINVAL (R98): Invalidates a barrier and releases waiters with BARGONE. -/
  | binval (i : Fin 16)
  /-- BTEST (R99): Reads a barrier word with the team's armed state. -/
  | btest (i : Fin 16) (a : Opnd)
  /-- BARRIVE_PEER (R104): Adds one arrival to a hitch peer's barrier. -/
  | barrivePeer (i : Fin 16) (a : Opnd)
  /-- HITCH (R101): Joins or starts the hitch of a key on the post. -/
  | hitch (d : Opnd) (a : Src)
  /-- UNHITCH (R103): Leaves the hitch and revokes its windows. -/
  | unhitch
  /-- HMAP (R102): Maps a hitch peer's stash into a window. -/
  | hmap (d : Opnd) (a : Src)
  /-- TRAP (R105): Raises SWTRAP with a value. -/
  | trap (a : Src)
  /-- BKPT (R105): Raises BKPT. -/
  | bkpt
  /-- TMARK (R105): Emits a trace record carrying a value. -/
  | tmark (a : Src)
  /-- LDG_N8 (R180): Global load of an unsigned byte. -/
  | ldgN8 (d : Opnd) (a : Opnd) (b : MOff)
  /-- LDG_I8 (R180): Global load of a signed byte. -/
  | ldgI8 (d : Opnd) (a : Opnd) (b : MOff)
  /-- LDG_N16 (R180): Global load of an unsigned half. -/
  | ldgN16 (d : Opnd) (a : Opnd) (b : MOff)
  /-- LDG_I16 (R180): Global load of a signed half. -/
  | ldgI16 (d : Opnd) (a : Opnd) (b : MOff)
  /-- LDG_B32 (R180): Global load of a word. -/
  | ldgB32 (d : Opnd) (a : Opnd) (b : MOff)
  /-- LDG_B64 (R180): Global load of a pair. -/
  | ldgB64 (d : Opnd) (a : Opnd) (b : MOff)
  /-- LDG_B128 (R180): Global load of a quad. -/
  | ldgB128 (d : Opnd) (a : Opnd) (b : MOff)
  /-- STG_B8 (R180): Global store of a byte. -/
  | stgB8 (d : Opnd) (a : Opnd) (b : MOff)
  /-- STG_B16 (R180): Global store of a half. -/
  | stgB16 (d : Opnd) (a : Opnd) (b : MOff)
  /-- STG_B32 (R180): Global store of a word. -/
  | stgB32 (d : Opnd) (a : Opnd) (b : MOff)
  /-- STG_B64 (R180): Global store of a pair. -/
  | stgB64 (d : Opnd) (a : Opnd) (b : MOff)
  /-- STG_B128 (R180): Global store of a quad. -/
  | stgB128 (d : Opnd) (a : Opnd) (b : MOff)
  /-- LDS_N8 (R180): Stash load of an unsigned byte. -/
  | ldsN8 (d : Opnd) (a : Opnd) (b : MOff)
  /-- LDS_I8 (R180): Stash load of a signed byte. -/
  | ldsI8 (d : Opnd) (a : Opnd) (b : MOff)
  /-- LDS_N16 (R180): Stash load of an unsigned half. -/
  | ldsN16 (d : Opnd) (a : Opnd) (b : MOff)
  /-- LDS_I16 (R180): Stash load of a signed half. -/
  | ldsI16 (d : Opnd) (a : Opnd) (b : MOff)
  /-- LDS_B32 (R180): Stash load of a word. -/
  | ldsB32 (d : Opnd) (a : Opnd) (b : MOff)
  /-- LDS_B64 (R180): Stash load of a pair. -/
  | ldsB64 (d : Opnd) (a : Opnd) (b : MOff)
  /-- LDS_B128 (R180): Stash load of a quad. -/
  | ldsB128 (d : Opnd) (a : Opnd) (b : MOff)
  /-- STS_B8 (R180): Stash store of a byte. -/
  | stsB8 (d : Opnd) (a : Opnd) (b : MOff)
  /-- STS_B16 (R180): Stash store of a half. -/
  | stsB16 (d : Opnd) (a : Opnd) (b : MOff)
  /-- STS_B32 (R180): Stash store of a word. -/
  | stsB32 (d : Opnd) (a : Opnd) (b : MOff)
  /-- STS_B64 (R180): Stash store of a pair. -/
  | stsB64 (d : Opnd) (a : Opnd) (b : MOff)
  /-- STS_B128 (R180): Stash store of a quad. -/
  | stsB128 (d : Opnd) (a : Opnd) (b : MOff)
  /-- LDL_B32 (R180): Lane-private load of a word. -/
  | ldlB32 (d : Opnd) (a : Opnd) (b : MOff)
  /-- LDL_B64 (R180): Lane-private load of a pair. -/
  | ldlB64 (d : Opnd) (a : Opnd) (b : MOff)
  /-- LDL_B128 (R180): Lane-private load of a quad. -/
  | ldlB128 (d : Opnd) (a : Opnd) (b : MOff)
  /-- STL_B32 (R180): Lane-private store of a word. -/
  | stlB32 (d : Opnd) (a : Opnd) (b : MOff)
  /-- STL_B64 (R180): Lane-private store of a pair. -/
  | stlB64 (d : Opnd) (a : Opnd) (b : MOff)
  /-- STL_B128 (R180): Lane-private store of a quad. -/
  | stlB128 (d : Opnd) (a : Opnd) (b : MOff)
  /-- LDGC_B32 (R181): Global word load with a long lease. -/
  | ldgcB32 (d : Opnd) (a : Opnd) (b : MOff)
  /-- LDGC_B64 (R181): Global pair load with a long lease. -/
  | ldgcB64 (d : Opnd) (a : Opnd) (b : MOff)
  /-- GATHER_B32 (R182): Indexed word gather with null index. -/
  | gatherB32 (d : Opnd) (a : Opnd) (b : Opnd)
  /-- GATHER_B64 (R182): Indexed pair gather with null index. -/
  | gatherB64 (d : Opnd) (a : Opnd) (b : Opnd)
  /-- SCATTER_B32 (R182): Indexed word scatter. -/
  | scatterB32 (d : Opnd) (a : Opnd) (b : Opnd)
  /-- SCATTER_B64 (R182): Indexed pair scatter. -/
  | scatterB64 (d : Opnd) (a : Opnd) (b : Opnd)
  /-- SMAP (R185): Maps a run of stash lines to global lines. -/
  | smap (d : Opnd) (a : Opnd) (b : Src)
  /-- SUNMAP (R186): Writes back and frees a map slot. -/
  | sunmap (a : Src)
  /-- SFLUSH (R186): Writes back dirty mapped lines, leaving them mapped. -/
  | sflush (a : Src)
  /-- PREF (R187): Prefetches a line toward the core. -/
  | pref (a : Opnd) (b : MOff)
  /-- FENCE (R213): Stalls until predecessor kinds have performed to the scope. -/
  | fence (scope : BitVec 3) (p : BitVec 5) (u : BitVec 5)
  /-- ATOM_ADD_I32 (R223): Atomic integer add returning old. -/
  | atomAddI32 (d : Opnd) (a : Opnd) (b : MOff)
  /-- ATOM_ADD_F32 (R223): Atomic f32 add returning old. -/
  | atomAddF32 (d : Opnd) (a : Opnd) (b : MOff)
  /-- ATOM_MIN_I32 (R223): Atomic signed minimum. -/
  | atomMinI32 (d : Opnd) (a : Opnd) (b : MOff)
  /-- ATOM_MIN_N32 (R223): Atomic unsigned minimum. -/
  | atomMinN32 (d : Opnd) (a : Opnd) (b : MOff)
  /-- ATOM_MAX_I32 (R223): Atomic signed maximum. -/
  | atomMaxI32 (d : Opnd) (a : Opnd) (b : MOff)
  /-- ATOM_MAX_N32 (R223): Atomic unsigned maximum. -/
  | atomMaxN32 (d : Opnd) (a : Opnd) (b : MOff)
  /-- ATOM_AND (R223): Atomic and. -/
  | atomAnd (d : Opnd) (a : Opnd) (b : MOff)
  /-- ATOM_OR (R223): Atomic or. -/
  | atomOr (d : Opnd) (a : Opnd) (b : MOff)
  /-- ATOM_XOR (R223): Atomic exclusive or. -/
  | atomXor (d : Opnd) (a : Opnd) (b : MOff)
  /-- ATOM_XCHG (R223): Atomic exchange. -/
  | atomXchg (d : Opnd) (a : Opnd) (b : MOff)
  /-- ATOM_CAS (R223): Atomic 32-bit compare and swap. -/
  | atomCas (d : Opnd) (a : Opnd) (b : MOff)
  /-- ATOM_INC (R223): Atomic bounded increment. -/
  | atomInc (d : Opnd) (a : Opnd) (b : MOff)
  /-- ATOM_ADD_W (R223): Atomic 64-bit add. -/
  | atomAddW (d : Opnd) (a : Opnd) (b : MOff)
  /-- ATOM_MIN_W (R223): Atomic 64-bit unsigned minimum. -/
  | atomMinW (d : Opnd) (a : Opnd) (b : MOff)
  /-- ATOM_CAS_W (R223): Atomic 64-bit compare and swap. -/
  | atomCasW (d : Opnd) (a : Opnd) (b : MOff)
  /-- RED_ADD_I32 (R223): Integer add reduction, no return. -/
  | redAddI32 (d : Opnd) (a : Opnd) (b : MOff)
  /-- RED_ADD_F32 (R223): f32 add reduction, no return. -/
  | redAddF32 (d : Opnd) (a : Opnd) (b : MOff)
  /-- RED_MIN_W (R223): 64-bit unsigned minimum reduction. -/
  | redMinW (d : Opnd) (a : Opnd) (b : MOff)
  /-- RED_MAX_N32 (R223): Unsigned maximum reduction. -/
  | redMaxN32 (d : Opnd) (a : Opnd) (b : MOff)
  /-- SATOM_ADD (R223): Stash atomic add. -/
  | satomAdd (d : Opnd) (a : Opnd) (b : MOff)
  /-- SATOM_MIN_N32 (R223): Stash atomic unsigned minimum. -/
  | satomMinN32 (d : Opnd) (a : Opnd) (b : MOff)
  /-- SATOM_CAS (R223): Stash atomic compare and swap. -/
  | satomCas (d : Opnd) (a : Opnd) (b : MOff)
  /-- RHIST (R229): Team-aggregated histogram adds to stash bins. -/
  | rhist (d : Opnd) (a : Opnd) (b : Opnd)
  /-- STAGE (R231): Draws a chunk of work from a stage counter. -/
  | stage (d : Opnd) (a : Opnd) (b : MOff)
  /-- TXBEGIN (R233): Begins each active lane's transaction and records the abort point. -/
  | txbegin (d : Opnd)
  /-- TXEND (R237): Validates and commits the lanes' transactions. -/
  | txend
  /-- TXABORT (R238): Aborts open transactions with EXPLICIT. -/
  | txabort (a : Src)
  /-- TXSTAT (R239): Reads the lane's transaction status word. -/
  | txstat (d : Opnd)
  /-- MNOP (R289): Matrix stream no-op. -/
  | mnop
  /-- MMOVQ (R289): Moves a q register or literal. -/
  | mmovq (d : Fin 16) (a : QSrc)
  /-- MADDQ (R289): Adds q registers. -/
  | maddq (d : Fin 16) (a : Fin 16) (b : QSrc)
  /-- MLOOP (R289): Decrements a q counter and branches while nonzero. -/
  | mloop (c : Fin 16) (o : BOff)
  /-- MTC (R290): Writes a tile or accumulator control word. -/
  | mtc (c : Fin 12) (a : QSrc)
  /-- MLOAD (R291): Loads a tile or accumulator from stash. -/
  | mload (t : Fin 12) (a : QSrc) (p : Pitch)
  /-- MSTORE (R292): Converts and stores an accumulator to stash. -/
  | mstore (t : Fin 4) (a : QSrc) (p : Pitch)
  /-- MZERO (R293): Zeroes an accumulator. -/
  | mzero (n : Fin 4)
  /-- MMA (R298): Dense matrix multiply-accumulate chunk by chunk. -/
  | mma (n : Fin 4) (rx : Bool) (x : Fin 8) (ry : Bool) (y : Fin 8)
  /-- MMAS (R299): Bitmap-sparse matrix multiply-accumulate. -/
  | mmas (n : Fin 4) (rx : Bool) (x : Fin 8) (ry : Bool) (y : Fin 8)
  /-- MMANM (R300): Two-of-four sparse multiply-accumulate with residuals. -/
  | mmanm (n : Fin 4) (rx : Bool) (x : Fin 8) (ry : Bool) (y : Fin 8)
  /-- MDECOMP (R301): Decomposes a tile into two-of-four form with residuals. -/
  | mdecomp (d : Fin 8) (s : Fin 8) (b : Fin 16)
  /-- MSCALE (R294): Loads a tile's scale store. -/
  | mscale (n : Fin 8) (a : QSrc)
  /-- MFMT (R302): Waits at a barrier and takes the closed vote round's format word. -/
  | mfmt (n : Fin 16)
  /-- MWAIT (R302): Sequencer waits on a barrier. -/
  | mwait (n : Fin 16)
  /-- MSIGNAL (R302): Sequencer arrives at a barrier after its stash work performs. -/
  | msignal (n : Fin 16)
  /-- MAWAIT (R303): Sequencer acquires a ring slot. -/
  | mawait (d : Fin 16) (h : Fin 16)
  /-- MRELEASE (R303): Sequencer releases a ring slot. -/
  | mrelease (h : Fin 16) (s : Fin 16)
  /-- MSTAMP (R304): Sequencer stamps or retires a stamp slot event. -/
  | mstamp (s : Fin 4) (v : Fin 7)
  /-- MEND (R289): Ends the matrix program after earlier instructions complete. -/
  | mend
  /-- FORK (R249): Collective fork that starts the matrix and stream programs on the last arrival. -/
  | fork (a : Opnd) (b : Src)
  /-- RENDEZ (R250): Waits until the latest fork's programs have ended. -/
  | rendez (d : Option Opnd)
  /-- COPY (R253): Adds a slice to a collective copy, executed when all slices arrive. -/
  | copy (d : Opnd) (a : Opnd) (b : Src)
  /-- COPYR (R254): Copies a range to or from another device of the route. -/
  | copyr (d : Opnd) (a : Src)
  /-- LAYOUT (R257): Loads a tensor layout record into a layout slot. -/
  | layout (d : Opnd) (a : Opnd) (b : Src)
  /-- STREAM (R267): Starts a stream job filling or draining a slot ring. -/
  | stream (d : Opnd) (a : Src)
  /-- RINIT (R259): Initialises or releases a slot ring entry. -/
  | rinit (d : Opnd) (a : Opnd) (b : Src)
  /-- RAWAIT (R261): Acquires a ring slot on the team side. -/
  | rawait (d : Opnd) (a : Src)
  /-- RRELEASE (R262): Counts one release of a ring slot. -/
  | rrelease (a : Opnd) (b : Src)
  /-- RSTAT (R263): Reads a ring's counts. -/
  | rstat (d : Opnd) (a : Src)
  /-- JOBCARD (R269): Submits a job card's job with its declared footprint. -/
  | jobcard (d : Opnd) (a : Src)
  /-- JWAIT (R270): Waits until at most n of the team's jobs are outstanding. -/
  | jwait (a : Src)
  /-- FMTPOST (R251): Posts a format word vote and arrives at a barrier. -/
  | fmtpost (a : Opnd) (b : Src)
  /-- STAMP_OPEN (R272): Opens a tile stamp record in a stamp slot. -/
  | stampOpen (a : Opnd)
  /-- STAMP_EV (R272): Stamps event k of a stamp slot. -/
  | stampEv (k : Fin 6) (a : Src)
  /-- STAMP_RETIRE (R272): Stamps retire and writes the record as a job. -/
  | stampRetire (a : Src)
  /-- PKLQ (R323): Submits a product-key lookup job. -/
  | pklq (d : Opnd) (a : Src)
  /-- PKLG (R326): Submits a product-key gradient job. -/
  | pklg (d : Opnd) (a : Src)
  /-- SELJOB (R320): Submits a top-k selection job. -/
  | seljob (d : Opnd) (a : Src)
  /-- QPOP (R343): Pops a queue's head entry into stash, waiting unless non-blocking. -/
  | qpop (nb : Bool) (d : Opnd) (a : Opnd) (b : Src)
  /-- QPUSH (R344): Appends an entry or waybill to a queue. -/
  | qpush (a : Opnd) (b : Src)
  /-- QRESERVE (R345): Reserves bytes at a queue's tail. -/
  | qreserve (d : Opnd) (a : Opnd) (b : Src)
  /-- QCOMMIT (R345): Publishes a reservation. -/
  | qcommit (a : Opnd) (b : Src)
  /-- QCANCEL (R345): Withdraws a reservation. -/
  | qcancel (a : Opnd) (b : Src)
  /-- SUCC (R344): Decrements an arena waybill's predecessor count. -/
  | succ (a : Src)
  /-- DONE (R344): Performs SUCC on each successor of a waybill copy. -/
  | doneQ (a : Src)
  /-- RINVOKE (R351): Sends a remote-invocation packet to a handler. -/
  | rinvoke (t : Bool) (d : Opnd) (a : Opnd) (b : Src)
  /-- DEADLINE (R347): Sets a queue's deadline offset and frame-critical bit. -/
  | deadline (a : Opnd) (b : Src)
  /-- DRAINCHK (R349): Reads drain state and ticks left. -/
  | drainchk (d : Opnd)
  /-- QSTAT (R346): Reads one statistic of a queue. -/
  | qstat (i : Fin 5) (d : Opnd) (a : Src)
  /-- VBLD (R370): Reads a pixel of a held tile as a raster record. -/
  | vbld (d : Opnd) (a : Opnd) (b : Opnd)
  /-- VBDEC (R371): Splits an identifier into instance, cluster, triangle and material. -/
  | vbdec (d : Opnd) (a : Opnd)
  /-- TILEACQ (R369): Acquires a reference to a resolved tile, waiting if not yet resolved. -/
  | tileacq (d : Opnd) (a : Opnd) (b : Src)
  /-- TILEREL (R368): Releases a tile reference. -/
  | tilerel (a : Src)
  /-- BINPOP (R377): Pops material bin entries into active lanes. -/
  | binpop (d : Opnd) (a : Src)
  /-- ATTR (R381): Interpolates vertex attributes by barycentrics. -/
  | attr (d : Opnd) (a : Opnd) (b : Src)
  /-- ATTRD (R381): Computes attribute screen derivatives. -/
  | attrd (d : Opnd) (a : Opnd) (b : Src)
  /-- BARY (R379): Fetches a triangle and computes perspective barycentrics and derivatives. -/
  | bary (d : Opnd) (a : Opnd)
  /-- QUADSYN (R378): Writes a pixel record's quad position and flags. -/
  | quadsyn (d : Opnd) (a : Opnd)
  /-- MDECL (R359): Submits the open mesh batch and opens a new one for a view. -/
  | mdecl (d : Opnd) (a : Opnd) (b : Src)
  /-- MOUTV (R360): Writes a vertex position into the open batch. -/
  | moutv (d : Opnd) (a : Opnd)
  /-- MOUTP (R360): Writes a primitive into the open batch. -/
  | moutp (d : Opnd) (a : Opnd)
  /-- TEX (R383): Samples a texture with derivative-based level of detail. -/
  | tex (d : Opnd) (a : Opnd) (b : Opnd)
  /-- TEXLOD (R383): Samples a texture at an explicit level of detail. -/
  | texlod (d : Opnd) (a : Opnd) (b : Opnd)
  /-- TEXFETCH (R383): Fetches one texel of a level. -/
  | texfetch (d : Opnd) (a : Opnd) (b : Opnd)
  /-- IMGST (R384): Writes a colour to an image at a record's pixels. -/
  | imgst (d : Opnd) (a : Opnd) (b : Opnd)
  /-- TRACE (R401): Starts a ray traversal walk per active lane. -/
  | trace (d : Opnd) (a : Opnd) (b : Src)
  /-- TRCONT (R402): Resumes each lane's saved traversal record. -/
  | trcont (d : Opnd) (a : Opnd) (b : Src)
  /-- TRSTAT (R403): Reads a traversal record's state and visits. -/
  | trstat (d : Opnd) (b : Src)
  /-- TRXFORM (R404): Transforms a ray by an instance leaf. -/
  | trxform (d : Opnd) (a : Opnd) (b : Opnd)
  /-- BINHIT (R405): Pushes ray hits into material bins. -/
  | binhit (d : Opnd) (a : Opnd) (b : Src)
  /-- SRD (R417): Reads a special register. -/
  | srd (d : Opnd) (s : Byte)
  /-- SWR (R417): Writes a special register. -/
  | swr (s : Byte) (a : Src)
  /-- TRET (R414): Returns from trap context to the resume point. -/
  | tret
  /-- TICK (R419): Reads the global tick at issue. -/
  | tick (d : Opnd)
  /-- TICK_C (R419): Reads the tick once earlier tracked instructions complete. -/
  | tickC (d : Opnd)
  /-- TLBINV (R421): Invalidates an ASID's translations. -/
  | tlbinv (a : Opnd) (b : Option Opnd)
  /-- ASIDSET (R422): Sets or removes an ASID's root table. -/
  | asidset (a : Opnd) (b : Option Opnd)
  /-- CSAVE (R423): Saves a resident block to a frame. -/
  | csave (d : Opnd) (a : Opnd) (b : Opnd)
  /-- CRESTORE (R423): Restores a frame onto a core. -/
  | crestore (d : Opnd) (a : Opnd)
  /-- EVENT_WAKE (R425): Wakes every sleeping team of the block. -/
  | eventWake (a : Src)
  /-- EVENT_POST (R425): Posts a value to the host event mailbox and raises its interrupt. -/
  | eventPost (a : Src)
  /-- DBGSTOP (R424): Arms the device clock stop at a tick. -/
  | dbgstop (a : Opnd)
  /-- HALT (R420): Halts the team for debug, or raises BKPT. -/
  | halt
  /-- THERMAL_OR_POWER_LIMIT (R450): Module power reaching the host-set cap, or junction temperature reaching 105 degrees C, makes the service firmware withhold issue cycles and raises vector 66. -/
  | thermalOrPowerLimit (ov : Bool)
  /-- ECC_CORRECTABLE (R217): A correctable memory error is corrected in place and counted, and no record is made. -/
  | eccCorrectable (r : Nat)
  deriving DecidableEq, Repr

end Sys2Proof
end

