-- ==== Sys2Proof/Machine/State.lean ====
section
/-! DEFINITION. The state of the machine: everything the spec gives the device, its suites, rooms, cores, blocks,
teams and lanes, as plain data (INVENTORY.md lists each piece with its rule). Indexed state is held in `Tab`s,
which read as the reset value where nothing is listed. -/
namespace Sys2Proof.Machine
open Sys2Proof

/-! ## Teams (02 R57, 03, 09, 16) -/

/-- Trap codes (16 R411). -/
inductive TrapCode where
  | illegal | clause | hazard | badtarget | regwin | misalign | prot | fmtdiv | mtxshape
  | barbusy | bargone | mesh | refused | ecc | bkpt | swtrap | watch | pagefatal | fmtbad
  deriving DecidableEq, Repr

/-- The context a team runs in (16 R410). -/
inductive Context where
  | normal
  | trap
  | service
  deriving DecidableEq, Repr

/-- A frontier entry (03 R73): open, or held on a rejoin mask. -/
structure Entry where
  pc : Nat
  prio : Nat
  mask : Half
  held : Option Nat := none
  deriving DecidableEq, Repr

/-- A rejoin mask (03 R84). -/
structure JMask where
  expect : Half := 0
  arrived : Half := 0
  deriving DecidableEq, Repr

/-- A lane's next PC and priority, decided before its clause ends (03 R74). -/
structure Move where
  lane : Nat
  pc : Nat
  prio : Nat
  deriving DecidableEq, Repr

/-- The clause a frontier entry runs (02 R34-R39): its header's address and fields, the address of its first
word, the lanes of its entry, the active set read once at its start, the address of its next word, the words not yet issued, the transfers its lanes
have taken, and the rejoin mask on which lanes are to be held. -/
structure Clause where
  addr : Nat
  body : Nat
  cls : Nat
  setA : Nat
  setB : Nat
  mask : Half
  prio : Nat
  act : Half
  pc : Nat
  words : List Word
  moves : List Move := []
  hold : Option (Nat × Half) := none
  deriving DecidableEq, Repr

/-- What trap entry keeps (03 R76, 16 R414): the frozen frontier, the clause that trapped with its recorded
active set, and the address of the clause that follows it. -/
structure Kept where
  frontier : List Entry
  clause : Clause
  next : Nat
  deriving DecidableEq, Repr

/-- The team before its last instruction issued: what a trap found at that instruction's translation returns to
(07 R193). -/
structure Prev where
  clause : Clause
  frontier : List Entry
  joins : Tab JMask
  rejoinlost : Word
  deriving DecidableEq, Repr

/-- A register tag (02 R58, R59): a completion flag or an engine's token. -/
inductive Tag where
  | flag (f : Nat)
  | token
  deriving DecidableEq, Repr

/-- Where a byte access lands once translated: device memory (52-bit physical), a host bus address, the stash of
a block, or lane-private bytes at a device address. -/
inductive Place where
  | dev (pa : Nat)
  | host (ba : Nat)
  | stash (b off : Nat)
  | lane (off pa : Nat)
  deriving DecidableEq, Repr

/-- One lane's piece of a memory instruction: its address, width, the data it stores or computes with, the mapped
stash line it was reached through (block, line), its translation once made, whether it has performed, what it read,
and the first register of the destination it fills. -/
structure Elem where
  lane : Nat
  va : Nat
  n : Nat
  data : Nat := 0
  data2 : Nat := 0
  via : Option (Nat × Nat) := none
  place : Option Place := none
  done : Bool := false
  got : Nat := 0
  reg : Nat := 0
  deriving DecidableEq, Repr

/-- What an atomic computes (09 R223, R229, R231). -/
inductive AtomOp where
  | add | addF | minI | minN | maxI | maxN | and | or | xor | xchg | cas | inc
  | addW | minW | casW | stage
  deriving DecidableEq, Repr

/-- A lane's walk of the traversal unit (15 R396-R399): the call's control record and ray, the current entry, its place
among the node's slots and a leaf's triangles, the trail and stack, the current instance, the held hit and the
candidate (t, u, v, cluster, triangle, instance), a restart's depth and how deep it has come, the visits of this call
and of the calls before, a decision to apply, and its end (code, detail). -/
structure RayWalk where
  root : Nat := 0
  budget : Nat := 0
  rmask : Nat := 0
  tflags : Nat := 0
  ray : List Word := []
  cur : Nat := 0
  trail : Nat := 0
  ovf : Bool := false
  stack : List Nat := []
  idepth : Option Nat := none
  ileaf : Nat := 0
  slot : Nat := 0
  tri : Nat := 0
  inst : Option (List Byte) := none
  node : Option (List Byte) := none
  seenNode : Bool := false
  inLeaf : Bool := false
  hit : Option (List Word) := none
  cand : Option (List Word) := none
  restart : Option (Nat × Nat) := none
  pend : Option Bool := none
  last : Bool := false
  used : Nat := 0
  before : Nat := 0
  ended : Option (Nat × Nat) := none
  deriving DecidableEq, Repr

/-- The elements that have performed of an instruction or of a unit's step, in their order, one aligned 32-byte unit each (08 R208;
15 R390): the bytes read, none for a write; `none` for one that its agent gave up. -/
abbrev ULog := List (Option (List Byte))

/-- What a task instruction asks of the ostler, with what it read at issue (13 R342-R346, R351). -/
inductive TaskOp where
  | pop (q off : Nat) (nb : Bool)
  | push (q off : Nat) (data : List Byte)
  | reserve (q n : Nat)
  | commit (q res : Nat)
  | cancel (q res : Nat)
  | succ (handle : Nat)
  | done (handles : List Nat)
  | invoke (rt : Word) (data : List Byte) (t : Bool) (seq tries : Nat) (since : Option Nat)
  deriving DecidableEq, Repr

/-- A graphics instruction that reads or writes global memory for its lanes (14, 15): what it captured at issue stands in
the operation's `args`, a list of words for each active lane, and `aux`. -/
inductive UnitOp where
  | xform
  | vbdec (layout binding : Nat)
  | binpop
  | bary (layout binding : Nat)
  | attr (k n : Nat) (binding : Nat)
  | attrd (k n : Nat) (binding : Nat)
  | tex (desc : List Byte)
  | texlod (desc : List Byte)
  | texfetch (desc : List Byte)
  | imgst (desc : List Byte)
  deriving DecidableEq, Repr

/-- What kind of long-latency instruction an operation is. `atomic` says whether a host page is admitted (09 R221). -/
inductive OpKind where
  | load | store | prefetch | laneLoad | laneStore
  | atomic (o : AtomOp) (sys : Bool)
  | value
  | deferred
  | task (o : TaskOp)
  | walk (trec : Nat)
  | mdecl (view counts : Nat)
  | tileAcq (view tile : Nat)
  | binPush (stores : List (Nat × List Byte)) (left : List (Nat × List Byte))
  | unit (u : UnitOp)
  deriving DecidableEq, Repr

/-- A tracked instruction that has issued and not completed (02 R40, 07 R195): its words, the flag that tracks it,
the lanes it runs for, its pieces in lane order, the register writes it owes (key: operand byte × 16 + lane), the
operand bytes of its destination, whether one piece serves every lane, whether a narrow value is sign-extended,
whether it holds its line by a long lease, its hint (07 R177), whether it is a gather, whether it left the core as a
provisional store (08 R205), whether it waits on a page fault (07 R196) or met poison (08 R218), its walks, the elements that have
performed of a graphics instruction or of the walk in turn. -/
structure Op where
  id : Nat := 0
  pc : Nat := 0
  word : Word := 0
  lit : Word := 0
  kind : OpKind := .value
  flag : Option Nat := none
  act : Half := 0
  els : List Elem := []
  writes : List (Nat × Word) := []
  dests : List Nat := []
  args : List (List Word) := []
  aux : List Nat := []
  uni : Bool := false
  sgn : Bool := false
  const : Bool := false
  hint : Nat := 0
  gather : Bool := false
  prov : Bool := false
  faulted : Bool := false
  ecc : Bool := false
  seq : Nat := 0
  issued : Nat := 0
  walks : List RayWalk := []
  log : ULog := []
  deriving DecidableEq, Repr

/-- A trap to deliver before the team's next instruction (07 R196, 08 R218, 13 R352). -/
structure Delayed where
  code : TrapCode
  pc : Nat
  addr : Nat
  mstream : Bool := false
  deriving DecidableEq, Repr

/-- What a team waits for: it issues nothing until the wait ends. -/
inductive Wait where
  | sleep (deadline : Nat)
  | unit (n : Nat)
  | barrier (n : Nat)
  | retry
  deriving DecidableEq, Repr

/-- A lane's transaction (09 R233-R240): the abort point, the begin tick, the value read of each byte first read
from memory, the bytes stored and held, the lines read and written, seniority. -/
structure Tx where
  reg : Nat
  abortPc : Nat
  abortPrio : Nat
  begun : Nat
  senior : Bool
  reads : List (Nat × Byte) := []
  writes : List (Nat × Byte) := []
  rlines : List Nat := []
  wlines : List Nat := []
  deriving DecidableEq, Repr

/-- What a lane remembers of its transactions: status word fields of the last abort, first begin (09 R239, R240). -/
structure TxStat where
  code : Nat := 0
  detail : Nat := 0
  tries : Nat := 0
  senior : Bool := false
  first : Option Nat := none
  deriving DecidableEq, Repr

/-- A translation cached by page (07 R192). -/
structure Page where
  asid : Nat
  base : Nat
  size : Nat
  pa : Nat
  w : Bool
  x : Bool
  h : Bool
  p : Bool
  deriving DecidableEq, Repr

/-- An open batch of mesh output (14 R359, R360): the view's tracking, its counts, whether identifiers are wide, the
positions by vertex, the primitives by slot (three vertex indices, identifier). -/
structure Batch where
  view : Nat
  nv : Nat
  np : Nat
  wide : Bool
  pos : Tab (List Word) := []
  prims : Tab (List Nat × Nat) := []
  deriving DecidableEq, Repr

/-- A team (02 R57). `vregs` and `lanePages` are keyed as the docstrings of their accessors say; `lastIssue` is the tick of the
issue under way or of the last one, `waitedFrom` of the one before it (01 R15); `vecUnread` that the handler's first clause, whose
page was absent at trap entry, has still to be found marked (16 R413). -/
structure Team where
  slot : Nat := 0
  sregs : Tab Word := []
  vregs : Tab Word := []
  preds : Tab Half := []
  joins : Tab JMask := []
  frontier : List Entry := []
  kept : Option Kept := none
  clause : Option Clause := none
  retired : Half := 0
  done : Bool := false
  tags : Tab Tag := []
  ops : List Op := []
  nextOp : Nat := 0
  fmode : Word := 0
  rng : Word := 0
  depth : Tab Nat := []
  lpTouched : List Nat := []
  lpData : Tab Byte := []
  lanePages : Tab (Option Page) := []
  armed : Half := 0
  seen : Half := 0
  arrivedAt : Option Nat := none
  context : Context := .normal
  recorded : Context := .normal
  trapcode : Word := 0
  trappc : DWord := 0
  trapaddr : DWord := 0
  trapresume : DWord := 0
  vecUnread : Bool := false
  rejoinlost : Word := 0
  vblayout : Word := 0
  view : Option Nat := none
  stall : Option Wait := none
  haltPending : Bool := false
  halted : Bool := false
  delayed : List Delayed := []
  txs : Tab (Option Tx) := []
  txstat : Tab TxStat := []
  lastIssue : Nat := 0
  waitedFrom : Nat := 0
  count : Nat := 0
  prev : Option Prev := none
  jobs : Nat := 0
  joined : List Nat := []
  barSince : Nat := 0
  batch : Option Batch := none
  opened : List Nat := []
  counted : Bool := false
  deriving DecidableEq, Repr

/-! ## Blocks (02 R57, 03, 07, 10) -/

/-- A barrier word (03 R92). -/
structure Barrier where
  valid : Bool := false
  phase : Bool := false
  expect : Nat := 0
  arrived : Nat := 0
  deriving DecidableEq, Repr

/-- An operation on its way to the barrier unit (03 R94). -/
inductive BarOp where
  | init (t n count : Nat)
  | arrive (t n count : Nat) (wait : Bool)
  | wait (t n : Nat)
  | inval (t n : Nat)
  | test (t n d : Nat)
  | post (t n : Nat) (values : List Word)
  | seqArrive (n : Nat)
  | seqWait (n : Nat) (fmt : Bool)
  | jobArrive (n j : Nat)
  | peer (n slot : Nat) (b t op : Nat)
  deriving DecidableEq, Repr

/-- An operation with the tick in which it reaches the barrier unit (03 R94). -/
structure BarMsg where
  due : Nat
  op : BarOp
  deriving DecidableEq, Repr

/-- A map table entry (07 R183): the global base, the first stash line, the count; the lines touched, the lines held (with the device line each holds) and the dirty ones. -/
structure MapEntry where
  va : Nat
  line : Nat
  count : Nat
  touched : List Nat := []
  filled : Tab Nat := []
  dirty : List Nat := []
  deriving DecidableEq, Repr

/-- What a job or a forked program captures at issue (10 R246). -/
structure Snap where
  fmt : Word := 0
  fmode : Word := 0
  books : Tab Half := []
  deriving DecidableEq, Repr

/-- A slice of a copy (10 R252): addresses, length, which of them is in stash. -/
structure Slice where
  src : Nat
  dst : Nat
  len : Nat
  srcStash : Bool
  dstStash : Bool
  deriving DecidableEq, Repr

/-- A tensor layout record (10 R255), unused dimensions of extent 1 and box 1. -/
structure Layout where
  base : Nat
  esz : Nat
  dims : Nat
  order : Nat
  ext : List Nat
  stride : List Nat
  box : List Nat
  deriving DecidableEq, Repr

/-- The engine's part of a slot ring (10 R259-R262): the releases of its slots, the slot handed out last and how
often, the slots the engine works on. -/
structure Ring where
  rel : Tab Nat := []
  cur : Option (Nat × Nat) := none
  work : Nat := 0
  deriving DecidableEq, Repr

/-- A channel-table entry (02 R52, 13 R335; 10 R265): kind, target, cursor, slot held. -/
structure Chan where
  kind : Nat := 0
  target : Nat := 0
  cursor : Nat := 0
  slot : Option Nat := none
  deriving DecidableEq, Repr

/-- An open fork (10 R249). -/
structure Fork where
  value : Word
  owner : Nat
  expected : Nat
  arrivals : Nat
  mstream : Nat
  srecs : List Nat
  deriving DecidableEq, Repr

/-- A fork that has started (10 R249, R250): its owner, each stream program's status once ended, whether the matrix
program runs. -/
structure ForkRun where
  owner : Nat
  codes : List (Option Word)
  mtx : Bool
  deriving DecidableEq, Repr

/-- A barrier's vote rounds (10 R251): the open one's value, the last closed one's. -/
structure Vote where
  now : Option Word := none
  last : Option Word := none
  deriving DecidableEq, Repr

/-- An open tile stamp (10 R271): record address, tile, event ticks. -/
structure Stamp where
  addr : Nat
  tile : Word
  events : Tab Nat := []
  deriving DecidableEq, Repr

/-! ## The matrix context (11 R276-R287) -/

/-- An input tile (R276-R278): its control word, its data bits, its bitmap, its 2:4 indices, its residual list (row,
column, element), its scales (`s24` patterns). -/
structure Tile where
  ctl : Word := 0
  data : BitVec 32768 := 0
  bitmap : Option (BitVec 8192) := none
  idx : Option (BitVec 16384) := none
  res : List (Nat × Nat × Nat) := []
  scales : Tab Nat := []
  deriving DecidableEq, Repr

/-- An accumulator: its control word and its elements, at 32 × row + column. -/
structure Accum where
  ctl : Word := 0
  els : Tab (BitVec 96) := []
  deriving DecidableEq, Repr

/-- What a step of the array needs of its instruction (R297-R300): which terms it names, its objects, the format word
and codebooks it issued under. -/
structure MmaOp where
  maps : Bool
  a : Nat
  x : Nat
  y : Nat
  fmt : Word
  books : Tab Half
  deriving DecidableEq, Repr

/-- A tracked instruction of the stream that has not completed (R285). -/
structure MOp where
  id : Nat
  flag : Option Nat
  pc : Nat := 0
  mma : Option MmaOp := none
  deriving DecidableEq, Repr

/-- A trap of the stream that its owner has not taken (R286). -/
structure MTrap where
  code : TrapCode
  pc : Nat
  addr : Nat
  owner : Nat
  deriving DecidableEq, Repr

/-- A matrix context. `tags` is keyed by object: 0-7 tiles, 8-11 accumulators, 16-31 `q` registers; it holds the flag,
and whether the `MMA` family set it. -/
structure Mtx where
  tiles : Tab Tile := []
  accs : Tab Accum := []
  q : Tab Word := []
  qstep : Nat := 0
  qstat : Word := 0
  rng : Word := 0
  armed : Half := 0
  seen : Half := 0
  tags : Tab (Nat × Bool) := []
  ops : List MOp := []
  nextOp : Nat := 0
  fmt : Word := 0
  fmode : Word := 0
  books : Tab Half := []
  pc : Nat := 0
  clause : Option Clause := none
  stall : Option Wait := none
  waitFmt : Bool := false
  held : Bool := false
  trap : Option MTrap := none
  since : List Nat := []
  buf : List Byte := []
  wrote : Nat := 0
  deriving DecidableEq, Repr

/-- Who waits on a page fault (07 R477). -/
inductive FaultWho where
  | block (b : Nat)
  | job (j : Nat)
  | seq (b : Nat)
  | walk (b t op : Nat)
  | classify (room view tile : Nat)
  | entry (u q : Nat)
  | retry
  deriving DecidableEq, Repr

/-- A page fault: ASID, page address, kind and why of its fault entry (07 R477), who waits, the entry's tag once it
is posted; for a team's fault also the team, its instruction, the address and the operation it belongs to. -/
structure PFault where
  asid : Nat
  va : Nat
  kind : Nat
  readOnly : Bool
  who : FaultWho
  tag : Option Nat := none
  t : Nat := 0
  pc : Nat := 0
  addr : Nat := 0
  op : Option Nat := none
  deriving DecidableEq, Repr

/-- A resident or saved block. `faulted` names the teams that wait for it to be saved on a page fault, `declined` the
faults of its teams that the system software declined (07 R196, R477), `frameNo` the
frame of the pool that it takes; `saving` and `saved` the address of the frame it is to be saved in, and is saved in, `frameAsid`
the ASID of that address, `forced` that the save was not for a fault.
`forkImage` is the record of the open or latest fork. -/
structure Block where
  asid : Nat := 0
  suite : Nat := 0
  core : Nat := 0
  resident : Nat := 0
  service : Bool := false
  regs : Nat := 8
  stashSize : Nat := 0
  lpsize : Nat := 1024
  lpbase : DWord := 0
  trapvec : Nat := 0
  stashhash : Word := 0
  bindex : Nat := 0
  teams : List Team := []
  stash : Tab Byte := []
  barriers : Tab Barrier := []
  barOps : List BarMsg := []
  codebooks : Tab Half := []
  maps : Tab MapEntry := []
  banks : Tab Word := []
  watch0 : DWord := 0
  watch1 : DWord := 0
  watchctl : Word := 0
  drain : Bool := false
  mstat : Word := 0
  hitch : Option (Word × Nat) := none
  windows : List Nat := []
  barOwed : Bool := false
  votes : Tab Vote := []
  fmtWord : Word := 0
  fork : Option Fork := none
  forkRun : Option ForkRun := none
  forkImage : List Byte := []
  mtx : Mtx := {}
  chans : Tab Chan := []
  layouts : Tab (Option Layout) := []
  rings : Tab Ring := []
  stamps : Tab (Option Stamp) := []
  launch : Nat := 0
  blocks : Nat := 1
  kernel : Nat := 0
  frameCrit : Bool := false
  persistent : Bool := false
  meshCheck : Bool := false
  lrec : Nat := 0
  refs : List Word := []
  usesMtx : Bool := false
  faulted : List Nat := []
  declined : List PFault := []
  frameNo : Option Nat := none
  saving : Option Nat := none
  saved : Option Nat := none
  frameAsid : Nat := 0
  forced : Bool := false
  savedAt : Nat := 0
  parked : Bool := false
  killed : Option Nat := none
  deriving DecidableEq, Repr

/-! ## Cores and homes (07, 08, 09) -/

/-- An L1 line (08 R203): its bytes, write time and lease, its rank (07 R177, R181: 0 the first to be evicted, 1 normal, 2 the
last), and the tick in which it came. -/
structure L1Line where
  data : List Byte
  wts : Nat
  rts : Nat
  rank : Nat := 1
  since : Nat := 0
  deriving DecidableEq, Repr

/-- A request in a collector entry: a piece of a team's load, or of a stash fill. -/
structure LoadReq where
  b : Nat
  t : Nat
  op : Nat
  i : Nat
  deriving DecidableEq, Repr

/-- How far a collector entry has come (07 R188): open, sent to the home, answered. -/
inductive CollState where
  | held
  | sent
  | homed (data : List Byte) (poison : List Nat) (wts rts : Nat)
  deriving DecidableEq, Repr

/-- A collector entry: one 128-byte line, the tick in which it opened, whether a gather opened it. -/
structure CollEntry where
  line : Nat
  const : Bool
  reqs : List LoadReq
  opened : Nat := 0
  gather : Bool := false
  state : CollState := .held
  deriving DecidableEq, Repr

/-- An atomic packet a core has sent and not acknowledged (09 R228): its number, its operation, its pieces, whether its reply
has reached the core. -/
structure AtomPacket where
  seq : Nat
  b : Nat
  t : Nat
  op : Nat
  idx : List Nat
  replied : Bool := false
  deriving DecidableEq, Repr

/-- A core (01 R14; 07 R188, R189, R192; 08 R203; 09 R228); `replay` counts the entries of the stash's replay queue that were
taken as of tick `replayAt`. -/
structure Core where
  pts : Nat := 0
  l1 : Tab L1Line := []
  tlb : List Page := []
  collector : List CollEntry := []
  seqs : Tab Nat := []
  unacked : Tab (List AtomPacket) := []
  replay : Nat := 0
  replayAt : Nat := 0
  deriving DecidableEq, Repr

/-- A home line's times, last writer, whether the slice holds data that memory has not (08 R203, R217), the last reader, and the
tick and rank of the request it served last (08 R202). -/
structure HomeLine where
  wts : Nat := 0
  rts : Nat := 0
  writer : Nat := 0
  dirty : Bool := false
  reader : Option Nat := none
  servedAt : Nat := 0
  rank : Nat := 0
  deriving DecidableEq, Repr

/-- A reply kept by a home (09 R228). -/
structure Reply where
  seq : Nat
  values : List Nat
  deriving DecidableEq, Repr

/-! ## Engine jobs (10 R243-R247, R252-R257, R266-R269; 12 R316) -/

/-- A footprint entry (08 R209): an address range, in stash or global, read and written. -/
structure Foot where
  lo : Nat
  len : Nat
  stash : Bool
  rd : Bool
  wr : Bool
  deriving DecidableEq, Repr

/-- A stream record (10 R266) and how far its job has come: the layout captured, the next tile, the last, the slot the
engine works on, the units of the tile that have moved. -/
structure StreamRec where
  lslot : Nat
  ctl : Nat
  stamp : Nat
  ring : Nat
  first : Nat
  count : Nat
  bad : Option Nat
  prog : Option Nat
  lay : Option Layout := none
  tile : Nat := 0
  last : Nat := 0
  started : Bool := false
  slot : Option Nat := none
  unit : Nat := 0
  deriving DecidableEq, Repr

/-- A remote copy (10 R254). -/
structure Remote where
  put : Bool
  peer : Nat
  suite : Nat
  raddr : Nat
  laddr : Nat
  stash : Bool
  len : Nat
  deriving DecidableEq, Repr

/-- A traversal batch (15 R408): the current ray's walk, a page that was declined, the waybills to push, how far a ray whose walk has
ended has come (0 its record, 1 its result, 2 the hits of its group, 3 the results of a group whose hits failed with `detail`), the
elements of the step that have performed; a forced save leaves it `parked`, and keeps the next ray's counts of visits. -/
structure BatchSt where
  walk : Option RayWalk := none
  declined : Option Nat := none
  pushes : List (Nat × List Byte) := []
  stage : Nat := 0
  detail : Nat := 0
  log : ULog := []
  parked : Bool := false
  again : Option (Nat × Nat) := none
  deriving DecidableEq, Repr

/-- What a job does. -/
inductive JobKind where
  | copy (slices : List Slice) (want : Nat)
  | fill (dst len : Nat) (pat : Word) (stash : Bool)
  | remote (r : Remote)
  | layout (addr slot : Nat) (got : Option (Option Layout))
  | stream (r : StreamRec)
  | write (addr : Nat) (data : List Byte)
  | near (sel : Bool) (kind : Nat) (body : List Byte) (running : Bool) (data : Option (List Byte))
  | batch (body : List Byte) (st : BatchSt)
  | bad (detail : Nat)
  deriving DecidableEq, Repr

/-- A team's part in a job: its token register, its number among the team's jobs (10 R245, R270), the first operation
of the team that the job need not follow (08 R208). -/
structure JobTok where
  t : Nat
  reg : Option Nat
  seq : Nat
  since : Nat
  deriving DecidableEq, Repr

/-- A job (10 R243): the block and core that issued it, the team that did with the first of its operations that the job need not
follow (08 R208), who waits, its barrier, its snapshot, its footprint, whether
it holds an entry of the core's queue, how far it has come, whether it waits on a page, its end, the engine waybill
it serves (13 R337), the record it captured, what it has read of the bytes it reads before it acts, the word that issued it. -/
structure Job where
  owner : Option Nat
  suite : Nat
  core : Nat
  asid : Nat
  kind : JobKind
  issuer : Option (Nat × Nat) := none
  toks : List JobTok := []
  bar : Option Nat := none
  snap : Snap := {}
  foot : List Foot := []
  entry : Bool := true
  pos : Nat := 0
  held : Bool := false
  ended : Option (Nat × Nat) := none
  arriving : Bool := false
  waybill : Option (List Byte) := none
  raw : List Byte := []
  buf : List Byte := []
  word : Word := 0
  deriving DecidableEq, Repr

/-! ## The ostler (13) -/

/-- A run of bytes of a queue's ring: its length, when it entered, whether consumers skip it (13 R345), whether a remote
invocation brought it (13 R339, R351). -/
structure Seg where
  len : Nat
  tick : Nat
  skip : Bool := false
  packet : Bool := false
  deriving DecidableEq, Repr

/-- A reservation (13 R345): its place, who holds it, and whether it is open (0), committed (1) or cancelled (2). -/
structure Resv where
  off : Nat
  len : Nat
  b : Nat
  t : Nat
  state : Nat := 0
  packet : Bool := false
  deriving DecidableEq, Repr

/-- A queue (13 R332, R333): its descriptor as read, where its head stands, what it holds, its reservations, the
units of the head waybill already popped, the operations ignored. -/
structure Queue where
  ok : Bool := false
  base : Nat := 0
  size : Nat := 0
  kind : Nat := 0
  mode : Nat := 0
  level : Nat := 0
  dhead : Nat := 0
  offset : Nat := 0
  down : Nat := 0
  fulltmo : Nat := 0
  head : Nat := 0
  segs : List Seg := []
  resv : List Resv := []
  part : Nat := 0
  errs : Nat := 0
  hold : Option Nat := none
  holdSpent : Bool := false
  pinned : Option Nat := none
  overdue : Option Nat := none
  deriving DecidableEq, Repr

/-- A launch taken (13 R335, R339): its record, the next block, the blocks retired, its level, its wait, its queue,
its waybill, its place among pinned and overdue candidates. -/
structure Launch where
  suite : Nat
  addr : Nat := 0
  held : Nat := 0
  record : List Byte
  chtab : List Byte := []
  next : Nat := 0
  done : Nat := 0
  level : Nat := 0
  enq : Nat := 0
  queue : Nat := 0
  frameCrit : Bool := false
  waybill : Option (List Byte) := none
  handler : Option Nat := none
  pinned : Option Nat := none
  overdue : Option Nat := none
  deriving DecidableEq, Repr

/-- The ostler's registers (13 R331). -/
structure OstPage where
  qtable : DWord := 0
  arena : DWord := 0
  arenasz : DWord := 0
  ktable : DWord := 0
  htable : DWord := 0
  frames : DWord := 0
  nframes : DWord := 0
  errq : DWord := 0
  drainlim : DWord := 1350000
  deriving DecidableEq, Repr

/-- A fault entry posted (07 R477); `resolved` while its page is resolved and accesses by the old translation still perform. -/
structure FEntry where
  asid : Nat
  va : Nat
  kind : Nat
  readOnly : Bool
  tag : Nat
  tick : Nat
  resolved : Bool := false
  deriving DecidableEq, Repr

/-- A machine-check record (08 R219). -/
structure MCheck where
  room : Nat
  post : Nat
  kind : Nat
  asid : Nat
  sectors : Nat
  pa : Nat
  tick : Nat
  deriving DecidableEq, Repr

/-- A suite (13 R331; 17 R436): registers, queues, launches, waits, the host's queues. `page` is the register page,
`used` the page as read when `enable` was set. -/
structure Suite where
  page : OstPage := {}
  used : OstPage := {}
  ctl : DWord := 0
  queues : Tab Queue := []
  served : Tab Nat := []
  ready : List Nat := []
  pushes : List (Nat × List Byte) := []
  lastBatch : Option Nat := none
  drainAt : Option Nat := none
  lostErr : Nat := 0
  segbase : DWord := 0
  segasid : DWord := 0
  hosterr : DWord := 0
  mcq : List MCheck := []
  evq : List Word := []
  evlost : DWord := 0
  trbase : DWord := 0
  trctl : DWord := 0
  trhead : DWord := 0
  trtail : DWord := 0
  trlost : Word := 0
  dbgctl : DWord := 0
  irqstat : DWord := 0
  irqmask : DWord := 0
  pfq : List FEntry := []
  pfout : List FEntry := []
  pftag : Nat := 0
  deriving DecidableEq, Repr

/-! ## The device -/

/-- What the agenda names next: a step of the device, or the next word of an agent. -/
inductive Act where
  | dev (i : Instr)
  | word (g : Agent)
  deriving DecidableEq, Repr

/-- An agenda entry: the ticks that pass first, and the act. -/
structure Due where
  wait : Nat
  act : Act
  deriving DecidableEq, Repr

/-! ## Views and tiles (14 R355-R369) -/

/-- A binned primitive: its order key, its vertices' words, its identifier (14 R361). -/
structure Prim where
  key : List Nat
  verts : List (List Word)
  ident : Nat
  deriving DecidableEq, Repr

/-- A tile that is not FREE (14 R367). -/
inductive TilePhase where
  | opened | resolving | resolved | shading | released
  deriving DecidableEq, Repr

/-- A tile: the primitives binned to it, its phase, its references, whether the classify engine has taken it, its pin
slot and handle, its store (identifier and depth of each pixel), whether the engine waits on a page, the pages that were declined,
the elements of its classification that have performed, the bytes of its store written at its release. -/
structure TileSt where
  prims : List Prim := []
  phase : TilePhase := .opened
  count : Nat := 0
  taken : Bool := false
  slot : Nat := 0
  handle : Word := 0
  store : List (Nat × Word) := []
  held : Bool := false
  declined : List Nat := []
  log : ULog := []
  pos : Nat := 0
  deriving DecidableEq, Repr

/-- A tracked view (14 R357): its number, record address and ASID, the record as read, how many teams have counted, its
tiles, the bytes of `binbuf` used, and what bytes 96-127 of the record say. -/
structure View where
  id : Nat
  addr : Nat
  asid : Nat
  suite : Nat
  record : List Byte
  room : Nat
  closed : Bool := false
  counted : Nat := 0
  tiles : Tab TileSt := []
  used : Nat := 0
  culled : Nat := 0
  dropped : Nat := 0
  nomat : Nat := 0
  nres : Nat := 0
  ovf : Bool := false
  deriving DecidableEq, Repr

/-- A batch on its way to the binning unit (14 R361): who submitted it, and its primitives' key but for the index. -/
structure Sent where
  b : Nat
  t : Nat
  key : List Nat
  batch : Batch
  deriving DecidableEq, Repr

/-- What a flit carries (17 R444): a unit of a remote copy, or an invocation. -/
inductive FlitBody where
  | copy (q : FabricReq)
  | invoke (p : Packet)
  deriving DecidableEq, Repr

/-- A link port (17 R444): up, failed resends in a row, the sequence number of the next flit it sends, that of the next one it takes, and its
replay buffer: the flits sent and not acknowledged, oldest first, each with its number and the device it goes to. -/
structure Port where
  up : Bool := true
  failed : Nat := 0
  seq : Nat := 0
  want : Nat := 0
  replay : List (Nat × Nat × FlitBody) := []
  deriving DecidableEq, Repr

/-- A display head and its encoder (17 R442, R443): registers, the plane records captured for the next frame, the picture shown last, the
frames skipped, frames since the last key frame, the ring's write offset, and the bytes of a coded frame that wait for room in the
ring. -/
structure Head where
  dctl : DWord := 0
  dsize : DWord := 0
  dperiod : DWord := 0
  dnext : DWord := 0
  dplane : DWord := 0
  derr : DWord := 0
  planes : Option (List Byte) := none
  image : List Byte := []
  ectl : DWord := 0
  erate : DWord := 0
  egop : DWord := 0
  ebase : DWord := 0
  esize : DWord := 0
  eread : DWord := 0
  ewrite : DWord := 0
  estat : DWord := 0
  skipping : Bool := false
  sinceKey : Nat := 0
  waiting : Option Nat := none
  deriving DecidableEq, Repr

/-- What this device answers a peer's request (10 R254): who asked, the request's number, how it ended as a token does, a
get's bytes, and whether they carry poison (08 R218). -/
structure FabricReply where
  src : Nat
  id : Nat
  code : Nat := 0
  detail : Nat := 0
  data : List Byte := []
  poison : Bool := false
  deriving DecidableEq, Repr

/-- The completion of the host's last read through a window (17 R435): none yet, its bytes and whether they carry the
poisoned-data mark (08 R218), or Unsupported Request. -/
inductive HostReply where
  | quiet
  | data (bytes : List Byte) (poison : Bool)
  | unsupported
  deriving DecidableEq, Repr

/-- Which part this is (17 R449): the mask of core positions of each post, by its device-wide number, where it is not 0xFF, and
the channels of each room that has not 4. The `ZL9-192-LC` lists nothing. -/
structure Part where
  masks : Tab Byte := []
  channels : Tab Nat := []
  deriving DecidableEq, Repr

/-- The machine. `ptsTime` is the logical time that has passed for every core alike (08 R203: 1 every 16 ticks); a
core's `pts` field holds what its own accesses added; `agentPts` is the logical clock of every agent that is no core (log 106).
`engColl` holds the lines in flight, with when each entered, in the collectors of the posts, by device-wide number, and of the rooms,
from 48 on (07 R188). `atomicRouting` is what the root port reports (17 R434; log 115), `bootFault` the step in which this part's boot
fails, if it does, and the channel whose training fails (17 R448), `svcQueues` the queues, by suite and number, that the service firmware
launches into (16 R410; log 119), `holdFor` the tick periods for which the count is held (17 R445), `rmbSent` the request as it was sent
(17 R478). -/
structure State where
  tick : Nat := 0
  ptsTime : Nat := 0
  agentPts : Nat := 0
  engColl : Tab (List (Nat × Nat)) := []
  atomicRouting : Bool := true
  mem : List Host.Cell := []
  hostMem : List Host.Cell := []
  poison : List Nat := []
  home : Tab HomeLine := []
  replies : Tab (List Reply) := []
  cores : Tab Core := []
  postTlb : Tab (List Page) := []
  roots : Tab Nat := []
  hostlo : DWord := 0
  hosthi : DWord := 0xFFF
  suitemap : List Nat := [0, 1, 2, 3, 4, 5, 6, 7]
  blocks : Tab Block := []
  faults : List PFault := []
  nextBlock : Nat := 1
  jobs : Tab Job := []
  nextJob : Nat := 0
  suites : Tab Suite := []
  launches : Tab Launch := []
  nextLaunch : Nat := 1
  nearQueue : List (Nat × Bool × Nat) := []
  lastCore : Tab Nat := []
  part : Part := {}
  serial : DWord := 0
  bootstat : DWord := 0
  bootFault : Option (Nat × Nat) := none
  svcQueues : List (Nat × Nat) := []
  holdFor : Nat := 0
  fenceHost : List Nat := []
  rmbreq : Tab DWord := []
  rmbSent : Tab DWord := []
  rmbrep : Tab DWord := []
  rmbstat : DWord := 0
  vectors : List Nat := []
  sysrec : Tab (List MCheck) := []
  sysrecN : Tab Nat := []
  corrected : Tab Nat := []
  sectorMode : Bool := false
  throttled : Bool := false
  clockOff : Bool := false
  thermal : Bool := false
  armed : Option Nat := none
  device : Nat := 0
  peers : List Nat := []
  ports : Tab Port := []
  routes : Tab (Nat × Nat) := []
  invSeqs : Tab Nat := []
  invReplies : Tab (List Reply) := []
  views : List View := []
  nextView : Nat := 0
  gens : Tab Nat := []
  binq : Tab (List Sent) := []
  fabricOut : List FabricReq := []
  fabricIn : List FabricReply := []
  hostReply : HostReply := .quiet
  rmbDone : Option Nat := none
  lastSync : Option Nat := none
  sent : List Packet := []
  heads : Tab Head := []
  focus : Option Agent := none
  agenda : List Due := []
  free : Nat := 0
  deriving DecidableEq, Repr

/-- Faults of the model. -/
inductive Fault where
  /-- Raised by an instruction word executed while no agent runs a clause. Safe: no hardware issues a word so. -/
  | noIssuer
  /-- Raised by a step of the device whose conditions the spec gives do not hold. Safe: the step cannot happen. -/
  | notEnabled
  /-- Raised by every step but a release while the clocks are stopped (16 R424). Safe: nothing happens then. -/
  | clockStopped
  /-- Raised by every step but a reset once the root firmware has stopped the device (17 R450). Safe: nothing happens
  then. -/
  | deviceStopped
  deriving DecidableEq, Repr

/-- Refusals of the model. -/
inductive Refusal where
  /-- Raised by an instruction that has no meaning here yet. Safe. -/
  | notModelled (mnemonic : String)
  deriving DecidableEq, Repr

/-- The machine right after reset (17 R448): nothing resident, memory zero. -/
def State.reset : State := {}

end Sys2Proof.Machine
end

