-- ==== Sys2Proof/Machine/Mem.lean ====
section
/-! DEFINITION. Memory: bytes, home slices and mapped stash lines, timestamps, translation (07 R172-R194,
08 R199-R207, R217, 17 R439). Everything here is a function of the state. -/
namespace Sys2Proof.Machine
open Sys2Proof

/-! ## Bytes -/

/-- `n` bytes from address `a` of the entries left, all of them at or above `a`. -/
def takeBytes : Nat → Nat → Tab Byte → List Byte
  | 0, _, _ => []
  | n + 1, a, [] => 0 :: takeBytes n (a + 1) []
  | n + 1, a, (k, x) :: r => if k = a then x :: takeBytes n (a + 1) r else 0 :: takeBytes n (a + 1) ((k, x) :: r)

/-- `n` bytes from `a`; a byte nothing has written reads 0 (17 R448; log 3). -/
def readBytes (t : Tab Byte) (a n : Nat) : List Byte := takeBytes n a (t.dropWhile (fun e => decide (e.1 < a)))

/-- The table with the bytes stored from `a` on. -/
def writeBytes (t : Tab Byte) (a : Nat) : List Byte → Tab Byte
  | [] => t
  | x :: r => writeBytes (Tab.set 0 t a x) (a + 1) r

/-- The canonical form of a memory. -/
def Memory.wf (t : List Host.Cell) : Bool := Tab.wf (0 : Byte) t

/-! ## Identity (01 R11, 17 R439) -/

def roomOfCore (c : Nat) : Nat := c / Config.coresPerRoom
/-- Device-wide post number: room × 6 + post. -/
def postOfCore (c : Nat) : Nat := c / Config.coresPerPost
def roomOfPa (pa : Nat) : Nat := pa / Config.roomBytes
/-- The home slice of a physical address, as a device-wide post number (R439). -/
def homeOfPa (pa : Nat) : Nat :=
  let r := roomOfPa pa
  let l := (pa - r * Config.roomBytes) / 128
  r * 6 + (l ^^^ (l / 2 ^ 12) ^^^ (l / 2 ^ 24)) % 6
/-- The mask of core positions of a post, how many cores it has, the channels of a room (17 R449). -/
def Part.mask (p : Part) (post : Nat) : Byte := Tab.get 0xFF p.masks post
def Part.cores (p : Part) (post : Nat) : Nat := ((List.range 8).filter (p.mask post).getLsbD).length
def Part.chans (p : Part) (r : Nat) : Nat := Tab.get 4 p.channels r
/-- The parts there are: the full one, and the degraded ones with 44 cores in each room, in four rooms of which a channel
may be absent (17 R449). -/
def Part.legal (p : Part) : Bool :=
  (p.masks.isEmpty && p.channels.isEmpty) ||
  ((List.range 8).all (fun r =>
      let ns := (List.range 6).map fun i => p.cores (r * 6 + i)
      ns.all (fun n => n == 7 || n == 8) && ns.sum == 44) &&
    (p.channels.isEmpty || ((List.range 8).all (fun r => p.chans r == 3 || p.chans r == 4) && p.channels.length == 4)))
/-- The cores present in a post are numbered from 0 on (01 R11). -/
def State.present (s : State) (c : Nat) : Bool := decide (c % Config.coresPerPost < s.part.cores (postOfCore c))
/-- The bytes of a room's partition, from its base on (17 R439, R449). -/
def State.roomSize (s : State) (r : Nat) : Nat := s.part.chans r * Config.channelBytes
/-- A byte of device memory is there. -/
def State.installed (s : State) (pa : Nat) : Bool :=
  decide (roomOfPa pa < Config.rooms) && decide (pa % Config.roomBytes < s.roomSize (roomOfPa pa))
/-- The suite of a room (R12, R440). -/
def State.suiteOfRoom (s : State) (r : Nat) : Nat := s.suitemap.getD r r
/-- The suite that owns an ASID (R439). -/
def State.suiteOfAsid (s : State) (asid : Nat) : Nat := s.suiteOfRoom (asid / 1024)
/-- The rooms of a suite. -/
def State.roomsOf (s : State) (u : Nat) : List Nat := (List.range 8).filter (fun r => s.suiteOfRoom r == u)

/-! ## Blocks and teams by number -/

def State.block (s : State) (b : Nat) : Block := Tab.get {} s.blocks b
def State.setBlock (s : State) (b : Nat) (x : Block) : State := { s with blocks := Tab.put s.blocks b x }
def State.modBlock (s : State) (b : Nat) (f : Block → Block) : State := s.setBlock b (f (s.block b))
def Block.team (x : Block) (t : Nat) : Team := x.teams.getD t {}
def Block.modTeam (x : Block) (t : Nat) (f : Team → Team) : Block := { x with teams := setAt x.teams t (f (x.team t)) }
def State.team (s : State) (b t : Nat) : Team := (s.block b).team t
def State.modTeam (s : State) (b t : Nat) (f : Team → Team) : State := s.modBlock b (·.modTeam t f)
def State.core (s : State) (c : Nat) : Core := Tab.get {} s.cores c
def State.modCore (s : State) (c : Nat) (f : Core → Core) : State := { s with cores := Tab.set {} s.cores c (f (s.core c)) }
def State.homeLine (s : State) (l : Nat) : HomeLine := Tab.get {} s.home l
def State.setHomeLine (s : State) (l : Nat) (h : HomeLine) : State := { s with home := Tab.set {} s.home l h }

/-! ## Mapped stash lines (07 R183) -/

/-- The block, slot and stash line that hold device line `l`. -/
def State.holder (s : State) (l : Nat) : Option (Nat × Nat × Nat) :=
  firstOf (fun (b, x) => firstOf (fun (k, m) =>
    (m.filled.find? (fun e => e.2 == l)).map (fun e => (b, k, e.1))) x.maps) s.blocks

/-- The bytes of device line `l` as its home returns them: from the stash that holds it, else from memory. -/
def State.lineBytes (s : State) (l : Nat) : List Byte :=
  match s.holder l with
  | some (b, _, k) => readBytes (s.block b).stash (k * 128) 128
  | none => readBytes s.mem (l * 128) 128

/-- Dirty data of a held line goes back to memory (R183). -/
def State.writeBack (s : State) (b slot k : Nat) : State :=
  let x := s.block b
  let m := Tab.get ⟨0, 0, 0, [], [], []⟩ x.maps slot
  if m.dirty.contains k then
    let s := match m.filled.find? (fun e => e.1 == k) with
      | some e => { s with mem := writeBytes s.mem (e.2 * 128) (readBytes x.stash (k * 128) 128) }
      | none => s
    s.modBlock b fun x => { x with maps := Tab.put x.maps slot { m with dirty := m.dirty.filter (· != k) } }
  else s

/-- A store by another agent makes the home recall the line: written back, no longer held (R183). -/
def State.recall (s : State) (l : Nat) : State :=
  match s.holder l with
  | none => s
  | some (b, slot, k) =>
    (s.writeBack b slot k).modBlock b fun x =>
      let m := Tab.get ⟨0, 0, 0, [], [], []⟩ x.maps slot
      { x with maps := Tab.put x.maps slot { m with filled := m.filled.filter (fun e => e.1 != k) } }

/-! ## Poison (08 R217, R218) -/

/-- The sectors of `n` bytes at `pa`. -/
def sectorsOf (pa n : Nat) : List Nat := (List.range (ceilDiv (pa % 32 + n) 32)).map (· + pa / 32)
/-- A byte of the access lies in a poisoned sector. -/
def State.poisoned (s : State) (pa n : Nat) : Bool := (sectorsOf pa n).any s.poison.contains
/-- A store of a whole sector clears its poison; a partial one leaves it (R218). -/
def State.clearPoison (s : State) (pa n : Nat) : State :=
  { s with poison := s.poison.filter (fun k => !(decide (pa ≤ k * 32) && decide (k * 32 + 32 ≤ pa + n))) }

/-! ## Reads and writes at the home -/

/-- `n` bytes of device memory at `pa` as the homes return them. -/
def State.devRead (s : State) (pa n : Nat) : List Byte :=
  if n = 0 then []
  else if pa / 128 = (pa + n - 1) / 128 then
    match s.holder (pa / 128) with
    | none => readBytes s.mem pa n
    | some _ => ((s.lineBytes (pa / 128)).drop (pa % 128)).take n
  else
    let first := pa / 128
    let count := (pa + n - 1) / 128 + 1 - first
    (((List.range count).flatMap (fun i => s.lineBytes (first + i))).drop (pa % 128)).take n

/-- Store of `bytes` at `pa`, which lie in one line or are one engine unit: mapped holders are recalled, poison of
whole sectors is cleared, the writer is recorded (R217). -/
def State.devWrite (s : State) (pa : Nat) (bytes : List Byte) (writer : Nat) : State :=
  let ls := (List.range (ceilDiv (pa % 128 + bytes.length) 128)).map (· + pa / 128)
  let s := ls.foldl (fun s l => (s.recall l).setHomeLine l { s.homeLine l with writer := writer, dirty := true }) s
  { (s.clearPoison pa bytes.length) with mem := writeBytes s.mem pa bytes }

/-- A core's logical clock (R203). -/
def State.pts (s : State) (c : Nat) : Nat := (s.core c).pts + s.ptsTime
/-- The core's clock reaches at least `v`. -/
def State.raisePts (s : State) (c v : Nat) : State := s.modCore c fun k => { k with pts := max k.pts (v - s.ptsTime) }

/-- Time passes: every core's clock grows by 1 every 16 ticks (R203). -/
def State.pass (s : State) (n : Nat) : State :=
  { s with tick := s.tick + n, ptsTime := s.ptsTime + ((s.tick + n) / Config.ptsTicks - s.tick / Config.ptsTicks) }

/-- The ranks in which a home serves the requests of one clock (R202): a core's index, then engines, then the host. -/
def engineRank : Nat := 384
def hostRank : Nat := 385

/-- The home of a line may serve a request now: in this clock it has served none that comes later (R202; log 107). -/
def State.mayServe (s : State) (l rank : Nat) : Bool :=
  let h := s.homeLine l
  h.servedAt != s.tick || decide (h.rank ≤ rank)

/-- The line as its home leaves it after a request of a rank. -/
def State.served (s : State) (rank : Nat) (h : HomeLine) : HomeLine := { h with servedAt := s.tick, rank := rank }

/-- A load's lease at its home (R203). -/
def State.leaseRead (s : State) (c l len : Nat) : State :=
  let h := s.homeLine l
  (s.setHomeLine l (s.served c { h with rts := max h.rts (s.pts c + len) })).raisePts c h.wts

/-- A store's time at its home, beyond every live lease (R203). -/
def State.stampWrite (s : State) (c l : Nat) : State :=
  let h := s.homeLine l
  let w := max (s.pts c) (h.rts + 1)
  (s.setHomeLine l (s.served c { h with wts := w, rts := w })).raisePts c w

/-- An agent that is no core has seen what a core's clock has reached (R208, R210). -/
def State.joinClock (s : State) (c : Nat) : State := { s with agentPts := max s.agentPts (s.pts c) }
/-- A core has seen what the agents' clock has reached. -/
def State.seeAgents (s : State) (c : Nat) : State := s.raisePts c s.agentPts
/-- Two cores that meet at one stash stand at one time (R207). -/
def State.meetClocks (s : State) (c c' : Nat) : State := (s.raisePts c (s.pts c')).raisePts c' (s.pts c)

/-- The ASID that reads a line (R217). -/
def State.readBy (s : State) (asid l : Nat) : State := s.setHomeLine l { s.homeLine l with reader := some asid }

/-- A read at the home by an agent that is no core: it stands at the agents' clock, and a later store stands after it (R199,
R201; log 106). -/
def State.leaseAgent (s : State) (rank asid l : Nat) : State :=
  let h := s.homeLine l
  let t := max s.agentPts h.wts
  { s.setHomeLine l (s.served rank { h with rts := max h.rts t, reader := some asid }) with agentPts := t }

/-- A store of an agent that is no core (an engine's unit, a host window, the ostler) takes a time beyond every live lease, and
not before the agents' clock. -/
def State.stampAgent (s : State) (rank l : Nat) : State :=
  let h := s.homeLine l
  let w := max s.agentPts (h.rts + 1)
  { s.setHomeLine l (s.served rank { h with wts := w, rts := w }) with agentPts := w }

/-- The lines of a physical range. -/
def linesAt (pa n : Nat) : List Nat := (List.range (ceilDiv (pa % 128 + n) 128)).map (· + pa / 128)

/-- An agent's read, line by line. -/
def State.agentRead (s : State) (rank asid pa n : Nat) : List Byte × State :=
  (s.devRead pa n, (linesAt pa n).foldl (State.leaseAgent · rank asid) s)

/-- An agent's write, line by line. -/
def State.agentWrite (s : State) (rank pa : Nat) (bytes : List Byte) (writer : Nat) : State :=
  ((linesAt pa bytes.length).foldl (State.stampAgent · rank) s).devWrite pa bytes writer

/-! ## Translation (07 R190-R193) -/

/-- What the walker answers. -/
inductive Walk where
  | page (p : Page)
  | absent
  | fatal
  deriving DecidableEq, Repr

/-- The physical range lies in memory installed and in a room of the suite (R191, R440). -/
def State.paOk (s : State) (suite pa n : Nat) : Bool :=
  decide (roomOfPa pa < Config.rooms) && decide (pa % Config.roomBytes + n ≤ s.roomSize (roomOfPa pa)) &&
    s.suiteOfRoom (roomOfPa pa) == suite

/-- The bus range lies in the host window (17 R434, R478). -/
def State.hostOk (s : State) (ba n : Nat) : Bool :=
  decide (s.hostlo.toNat ≤ ba) && decide (ba + n ≤ s.hosthi.toNat + 1)

/-- A leaf of `size` bytes for `va` (R190, R191). -/
def State.leaf (s : State) (asid va e size : Nat) : Walk :=
  let pa := bits e 51 12 * 4096
  let h := bit e 7
  let suite := s.suiteOfAsid asid
  if pa % size ≠ 0 then .fatal
  else if h && !s.hostOk pa size then .fatal
  else if !h && !s.paOk suite pa size then .fatal
  else .page { asid := asid, base := va / size * size, size := size, pa := pa,
               w := bit e 1, x := bit e 2, h := h, p := bit e 8 }

/-- A reserved bit of an entry is set (R190). -/
def pteReserved (e : Nat) : Bool := bits e 63 52 != 0 || bits e 11 9 != 0 || bits e 4 3 != 0

/-- An entry of a table, in device memory through the home or in host memory (R190, R191). -/
def State.entryAt (s : State) (host : Bool) (a : Nat) : Nat :=
  ofLe (if host then readBytes s.hostMem a 8 else s.devRead a 8)

/-- The walk from a table, level by level (R191): number of levels left, where the table stands, its address. -/
def State.walkFrom (s : State) (asid va : Nat) : Nat → Bool → Nat → Walk
  | 0, _, _ => .fatal
  | lv + 1, host, table =>
    let idx := match lv with
      | 3 => bits va 55 42 | 2 => bits va 41 29 | 1 => bits va 28 21 | _ => bits va 20 12
    let e := s.entryAt host (table + idx * 8)
    if !bit e 0 then .absent
    else if pteReserved e then .fatal
    else if lv = 0 then
      if bit e 6 then
        let group := idx / 16 * 16
        let es := (List.range 16).map fun i => s.entryAt host (table + (group + i) * 8)
        if es.all (· == e) then s.leaf asid va e 65536 else .fatal
      else s.leaf asid va e 4096
    else if bit e 5 then
      if lv = 3 then .fatal else s.leaf asid va e (if lv = 2 then 536870912 else 2097152)
    else
      let next := bits e 51 12 * 4096
      let size := if lv = 3 then 65536 else 4096
      let h := bit e 7
      if next % size ≠ 0 || !(if h then s.hostOk next size else s.paOk (s.suiteOfAsid asid) next size) then .fatal
      else s.walkFrom asid va lv h next

/-- The walk of an ASID; without a root it faults as `V` = 0 (16 R422). -/
def State.walk (s : State) (asid va : Nat) : Walk :=
  match Tab.find s.roots asid with
  | none => .absent
  | some root => s.walkFrom asid va 4 false root

/-- What an access is to translation (R193). -/
inductive Access where
  | load | store | fetch | laneLoad | laneStore
  deriving DecidableEq, Repr

def Access.writes : Access → Bool
  | .store => true
  | .laneStore => true
  | _ => false
def Access.isLane : Access → Bool
  | .laneLoad => true
  | .laneStore => true
  | _ => false

/-- The outcome of a translation (R193), or the poison that a mapped line's fill met (08 R218). -/
inductive Trans where
  | ok (pg : Page)
  | fault (readOnly : Bool)
  | fatal
  | prot
  | poison
  deriving DecidableEq, Repr

/-- The protections of a page for an access (R193, in its order). -/
def Page.check (pg : Page) (a : Access) : Trans :=
  if a.isLane && !pg.p then .prot
  else if !a.isLane && pg.p then .prot
  else if a == .fetch && !pg.x then .prot
  else if a.writes && !pg.w then .fault true
  else .ok pg

def Page.covers (pg : Page) (asid va : Nat) : Bool :=
  pg.asid == asid && decide (pg.base ≤ va) && decide (va < pg.base + pg.size)

def Page.place (pg : Page) (va : Nat) : Place :=
  if pg.h then .host (pg.pa + (va - pg.base)) else .dev (pg.pa + (va - pg.base))

/-- A translation cache of `n` entries, the oldest replaced (log 7). -/
def tlbInsert (n : Nat) (pg : Page) (l : List Page) : List Page :=
  let r := l.filter (· != pg) ++ [pg]
  r.drop (r.length - n)

/-- The page of an address by core `c`'s caches, then the walk; a page found by walking enters the caches (R192). -/
def State.lookup (s : State) (c asid va : Nat) : Walk × State :=
  let p := postOfCore c
  match (s.core c).tlb.find? (·.covers asid va) with
  | some pg => (.page pg, s)
  | none =>
    let fill (pg : Page) (s : State) := s.modCore c fun k => { k with tlb := tlbInsert Config.coreTlbSize pg k.tlb }
    match (Tab.get [] s.postTlb p).find? (·.covers asid va) with
    | some pg => (.page pg, fill pg s)
    | none => match s.walk asid va with
      | .page pg =>
        let s := { s with postTlb := Tab.set [] s.postTlb p (tlbInsert Config.postTlbSize pg (Tab.get [] s.postTlb p)) }
        (.page pg, fill pg s)
      | r => (r, s)

/-- A translation by core `c` (R192, R193). -/
def State.translate (s : State) (c asid va : Nat) (a : Access) : Trans × State :=
  match s.lookup c asid va with
  | (.page pg, s) => (pg.check a, s)
  | (.absent, s) => (.fault false, s)
  | (.fatal, s) => (.fatal, s)

/-- Translation of a team's lane: its last-page register first (R192). -/
def State.translateLane (s : State) (b t lane va : Nat) (a : Access) : Trans × State :=
  let x := s.block b
  match Tab.get none (x.team t).lanePages lane with
  | some pg => if pg.covers x.asid va then (pg.check a, s) else
      match s.lookup x.core x.asid va with
      | (.page pg, s) => (pg.check a, s.modTeam b t fun m => { m with lanePages := Tab.set none m.lanePages lane (some pg) })
      | (.absent, s) => (.fault false, s)
      | (.fatal, s) => (.fatal, s)
  | none =>
      match s.lookup x.core x.asid va with
      | (.page pg, s) => (pg.check a, s.modTeam b t fun m => { m with lanePages := Tab.set none m.lanePages lane (some pg) })
      | (.absent, s) => (.fault false, s)
      | (.fatal, s) => (.fatal, s)

/-- Invalidation of an ASID's translations, or of those that map one address (07 R194, 16 R421). -/
def State.invalidate (s : State) (asid : Nat) (va : Option Nat) : State :=
  let hit (pg : Page) : Bool := pg.asid == asid && (match va with | none => true | some v => pg.covers asid v)
  let sweep (l : List Page) := l.filter (fun pg => !hit pg)
  let lanes (m : Team) : Team := { m with lanePages := m.lanePages.filter (fun e => match e.2 with | some pg => !hit pg | none => true) }
  { s with
    cores := s.cores.map fun (c, k) => (c, { k with tlb := sweep k.tlb })
    postTlb := (s.postTlb.map fun (p, l) => (p, sweep l)).filter (fun e => !e.2.isEmpty)
    blocks := s.blocks.map fun (b, x) => (b, { x with teams := x.teams.map lanes }) }

end Sys2Proof.Machine
end

