-- ==== Sys2Proof/Machine/Units.lean ====
section
/-! DEFINITION. Global memory as the device's own agents reach it, unit by unit (08 R208, R217, R218). -/
namespace Sys2Proof.Machine
open Sys2Proof

/-- Why an access of a device agent stops, and where. -/
structure Miss where
  why : Trans
  asid : Nat
  va : Nat
  store : Bool
  deriving DecidableEq, Repr

/-! ## Units of engines (08 R208) -/

/-- What an engine's read gives: bytes, or poison (R218). -/
inductive UnitRead where
  | ok (bytes : List Byte)
  | poison
  deriving DecidableEq, Repr

/-- The pieces of a range that lie in one 4 KiB page: address and length. -/
def pagePieces : Nat → Nat → Nat → List (Nat × Nat)
  | 0, _, _ => []
  | f + 1, va, n =>
    let k := min n (4096 - va % 4096)
    if n = 0 then [] else (va, k) :: pagePieces f (va + k) (n - k)

/-- `n` bytes at a virtual address, read by an engine of core `c`: after every element that stands before core `c`'s time. -/
def State.engRead (s : State) (c asid va n : Nat) : Except Miss (UnitRead × State) := do
  let s := s.joinClock c
  let (bs, bad, s) ← (pagePieces (n / 4096 + 2) va n).foldlM (fun (acc : List Byte × Bool × State) p => do
    let (bs, bad, s) := acc
    if p.1 + p.2 > 2 ^ 56 then .error ⟨.prot, asid, p.1, false⟩
    else match s.translate c asid p.1 .load with
    | (.ok pg, s) => match pg.place p.1 with
      | .dev pa =>
        let (r, s') := s.agentRead engineRank asid pa p.2
        pure (bs ++ r, bad || s.poisoned pa p.2, s')
      | .host ba => pure (bs ++ readBytes s.hostMem ba p.2, bad, s)
      | _ => .error ⟨.prot, asid, p.1, false⟩
    | (r, _) => .error ⟨r, asid, p.1, false⟩) ([], false, s)
  pure (if bad then .poison else .ok bs, s)

/-- Bytes stored at a virtual address by an engine of core `c`; the writer recorded is its ASID (R217). -/
def State.engWrite (s : State) (c asid va : Nat) (bytes : List Byte) : Except Miss State := do
  let s := s.joinClock c
  let (s, _) ← (pagePieces (bytes.length / 4096 + 2) va bytes.length).foldlM (fun (acc : State × List Byte) p => do
    let (s, rest) := acc
    if p.1 + p.2 > 2 ^ 56 then .error ⟨.prot, asid, p.1, true⟩
    else match s.translate c asid p.1 .store with
    | (.ok pg, s) => match pg.place p.1 with
      | .dev pa => pure (s.agentWrite engineRank pa (rest.take p.2) asid, rest.drop p.2)
      | .host ba => pure ({ s with hostMem := writeBytes s.hostMem ba (rest.take p.2) }, rest.drop p.2)
      | _ => .error ⟨.prot, asid, p.1, true⟩
    | (r, _) => .error ⟨r, asid, p.1, true⟩) (s, bytes)
  pure s

end Sys2Proof.Machine
end

