-- ==== Sys2Proof/Machine/Queue.lean ====
section
/-! DEFINITION. The suite's queues (13 R332-R346), waybills (R337), refusals (R338), interrupts (17 R437). -/
namespace Sys2Proof.Machine
open Sys2Proof

def State.suite (s : State) (u : Nat) : Suite := Tab.get {} s.suites u
def State.modSuite (s : State) (u : Nat) (f : Suite → Suite) : State :=
  { s with suites := Tab.set {} s.suites u (f (s.suite u)) }
def Suite.queue (u : Suite) (q : Nat) : Queue := Tab.get {} u.queues q
def Suite.setQueue (u : Suite) (q : Nat) (x : Queue) : Suite := { u with queues := Tab.set {} u.queues q x }
def State.queue (s : State) (u q : Nat) : Queue := (s.suite u).queue q

/-! ## The ostler's own accesses: the virtual space of the suite's first ASID (log 23) -/

def ostAsid (u : Nat) : Nat := 1024 * u
def ostCore (u : Nat) : Nat := u * Config.coresPerRoom

def State.ostTry (s : State) (u va n : Nat) : Except Miss (List Byte × State) := do
  match ← s.engRead (ostCore u) (ostAsid u) va n with
  | (.ok bytes, s) => pure (bytes, s)
  | (.poison, s) => pure (fill n 0, s)

/-- Bytes the ostler reads; what no page maps reads 0. -/
def State.ostRead (s : State) (u va n : Nat) : List Byte × State :=
  match s.ostTry u va n with
  | .ok r => r
  | .error _ => (fill n 0, s)

/-- Bytes the ostler writes; what no page maps is dropped. -/
def State.ostWrite (s : State) (u va : Nat) (bytes : List Byte) : State :=
  match s.engWrite (ostCore u) (ostAsid u) va bytes with
  | .ok s => s
  | .error _ => s

/-! ## Interrupts (17 R437) -/

/-- Cause `k` of suite `u`: pending, and its vector raised unless masked. -/
def State.raiseCause (s : State) (u k : Nat) : State :=
  let m := (s.suite u).irqmask
  let s := s.modSuite u fun x => { x with irqstat := x.irqstat ||| BitVec.ofNat 64 (2 ^ k) }
  if m.getLsbD k then { s with vectors := s.vectors ++ [8 * u + k] } else s

/-- A device vector. -/
def State.raiseVector (s : State) (v : Nat) : State := { s with vectors := s.vectors ++ [v] }

/-! ## Rings of bytes (R332) -/

def Queue.total (q : Queue) : Nat := (q.segs.map (·.len)).sum + (q.resv.map (·.len)).sum
def Queue.committed (q : Queue) : Nat := ((q.segs.filter (fun x => !x.skip)).map (·.len)).sum
/-- Bytes of reservations in a state (R345): 0 open, 1 committed and waiting for an earlier one. -/
def Queue.resvBytes (q : Queue) (n : Nat) : Nat := ((q.resv.filter (·.state == n)).map (·.len)).sum
/-- Committed bytes (R345, R346), those that wait for an earlier reservation among them. -/
def Queue.used (q : Queue) : Nat := q.committed + q.resvBytes 1
def Queue.tail (q : Queue) : Nat := (q.head + q.total) % q.size
def Queue.enabled (q : Queue) : Bool := q.ok && bit q.mode 3
def Queue.byTeams (q : Queue) : Bool := bit q.mode 0
def Queue.hostMade (q : Queue) : Bool := bit q.mode 1
def Queue.critical (q : Queue) : Bool := bit q.mode 2
/-- A push or reservation is admitted (R333, R344, R345). -/
def Queue.accepts (q : Queue) : Bool := q.enabled && q.kind != 0 && !q.hostMade
/-- A pop is admitted (R343). -/
def Queue.pops (q : Queue) : Bool := q.enabled && q.kind != 0 && q.byTeams

/-- Occupancy above 0.75 (R333, R339): committed and reserved bytes. -/
def Queue.high (q : Queue) : Bool := decide (4 * (q.used + q.resvBytes 0) > 3 * q.size)
/-- The queue its consumers produce into. -/
def Queue.downQueue (q : Queue) : Option Nat := if bit q.down 15 then some (q.down % 4096) else none

/-- Drain-first holds (R339): one begins when the queue has a candidate and its downstream queue is above 0.75, and
breaks when that falls again. -/
def Suite.holds (x : Suite) (tick : Nat) (live : List Nat) : Suite :=
  { x with queues := x.queues.map fun (q, z) =>
      let full := match z.downQueue with
        | some p => (x.queue p).high
        | none => false
      (q, if !full then { z with hold := none, holdSpent := false }
        else if z.hold.isSome || (z.committed == 0 && !live.contains q) then z
        else { z with hold := some tick }) }

/-- A queue of a suite changes. -/
def State.modQueue (s : State) (u q : Nat) (f : Queue → Queue) : State :=
  let live := s.launches.filterMap fun e => if e.2.suite = u then some e.2.queue else none
  s.modSuite u fun x => (x.setQueue q (f (x.queue q))).holds s.tick live

/-- Reservations whose turn has come are published (R345). -/
def Queue.settle (tick : Nat) : List Resv → List Seg × List Resv
  | [] => ([], [])
  | r :: rest => if r.state = 0 then ([], r :: rest) else
      let (a, b) := Queue.settle tick rest
      ({ len := r.len, tick := tick, skip := r.state == 2, packet := r.packet } :: a, b)

/-- Bytes at the head that consumers skip are passed over. -/
def Queue.passSkips : Nat → Queue → Queue
  | 0, q => q
  | n + 1, q => match q.segs with
    | g :: r => if g.skip || g.len == 0 then Queue.passSkips n { q with segs := r, head := (q.head + g.len) % q.size } else q
    | [] => q

def Queue.publish (q : Queue) (tick : Nat) : Queue :=
  let (a, b) := Queue.settle tick q.resv
  let q := { q with segs := q.segs ++ a, resv := b }
  q.passSkips q.segs.length

/-- `n` bytes leave at the head. -/
def Queue.consumeSegs : Nat → List Seg → List Seg
  | _, [] => []
  | n, g :: r => if n = 0 then g :: r else if g.len ≤ n then Queue.consumeSegs (n - g.len) r else { g with len := g.len - n } :: r

def Queue.consume (q : Queue) (n : Nat) : Queue :=
  let q := { q with head := (q.head + n) % q.size, segs := Queue.consumeSegs n q.segs, part := 0
                    pinned := none, overdue := none }
  q.passSkips q.segs.length

/-- Ring bytes from offset `o`, wrapping at `size`. -/
def State.ringBytes (s : State) (u : Nat) (q : Queue) (o n : Nat) : List Byte × State :=
  let o := o % q.size
  if o + n ≤ q.size then s.ostRead u (q.base + o) n
  else
    let k := q.size - o
    let (a, s) := s.ostRead u (q.base + o) k
    let (b, s) := s.ostRead u q.base (n - k)
    (a ++ b, s)

def State.putRing (s : State) (u : Nat) (q : Queue) (o : Nat) (bytes : List Byte) : State :=
  let o := o % q.size
  if o + bytes.length ≤ q.size then s.ostWrite u (q.base + o) bytes
  else (s.ostWrite u (q.base + o) (bytes.take (q.size - o))).ostWrite u q.base (bytes.drop (q.size - o))

/-- Append an entry, by a remote invocation or not; `none` when the queue has no room. -/
def State.enqueue (s : State) (u q : Nat) (bytes : List Byte) (packet : Bool := false) : Option State :=
  let x := s.queue u q
  if x.total + bytes.length > x.size then none
  else
    let s := s.putRing u x x.tail bytes
    let r : Resv := { off := x.tail, len := bytes.length, b := 0, t := 0, state := 1, packet := packet }
    some (s.modQueue u q fun x => ({ x with resv := x.resv ++ [r] }).publish s.tick)

/-- The count of ignored operations of a queue grows, saturating (R346). -/
def State.countErr (s : State) (u q : Nat) : State :=
  s.modQueue u q fun x => { x with errs := min (2 ^ 32 - 1) (x.errs + 1) }

/-! ## Refusals (R338) -/

def State.refuse (s : State) (u code where_ queue : Nat) : State :=
  let e := (s.suite u).used.errq.toNat % 4096
  let entry := leBytes 8 code ++ leBytes 4 queue ++ leBytes 4 0 ++ leBytes 8 where_ ++ leBytes 8 s.tick
  let s := match if (s.queue u e).enabled && (s.queue u e).kind == 2 then s.enqueue u e entry else none with
    | some s => s
    | none => s.countErr u e
  s.raiseCause u 0

/-! ## Waybills (R337) -/

structure Waybill where
  preds : Nat
  nsucc : Nat
  queue : Nat
  index : Nat
  kind : Nat
  len : Nat
  deriving DecidableEq, Repr

def Waybill.of (r : List Byte) : Waybill :=
  let h := field r 0 8
  { preds := bits h 63 48, nsucc := bits h 47 40, queue := bits h 39 28, index := bits h 27 16
    kind := bits h 11 8, len := bits h 7 0 }

def Waybill.malformed (w : Waybill) : Bool :=
  decide (8 + 4 * w.nsucc > 32 * w.len) || w.len == 0 || decide (w.len > 8) || decide (w.kind ≥ 5)

/-- The successor handles: the last 4 × `nsucc` bytes, those of them that lie after the header. -/
def handlesOf (r : List Byte) : List Nat :=
  let w := Waybill.of r
  let n := min (32 * w.len) r.length
  (List.range w.nsucc).filterMap fun i =>
    let o := 4 * (w.nsucc - i)
    if o + 8 ≤ n then some (field r (n - o) 4) else none

def nullHandle : Nat := 0xFFFFFFFF

/-- A ready waybill of the arena enters its queue; it waits its turn when the queue is full (R344). -/
def State.readyCopy (s : State) (u h : Nat) : State :=
  let va := (s.suite u).used.arena.toNat + 32 * h
  let (head, s) := s.ostRead u va 8
  let w := Waybill.of head
  if w.malformed then s.refuse u 5 va 0xFFFFFFFF
  else if !(s.queue u w.queue).accepts || (s.queue u w.queue).kind != 1 then s.refuse u 2 va w.queue
  else
    let (bytes, s) := s.ostRead u va (32 * w.len)
    match s.enqueue u w.queue bytes with
    | some s => s
    | none => s.modSuite u fun x => { x with ready := x.ready ++ [h] }

/-- `SUCC` (R344). -/
def State.succHandle (s : State) (u h : Nat) : State :=
  if h = nullHandle then s
  else if h ≥ (s.suite u).used.arenasz.toNat then s.countErr u ((s.suite u).used.errq.toNat % 4096)
  else
    let va := (s.suite u).used.arena.toNat + 32 * h
    let (head, s) := s.ostRead u va 8
    let w := Waybill.of head
    if w.preds = 0 then s.countErr u w.queue
    else
      let s := s.ostWrite u (va + 6) (leBytes 2 (w.preds - 1))
      if w.preds = 1 then s.readyCopy u h else s

/-- `DONE`: `SUCC` on each successor in order (R344). -/
def State.doneHandles (s : State) (u : Nat) (hs : List Nat) : State := hs.foldl (fun s h => s.succHandle u h) s

/-- The handler table (R331, R341): live, and its queue. -/
def State.handlerOf (s : State) (u i : Nat) : Option Nat × State :=
  let (r, s) := s.ostRead u ((s.suite u).used.htable.toNat + 4 * i) 4
  let e := field r 0 4
  (if bit e 31 then some (bits e 11 0) else none, s)

/-! ## Pops (R343) -/

/-- Committed bytes from the head on that nothing skipped parts. -/
def Queue.run (q : Queue) : Nat := ((q.segs.takeWhile (fun x => !x.skip)).map (·.len)).sum

/-- The length of the head entry, if there is one (R332, R335). -/
def State.headLen (s : State) (u q : Nat) : Option Nat × State :=
  let x := s.queue u q
  if x.committed = 0 then (none, s)
  else if x.kind = 2 then (some (min x.run 32), s)
  else if x.kind = 0 then
    let (r, s) := s.ringBytes u x x.head 64
    (some (min x.run (roundUp (64 + 16 * field r 43 1) 32)), s)
  else
    let (r, s) := s.ringBytes u x x.head 8
    (some (min x.run (32 * max 1 (Waybill.of r).len)), s)

/-- The head entry. -/
def State.headEntry (s : State) (u q : Nat) : Option (List Byte) × State :=
  match s.headLen u q with
  | (none, s) => (none, s)
  | (some n, s) =>
    let (r, s) := s.ringBytes u (s.queue u q) (s.queue u q).head n
    (some r, s)

/-- The next 32-byte unit of the head entry, taken or only seen (R343). -/
def State.unitPop (s : State) (u q : Nat) (take_ : Bool) : Option (List Byte) × State :=
  match s.headLen u q with
  | (none, s) => (none, s)
  | (some n, s) =>
    let x := s.queue u q
    let (r, s) := s.ringBytes u x (x.head + x.part) 32
    let s := if !take_ then s
      else if x.part + 32 ≥ n then s.modQueue u q (·.consume n)
      else s.modQueue u q fun x => { x with part := x.part + 32 }
    (some r, s)

end Sys2Proof.Machine
end

