-- ==== Sys2Proof/Machine/OpBytes.lean ====
section
/-! DEFINITION. Operand bytes and operands (02 R51), both ways. -/
namespace Sys2Proof

/-- The operand a byte names (R51). -/
def opndOfByte (b : Nat) : Opnd :=
  if h : b < 96 then .v ⟨b, h⟩
  else if b < 128 then .s (Fin.ofNat 32 (b - 96))
  else if b < 192 then .pop (Fin.ofNat 64 (b - 128))
  else .peek (Fin.ofNat 64 (b - 192))

/-- The byte of an operand (R51). -/
def byteOfOpnd : Opnd → Nat
  | .v r => r.val
  | .s r => 96 + r.val
  | .pop c => 128 + c.val
  | .peek c => 192 + c.val

/-- The pitch byte (R291). -/
def byteOfPitch : Pitch → Nat
  | .packed => 16
  | .q r => r.val

end Sys2Proof
end

