-- ==== Sys2Proof/Machine/Shapes.lean ====
section
/-! DEFINITION. The shape of each instruction word: which registers its operands name, whether they are read or
written, and what the decode stage demands of them (02 R43 stage `ILLEGAL`, R48, R50-R56; 04 R107, R110; each
instruction's own entry). One table drives the `ILLEGAL` checks of operands, the `REGWIN` check and the `HAZARD`
check (02 R58, R59). -/
namespace Sys2Proof

/-- What an instruction does with an operand: reads it, writes it, reads then writes it. -/
inductive Role where
  | src
  | dst
  | acc
  deriving DecidableEq, Repr

/-- Which register file an operand may name. -/
inductive RegFile where
  | any
  | v
  | s
  deriving DecidableEq, Repr

/-- One register operand: `n` registers from the one named, whose index is a multiple of `align` (R53). -/
structure Req where
  o : Opnd
  n : Nat
  role : Role
  chan : Bool
  file : RegFile
  align : Nat
  deriving DecidableEq, Repr

/-- The operand is one its instruction admits (R48, R51-R53). -/
def Req.ok (r : Req) : Bool :=
  match r.o with
  | .v i => decide (r.file ≠ .s) && decide (i.val % r.align = 0)
  | .s i => decide (r.file ≠ .v) && decide (i.val % r.align = 0) && decide (i.val + r.n ≤ 32)
  | .pop _ => r.chan
  | .peek _ => r.chan && decide (r.role = .src)

/-- The operand stays inside a register window of `w` (R56). -/
def Req.inWindow (w : Nat) (r : Req) : Bool :=
  match r.o with
  | .v i => decide (i.val + r.n ≤ w)
  | _ => true

/-- The shape of an instruction: its operands; whether R54's rule on uniform forms binds them; and whatever else
its entry demands of its fields. -/
structure Shape where
  reqs : List Req
  uni : Bool
  extra : Bool

/-- What tracks an instruction (R40): `setA`, `setB`, or nothing. -/
inductive Track where
  | a
  | b
  | no
  deriving DecidableEq, Repr

/-- What the decode checks and the issue see of an instruction: its shape, its tracking, whether it ends its clause
(R38), whether a transaction performs it (09 R234). -/
structure Info where
  shape : Shape
  track : Track
  ends : Bool
  tx : Bool

def Shape.none : Shape := ⟨[], false, true⟩

def isS : Opnd → Bool
  | .s _ => true
  | _ => false

def isV : Opnd → Bool
  | .v _ => true
  | _ => false

/-- R54: with an s-register destination every source is an s-register, a literal or a channel. -/
def Shape.uniformOk (x : Shape) : Bool :=
  if x.uni && x.reqs.any (fun r => r.role != .src && isS r.o)
  then x.reqs.all (fun r => r.role != .src || !isV r.o) else true

/-- Every check of the `ILLEGAL` stage on operands. -/
def Shape.ok (x : Shape) : Bool := x.reqs.all Req.ok && x.uniformOk && x.extra

/-- A 32-bit source, any file or a channel. -/
def rS (o : Opnd) : Req := ⟨o, 1, .src, true, .any, 1⟩
/-- A 32-bit destination, any file or a channel. -/
def rD (o : Opnd) : Req := ⟨o, 1, .dst, true, .any, 1⟩
/-- A 32-bit destination that is also the third source; no channel (R107). -/
def rAcc (o : Opnd) : Req := ⟨o, 1, .acc, false, .any, 1⟩
/-- A source of `n` registers (a pair, a quad, or more), aligned to `k`. -/
def rSn (o : Opnd) (n k : Nat) : Req := ⟨o, n, .src, false, .any, k⟩
/-- A destination of `n` registers aligned to `k`. -/
def rDn (o : Opnd) (n k : Nat) : Req := ⟨o, n, .dst, false, .any, k⟩
/-- The same, only v-registers. -/
def rSv (o : Opnd) (n k : Nat) : Req := ⟨o, n, .src, false, .v, k⟩
def rDv (o : Opnd) (n k : Nat) : Req := ⟨o, n, .dst, false, .v, k⟩
/-- The same, only s-registers. -/
def rSs (o : Opnd) (n k : Nat) : Req := ⟨o, n, .src, false, .s, k⟩
def rDs (o : Opnd) (n k : Nat) : Req := ⟨o, n, .dst, false, .s, k⟩

/-- The operand of a source, if it is not a literal. -/
def srcReq (f : Opnd → Req) : Src → List Req
  | .reg o => [f o]
  | .lit _ => []

def shOne (d : Opnd) (a : Src) : Shape := ⟨rD d :: srcReq rS a, true, true⟩
def shTwo (d a : Opnd) (b : Src) : Shape := ⟨[rD d, rS a] ++ srcReq rS b, true, true⟩
def shAcc (d a : Opnd) (b : Src) : Shape := ⟨[rAcc d, rS a] ++ srcReq rS b, true, true⟩
/-- Format P (R45): the destination is a predicate. -/
def shCmp (a : Opnd) (b : Src) : Shape := ⟨rS a :: srcReq rS b, false, true⟩
/-- Pair forms (R53, R112, R163); a literal is allowed and widened (R55). -/
def shWWW (d a : Opnd) (b : Src) : Shape := ⟨[rDn d 2 2, rSn a 2 2] ++ srcReq (rSn · 2 2) b, true, true⟩
def shWRR (d a : Opnd) (b : Src) : Shape := ⟨[rDn d 2 2, rS a] ++ srcReq rS b, true, true⟩
def shWWR (d a : Opnd) (b : Src) : Shape := ⟨[rDn d 2 2, rSn a 2 2] ++ srcReq rS b, true, true⟩
def shWAcc (d a : Opnd) (b : Src) : Shape :=
  ⟨[⟨d, 2, .acc, false, .any, 2⟩, rSn a 2 2] ++ srcReq (rSn · 2 2) b, true, true⟩
def shCmpW (a : Opnd) (b : Src) : Shape := ⟨rSn a 2 2 :: srcReq (rSn · 2 2) b, false, true⟩
def shUnm (d : Opnd) (a : Src) : Shape := ⟨rDn d 2 2 :: srcReq rS a, true, true⟩
/-- Lane instructions (R110): v-register destination and source. -/
def shShfl (d a : Opnd) (b : Src) : Shape := ⟨[rDv d 1 1, rSv a 1 1] ++ srcReq rS b, false, true⟩
def shLane (d a : Opnd) : Shape := ⟨[rDv d 1 1, rSv a 1 1], false, true⟩
def shRdlane (d a : Opnd) (b : Src) : Shape := ⟨[rDv d 1 1, rSv a 1 1] ++ srcReq (rSs · 1 1) b, false, true⟩
/-- A single uniform source (R77, R129, R149). -/
def shS1 (a : Src) : Shape := ⟨srcReq (rSs · 1 1) a, false, true⟩

/-- Registers a value of a format takes (R141): two for `f64`. -/
def fmtRegs (c : Nat) : Nat := if c = 14 then 2 else 1

/-- A 32-bit or 64-bit operand by its format (R145). -/
def rFmtS (c : Nat) (o : Opnd) : Req := if c = 14 then rSn o 2 2 else rS o
def rFmtD (c : Nat) (o : Opnd) : Req := if c = 14 then rDn o 2 2 else rD o
def shCvt (d : Opnd) (a : Src) (t s : Fin 16) : Shape := ⟨rFmtD t.val d :: srcReq (rFmtS s.val) a, true, true⟩

/-- Element width in bits of a storage format (R132). -/
def fmtWidth (c : Nat) : Nat :=
  match c with
  | 0 => 32 | 1 => 16 | 2 => 16 | 3 => 8 | 4 => 8 | 5 => 8 | 6 => 8 | 7 => 4 | 8 => 4
  | 9 => 16 | 10 => 16 | 11 => 32 | 12 => 32 | 13 => 24 | 14 => 64 | _ => 0

/-- Elements that `PACK` and `UNPACK` move (R147); code 15, which has no width, counts as four, so that its wide operand
is a group of four registers (log 112). -/
def packCount (elem : Nat) : Nat := if fmtWidth elem = 16 then 2 else 4

/-- R147: element codes 1-10, register codes 0, 11, 12; 15 in either is `FMTBAD` when it executes. -/
def packCodesOk (elem reg : Nat) : Bool :=
  (elem == 15 || (decide (1 ≤ elem) && decide (elem ≤ 10))) && (reg == 15 || reg == 0 || reg == 11 || reg == 12)
def shPack (d a : Opnd) (t s : Fin 16) : Shape :=
  let n := packCount t.val
  ⟨[rD d, rSn a n n], true, packCodesOk t.val s.val⟩
def shUnpack (d : Opnd) (a : Src) (t s : Fin 16) : Shape :=
  let n := packCount s.val
  ⟨rDn d n n :: srcReq rS a, true, packCodesOk s.val t.val⟩

def isLit : Src → Bool
  | .lit _ => true
  | .reg _ => false
/-- A two-source instruction whose modifier bit exists only beside a literal (R44). -/
def shFlag (flag : Bool) (d a : Opnd) (b : Src) : Shape := ⟨[rD d, rS a] ++ srcReq rS b, true, !flag || isLit b⟩

/-- `BRX`, `CALLX`: a 64-bit pair (R77). -/
def shBrx (a : Opnd) : Shape := ⟨[rSn a 2 2], false, true⟩
def shCount (c : Count) : Shape :=
  match c with
  | .reg r => ⟨[rSs (.s r) 1 1], false, true⟩
  | _ => Shape.none
def shSDst (d : Opnd) : Shape := ⟨[rDs d 1 1], false, true⟩
def shSSrc (a : Opnd) : Shape := ⟨[rSs a 1 1], false, true⟩
/-- s-register destination, s-register or literal sources. -/
def shSS (d : Opnd) (a : Src) : Shape := ⟨rDs d 1 1 :: srcReq (rSs · 1 1) a, false, true⟩
def shSSS (d a : Opnd) (b : Src) : Shape := ⟨[rDs d 1 1, rSs a 1 1] ++ srcReq (rSs · 1 1) b, false, true⟩
def shS2 (a : Opnd) (b : Src) : Shape := ⟨rSs a 1 1 :: srcReq (rSs · 1 1) b, false, true⟩

/-- The registers of a Format M offset. -/
def offReq : MOff → List Req
  | .reg o => [rSn o 1 1]
  | .lit _ _ => []
/-- R177: the modifier of a load or store; only bits [1:0], and those only where a hint is admitted. -/
def hintOk (hint : Bool) : MOff → Bool
  | .reg _ => true
  | .lit _ m => if hint then decide (m.toNat < 4) else decide (m = 0)
/-- R221: scope 0 or 5, no hint. -/
def scopeOk (sysOk : Bool) : MOff → Bool
  | .reg _ => true
  | .lit _ m => decide (m = 0) || (sysOk && decide (m.toNat = 20))
/-- Loads (R176-R181): an s-register destination only when the access is uniform. -/
def shLoad (n : Nat) (hint : Bool) (d a : Opnd) (b : MOff) : Shape :=
  ⟨[rDn d n n, rSn a 2 2] ++ offReq b, true, hintOk hint b⟩
/-- Stores (R176-R180): `d` is read. -/
def shStore (n : Nat) (hint : Bool) (d a : Opnd) (b : MOff) : Shape :=
  ⟨[rSn d n n, rSn a 2 2] ++ offReq b, false, hintOk hint b⟩
def shGather (n : Nat) (d a b : Opnd) : Shape := ⟨[rDn d n n, rSn a 2 2, rSn b 1 1], true, true⟩
def shScatter (n : Nat) (d a b : Opnd) : Shape := ⟨[rSn d n n, rSn a 2 2, rSn b 1 1], false, true⟩
/-- An s-register status, an s-pair, an s-register or literal (R184). -/
def shSmap (d a : Opnd) (b : Src) : Shape := ⟨[rDs d 1 1, rSs a 2 2] ++ srcReq (rSs · 1 1) b, false, true⟩
def shPref (a : Opnd) (b : MOff) : Shape := ⟨rSn a 2 2 :: offReq b, false, hintOk true b⟩
/-- R212: scopes 0-6, neither set empty. -/
def shFence (scope : BitVec 3) (p u : BitVec 5) : Shape := ⟨[], false, decide (scope ≠ 7) && decide (p ≠ 0) && decide (u ≠ 0)⟩
def offIsV : MOff → Bool
  | .reg o => isV o
  | .lit _ _ => false
/-- Atomics (R222): `n` registers of data read at `d`, `k` of them written; a uniform `d` needs a uniform address. -/
def shAtom (n k : Nat) (sysOk : Bool) (d a : Opnd) (b : MOff) : Shape :=
  ⟨[rSn d n n] ++ (if k = 0 then [] else [rDn d k k]) ++ [rSn a 2 2] ++ offReq b, false,
    scopeOk sysOk b && (!isS d || (!isV a && !offIsV b))⟩
/-- `RHIST` (R229): increment, stash base, bin index, all read. -/
def shRhist (d a b : Opnd) : Shape := ⟨[rSn d 1 1, rSn a 2 2, rSn b 1 1], false, true⟩
/-- `STAGE` (R231): a quad destination, no modifier. -/
def shStage (d a : Opnd) (b : MOff) : Shape := ⟨[rDn d 4 4, rSn a 2 2] ++ offReq b, true, scopeOk false b⟩
def shVDst (d : Opnd) : Shape := ⟨[rDv d 1 1], false, true⟩
def shVote (a : Opnd) (b : Src) : Shape := ⟨rSn a 1 1 :: srcReq (rSs · 1 1) b, false, true⟩
def shOptS (d : Option Opnd) : Shape := match d with | some d => shSDst d | Option.none => Shape.none
def shSQuad (a : Opnd) : Shape := ⟨[rSs a 4 4], false, true⟩
def shSFlag (flag : Bool) (d a : Opnd) (b : Src) : Shape := ⟨[rDs d 1 1, rSs a 1 1] ++ srcReq (rSs · 1 1) b, false, !flag || isLit b⟩
/-- A v-register quad, or more registers from a multiple of 4 (R358, R400), read or written. -/
def rQs (o : Opnd) (n : Nat) : Req := rSv o n 4
def rQd (o : Opnd) (n : Nat) : Req := rDv o n 4
/-- `VBLD` (R358): quad, pixel index, tile handle. -/
def shVbld (d a b : Opnd) : Shape := ⟨[rQd d 4, rSv a 1 1, rSs b 1 1], false, true⟩
/-- `VBDEC`: quad, identifier pair. -/
def shVbdec (d a : Opnd) : Shape := ⟨[rQd d 4, rSv a 2 2], false, true⟩
def shBinpop (d : Opnd) (a : Src) : Shape := ⟨rQd d 4 :: srcReq (rSs · 1 1) a, false, true⟩
/-- `ATTR`, `ATTRD`: the destination is counted at its issue; the block of 16. -/
def shAttr (d a : Opnd) (b : Src) : Shape := ⟨[rQd d 1, rQs a 16] ++ srcReq (rSs · 1 1) b, false, true⟩
def shBary (d a : Opnd) : Shape := ⟨[rQd d 16, rQs a 4], false, true⟩
def shQuadsyn (d a : Opnd) : Shape := ⟨[rDv d 1 1, rQs a 4], false, true⟩
/-- `MOUTV`, `MOUTP`: quad source, index. -/
def shMout (d a : Opnd) : Shape := ⟨[rQs d 4, rSv a 1 1], false, true⟩
/-- `TEX`, `TEXLOD`: quad, `n` registers from a quad, descriptor offset. -/
def shTex (n : Nat) (d a b : Opnd) : Shape := ⟨[rQd d 4, rQs a n, rSs b 1 1], false, true⟩
def shTexfetch (d a b : Opnd) : Shape := ⟨[rQd d 4, rSv a 2 2, rSs b 1 1], false, true⟩
def shImgst (d a b : Opnd) : Shape := ⟨[rQs d 4, rQs a 4, rSs b 1 1], false, true⟩
/-- `TRACE` (R400): blocks of 8. -/
def shTrace (d a : Opnd) (b : Src) : Shape := ⟨[rQd d 8, rQs a 8] ++ srcReq (rSs · 1 1) b, false, true⟩
def shTrcont (d a : Opnd) (b : Src) : Shape := ⟨[rQd d 8, rSv a 1 1] ++ srcReq (rSs · 1 1) b, false, true⟩
def shTrstat (d : Opnd) (b : Src) : Shape := ⟨rDv d 2 2 :: srcReq (rSs · 1 1) b, false, true⟩
def shTrxform (d a b : Opnd) : Shape := ⟨[rQd d 8, rQs a 8, rSn b 2 2], false, true⟩
def shBinhit (d a : Opnd) (b : Src) : Shape := ⟨[rQs d 8, rSv a 1 1] ++ srcReq (rSs · 1 1) b, false, true⟩

/-- The special registers (R416): scope lane, 64-bit ones; every other selector is unlisted. -/
def srLane (n : Nat) : Bool := n == 0x00 || n == 0x0C
def srWide (n : Nat) : Bool := n == 0x08 || n == 0x12 || (decide (0x19 ≤ n) && decide (n ≤ 0x1E))
def srListed (n : Nat) : Bool := decide (n ≤ 0x15) || (decide (0x18 ≤ n) && decide (n ≤ 0x3F))
def srRegs (n : Nat) : Nat := if srWide n then 2 else 1
/-- `SRD` (R417). -/
def shSrd (d : Opnd) (sel : Byte) : Shape :=
  let n := srRegs sel.toNat
  ⟨[if srLane sel.toNat then rDv d n n else rDn d n n], false, srListed sel.toNat⟩
/-- `SWR` (R417). -/
def shSwr (sel : Byte) (a : Src) : Shape :=
  let n := srRegs sel.toNat
  ⟨srcReq (rSs · n n) a, false, srListed sel.toNat⟩
def shTick (d : Opnd) : Shape := ⟨[rDn d 2 2], false, true⟩
/-- `TLBINV`, `ASIDSET` (R421, R422): an s-register, an s-pair or nothing. -/
def shAOpt (a : Opnd) (b : Option Opnd) : Shape :=
  ⟨rSs a 1 1 :: (match b with | some b => [rSs b 2 2] | Option.none => []), false, true⟩
def shCsave (d a b : Opnd) : Shape := ⟨[rDs d 1 1, rSs a 1 1, rSs b 2 2], false, true⟩
def shCrestore (d a : Opnd) : Shape := ⟨[rDs d 1 1, rSs a 2 2], false, true⟩
def shWS (a : Opnd) : Shape := ⟨[rSs a 2 2], false, true⟩

/-- The shape of every instruction word; a step of the device has none. -/
def Instr.shape (i : Instr) : Shape :=
  match i with
  | .clauseIssue _ => Shape.none
  | .delayedTrapDelivery _ _ => Shape.none
  | .longLatencyComplete _ _ => Shape.none
  | .barrierOpApply _ => Shape.none
  | .barrierCompletion _ _ => Shape.none
  | .sleepExpire _ _ => Shape.none
  | .blockRetire _ => Shape.none
  | .ostlerPick _ _ => Shape.none
  | .traversalBatchComplete _ => Shape.none
  | .launchTake _ _ => Shape.none
  | .candidatePinned _ _ => Shape.none
  | .candidateOverdue _ _ => Shape.none
  | .drainFirstHoldEnd _ _ => Shape.none
  | .translationComplete _ _ _ => Shape.none
  | .faultEntryPost _ => Shape.none
  | .blockSave _ => Shape.none
  | .blockRestore _ => Shape.none
  | .forcedSave _ => Shape.none
  | .provisionalCommit _ _ _ => Shape.none
  | .homeLoad _ _ => Shape.none
  | .homeStore _ _ _ => Shape.none
  | .homeAtomic _ _ _ => Shape.none
  | .ptsTick => Shape.none
  | .collectorSend _ _ => Shape.none
  | .collectorLineReturn _ _ => Shape.none
  | .atomicResend _ _ => Shape.none
  | .replyCacheRelease _ _ => Shape.none
  | .eccUncorrectable _ _ _ _ => Shape.none
  | .txTimeout _ _ _ => Shape.none
  | .jobComplete _ => Shape.none
  | .streamJobStart _ => Shape.none
  | .streamTile _ => Shape.none
  | .nearMemoryJobStart _ _ => Shape.none
  | .fabricRequestReceive _ => Shape.none
  | .rinvokeReceive _ => Shape.none
  | .rinvokeRetry _ _ _ => Shape.none
  | .flitReceive _ _ => Shape.none
  | .portDown _ => Shape.none
  | .linkRestored _ => Shape.none
  | .timeSync _ => Shape.none
  | .binBatch _ => Shape.none
  | .tileResolveStart _ _ _ => Shape.none
  | .tileResolved _ _ _ => Shape.none
  | .classifyTile _ _ _ => Shape.none
  | .vboutWriteDone _ _ _ => Shape.none
  | .scanOut _ => Shape.none
  | .planeRead _ => Shape.none
  | .displayEnable _ _ => Shape.none
  | .hostWindowRead _ _ _ => Shape.none
  | .hostWindowWrite _ _ _ => Shape.none
  | .registerWrite _ _ => Shape.none
  | .tailWrite _ _ _ => Shape.none
  | .ctlEnable _ => Shape.none
  | .ctlDrain _ => Shape.none
  | .ctlDrainEnd _ => Shape.none
  | .qreserveTimeout _ _ _ => Shape.none
  | .waybillReadyCopy _ => Shape.none
  | .pfpop _ => Shape.none
  | .pfdoneResolved _ _ => Shape.none
  | .pfdoneDeclined _ _ => Shape.none
  | .mcpop _ => Shape.none
  | .evqPop _ => Shape.none
  | .haltRequest _ _ => Shape.none
  | .haltResume _ _ => Shape.none
  | .suiteMapRequest => Shape.none
  | .attestationRequest => Shape.none
  | .rootMailboxReply => Shape.none
  | .functionLevelReset => Shape.none
  | .hotReset => Shape.none
  | .coldReset => Shape.none
  | .thermalShutdown => Shape.none
  | .clockStop => Shape.none
  | .clockRelease _ => Shape.none
  | .nop => Shape.none
  | .mov d a => shOne d a
  | .iadd d a b => shTwo d a b
  | .iaddsI32 d a b => shTwo d a b
  | .iaddsN32 d a b => shTwo d a b
  | .isub d a b => shTwo d a b
  | .isubsI32 d a b => shTwo d a b
  | .isubsN32 d a b => shTwo d a b
  | .imul d a b => shTwo d a b
  | .imulhI32 d a b => shTwo d a b
  | .imulhN32 d a b => shTwo d a b
  | .imad d a b => shAcc d a b
  | .iminI32 d a b => shTwo d a b
  | .iminN32 d a b => shTwo d a b
  | .imaxI32 d a b => shTwo d a b
  | .imaxN32 d a b => shTwo d a b
  | .iabs d a => shOne d a
  | .ineg d a => shOne d a
  | .and d a b => shTwo d a b
  | .or d a b => shTwo d a b
  | .xor d a b => shTwo d a b
  | .andn d a b => shTwo d a b
  | .shl d a b => shTwo d a b
  | .shrn d a b => shTwo d a b
  | .shra d a b => shTwo d a b
  | .rotl d a b => shTwo d a b
  | .popc d a => shOne d a
  | .clz d a => shOne d a
  | .brev d a => shOne d a
  | .bfxN32 d a b => shTwo d a b
  | .bfxI32 d a b => shTwo d a b
  | .bfi d a b => shAcc d a b
  | .icmpEq _ a b => shCmp a b
  | .icmpNe _ a b => shCmp a b
  | .icmpLtI32 _ a b => shCmp a b
  | .icmpLeI32 _ a b => shCmp a b
  | .icmpLtN32 _ a b => shCmp a b
  | .icmpLeN32 _ a b => shCmp a b
  | .selP _ d a b => shTwo d a b
  | .iaddW d a b => shWWW d a b
  | .isubW d a b => shWWW d a b
  | .imulwN32 d a b => shWRR d a b
  | .imulwI32 d a b => shWRR d a b
  | .shlW d a b => shWWR d a b
  | .shrnW d a b => shWWR d a b
  | .lea d a b => shWWR d a b
  | .leaX4 d a b => shWWR d a b
  | .leaX8 d a b => shWWR d a b
  | .morton d a b => shTwo d a b
  | .unmorton d a => shUnm d a
  | .shflIdx d a b => shShfl d a b
  | .shflXor d a b => shShfl d a b
  | .shflUp d a b => shShfl d a b
  | .shflDown d a b => shShfl d a b
  | .ballot d a => shLane d a
  | .rdlane d a b => shRdlane d a b
  | .scanAdd _ d a => shLane d a
  | .reduceAdd d a => shLane d a
  | .reduceMinI32 d a => shLane d a
  | .reduceMaxI32 d a => shLane d a
  | .matchV d a => shLane d a
  | .rng d a => shOne d a
  | .modeset a => shS1 a
  | .modesetRng a => shS1 a
  | .fadd d a b => shTwo d a b
  | .fsub d a b => shTwo d a b
  | .fmul d a b => shTwo d a b
  | .ffma d a b => shAcc d a b
  | .fmin d a b => shTwo d a b
  | .fmax d a b => shTwo d a b
  | .fcmpEq _ a b => shCmp a b
  | .fcmpLt _ a b => shCmp a b
  | .fcmpLe _ a b => shCmp a b
  | .fcmpUn _ a b => shCmp a b
  | .hadd2F16 d a b => shTwo d a b
  | .hmul2F16 d a b => shTwo d a b
  | .hfma2F16 d a b => shAcc d a b
  | .hadd2Bf16 d a b => shTwo d a b
  | .hmul2Bf16 d a b => shTwo d a b
  | .hfma2Bf16 d a b => shAcc d a b
  | .dadd d a b => shWWW d a b
  | .dmul d a b => shWWW d a b
  | .dfma d a b => shWAcc d a b
  | .dcmpLt _ a b => shCmpW a b
  | .dcmpEq _ a b => shCmpW a b
  | .frcp d a => shOne d a
  | .frsq d a => shOne d a
  | .fsqrt d a => shOne d a
  | .fexp2 d a => shOne d a
  | .flog2 d a => shOne d a
  | .fsin d a => shOne d a
  | .fcos d a => shOne d a
  | .fdiv d a b => shTwo d a b
  | .ffract d a => shOne d a
  | .frndRn d a => shOne d a
  | .frndRz d a => shOne d a
  | .frndRd d a => shOne d a
  | .frndRu d a => shOne d a
  | .fdot2Bf16 d a b => shAcc d a b
  | .idot4I8 d a b => shAcc d a b
  | .fsat d a => shOne d a
  | .cvt d a t s => shCvt d a t s
  | .cvtSat d a t s => shCvt d a t s
  | .cvtSr d a t s => shCvt d a t s
  | .pack d a t s => shPack d a t s
  | .unpack d a t s => shUnpack d a t s
  | .cblook _ d a => shOne d a
  | .cbset _ _ a => shS1 a
  | .rkeyF32 d a => shOne d a
  | .rkeyBf16 d a => shOne d a
  | .rdig desc d a b => shFlag desc d a b
  | .argmax d a => shLane d a
  | .rank d a => shLane d a
  | .bra _ _ _ => Shape.none
  | .bru _ => Shape.none
  | .brx a => shBrx a
  | .call _ => Shape.none
  | .callx a => shBrx a
  | .ret => Shape.none
  | .exit => Shape.none
  | .jset _ a => shS1 a
  | .arrive _ => Shape.none
  | .waitj _ => Shape.none
  | .pand _ _ _ => Shape.none
  | .por _ _ _ => Shape.none
  | .pxor _ _ _ => Shape.none
  | .pnot _ _ => Shape.none
  | .pmov _ _ => Shape.none
  | .yield => Shape.none
  | .sleep a => shS1 a
  | .binit _ a => shS1 a
  | .barrive _ a => shCount a
  | .bwait _ => Shape.none
  | .bsync _ a => shCount a
  | .binval _ => Shape.none
  | .btest _ a => shSDst a
  | .barrivePeer _ a => shSSrc a
  | .hitch d a => shSS d a
  | .unhitch => Shape.none
  | .hmap d a => shSS d a
  | .trap a => shS1 a
  | .bkpt => Shape.none
  | .tmark a => shS1 a
  | .ldgN8 d a b => shLoad 1 true d a b
  | .ldgI8 d a b => shLoad 1 true d a b
  | .ldgN16 d a b => shLoad 1 true d a b
  | .ldgI16 d a b => shLoad 1 true d a b
  | .ldgB32 d a b => shLoad 1 true d a b
  | .ldgB64 d a b => shLoad 2 true d a b
  | .ldgB128 d a b => shLoad 4 true d a b
  | .stgB8 d a b => shStore 1 true d a b
  | .stgB16 d a b => shStore 1 true d a b
  | .stgB32 d a b => shStore 1 true d a b
  | .stgB64 d a b => shStore 2 true d a b
  | .stgB128 d a b => shStore 4 true d a b
  | .ldsN8 d a b => shLoad 1 false d a b
  | .ldsI8 d a b => shLoad 1 false d a b
  | .ldsN16 d a b => shLoad 1 false d a b
  | .ldsI16 d a b => shLoad 1 false d a b
  | .ldsB32 d a b => shLoad 1 false d a b
  | .ldsB64 d a b => shLoad 2 false d a b
  | .ldsB128 d a b => shLoad 4 false d a b
  | .stsB8 d a b => shStore 1 false d a b
  | .stsB16 d a b => shStore 1 false d a b
  | .stsB32 d a b => shStore 1 false d a b
  | .stsB64 d a b => shStore 2 false d a b
  | .stsB128 d a b => shStore 4 false d a b
  | .ldlB32 d a b => shLoad 1 false d a b
  | .ldlB64 d a b => shLoad 2 false d a b
  | .ldlB128 d a b => shLoad 4 false d a b
  | .stlB32 d a b => shStore 1 false d a b
  | .stlB64 d a b => shStore 2 false d a b
  | .stlB128 d a b => shStore 4 false d a b
  | .ldgcB32 d a b => shLoad 1 true d a b
  | .ldgcB64 d a b => shLoad 2 true d a b
  | .gatherB32 d a b => shGather 1 d a b
  | .gatherB64 d a b => shGather 2 d a b
  | .scatterB32 d a b => shScatter 1 d a b
  | .scatterB64 d a b => shScatter 2 d a b
  | .smap d a b => shSmap d a b
  | .sunmap a => shS1 a
  | .sflush a => shS1 a
  | .pref a b => shPref a b
  | .fence scope p u => shFence scope p u
  | .atomAddI32 d a b => shAtom 1 1 true d a b
  | .atomAddF32 d a b => shAtom 1 1 true d a b
  | .atomMinI32 d a b => shAtom 1 1 true d a b
  | .atomMinN32 d a b => shAtom 1 1 true d a b
  | .atomMaxI32 d a b => shAtom 1 1 true d a b
  | .atomMaxN32 d a b => shAtom 1 1 true d a b
  | .atomAnd d a b => shAtom 1 1 true d a b
  | .atomOr d a b => shAtom 1 1 true d a b
  | .atomXor d a b => shAtom 1 1 true d a b
  | .atomXchg d a b => shAtom 1 1 true d a b
  | .atomCas d a b => shAtom 2 1 true d a b
  | .atomInc d a b => shAtom 1 1 true d a b
  | .atomAddW d a b => shAtom 2 2 true d a b
  | .atomMinW d a b => shAtom 2 2 true d a b
  | .atomCasW d a b => shAtom 4 2 true d a b
  | .redAddI32 d a b => shAtom 1 0 true d a b
  | .redAddF32 d a b => shAtom 1 0 true d a b
  | .redMinW d a b => shAtom 2 0 true d a b
  | .redMaxN32 d a b => shAtom 1 0 true d a b
  | .satomAdd d a b => shAtom 1 1 false d a b
  | .satomMinN32 d a b => shAtom 1 1 false d a b
  | .satomCas d a b => shAtom 2 1 false d a b
  | .rhist d a b => shRhist d a b
  | .stage d a b => shStage d a b
  | .txbegin d => shVDst d
  | .txend => Shape.none
  | .txabort a => shS1 a
  | .txstat d => shVDst d
  | .mnop => Shape.none
  | .mmovq _ _ => Shape.none
  | .maddq _ _ _ => Shape.none
  | .mloop _ _ => Shape.none
  | .mtc _ _ => Shape.none
  | .mload _ _ _ => Shape.none
  | .mstore _ _ _ => Shape.none
  | .mzero _ => Shape.none
  | .mma _ _ _ _ _ => Shape.none
  | .mmas _ _ _ _ _ => Shape.none
  | .mmanm _ _ _ _ _ => Shape.none
  | .mdecomp _ _ _ => Shape.none
  | .mscale _ _ => Shape.none
  | .mfmt _ => Shape.none
  | .mwait _ => Shape.none
  | .msignal _ => Shape.none
  | .mawait _ _ => Shape.none
  | .mrelease _ _ => Shape.none
  | .mstamp _ _ => Shape.none
  | .mend => Shape.none
  | .fork a b => shVote a b
  | .rendez d => shOptS d
  | .copy d a b => shSSS d a b
  | .copyr d a => shSS d a
  | .layout d a b => shSmap d a b
  | .stream d a => shSS d a
  | .rinit d a b => shSSS d a b
  | .rawait d a => shSS d a
  | .rrelease a b => shS2 a b
  | .rstat d a => shSS d a
  | .jobcard d a => shSS d a
  | .jwait a => shS1 a
  | .fmtpost a b => shVote a b
  | .stampOpen a => shSQuad a
  | .stampEv _ a => shS1 a
  | .stampRetire a => shS1 a
  | .pklq d a => shSS d a
  | .pklg d a => shSS d a
  | .seljob d a => shSS d a
  | .qpop nb d a b => shSFlag nb d a b
  | .qpush a b => shS2 a b
  | .qreserve d a b => shSSS d a b
  | .qcommit a b => shS2 a b
  | .qcancel a b => shS2 a b
  | .succ a => shS1 a
  | .doneQ a => shS1 a
  | .rinvoke t d a b => shSFlag t d a b
  | .deadline a b => shS2 a b
  | .drainchk d => shSDst d
  | .qstat _ d a => shSS d a
  | .vbld d a b => shVbld d a b
  | .vbdec d a => shVbdec d a
  | .tileacq d a b => shSmap d a b
  | .tilerel a => shS1 a
  | .binpop d a => shBinpop d a
  | .attr d a b => shAttr d a b
  | .attrd d a b => shAttr d a b
  | .bary d a => shBary d a
  | .quadsyn d a => shQuadsyn d a
  | .mdecl d a b => shSmap d a b
  | .moutv d a => shMout d a
  | .moutp d a => shMout d a
  | .tex d a b => shTex 6 d a b
  | .texlod d a b => shTex 4 d a b
  | .texfetch d a b => shTexfetch d a b
  | .imgst d a b => shImgst d a b
  | .trace d a b => shTrace d a b
  | .trcont d a b => shTrcont d a b
  | .trstat d b => shTrstat d b
  | .trxform d a b => shTrxform d a b
  | .binhit d a b => shBinhit d a b
  | .srd d s => shSrd d s
  | .swr s a => shSwr s a
  | .tret => Shape.none
  | .tick d => shTick d
  | .tickC d => shTick d
  | .tlbinv a b => shAOpt a b
  | .asidset a b => shAOpt a b
  | .csave d a b => shCsave d a b
  | .crestore d a => shCrestore d a
  | .eventWake a => shS1 a
  | .eventPost a => shS1 a
  | .dbgstop a => shWS a
  | .halt => Shape.none
  | .thermalOrPowerLimit _ => Shape.none
  | .eccCorrectable _ => Shape.none

/-- What tracks each instruction (R40; the matrix stream is in its own chapter, 11 R285). -/
def Instr.track (i : Instr) : Track :=
  match i with
  | .frcp .. => .a
  | .frsq .. => .a
  | .fsqrt .. => .a
  | .fexp2 .. => .a
  | .flog2 .. => .a
  | .fsin .. => .a
  | .fcos .. => .a
  | .fdiv .. => .a
  | .barrivePeer .. => .b
  | .ldgN8 .. => .a
  | .ldgI8 .. => .a
  | .ldgN16 .. => .a
  | .ldgI16 .. => .a
  | .ldgB32 .. => .a
  | .ldgB64 .. => .a
  | .ldgB128 .. => .a
  | .stgB8 .. => .b
  | .stgB16 .. => .b
  | .stgB32 .. => .b
  | .stgB64 .. => .b
  | .stgB128 .. => .b
  | .ldsN8 .. => .a
  | .ldsI8 .. => .a
  | .ldsN16 .. => .a
  | .ldsI16 .. => .a
  | .ldsB32 .. => .a
  | .ldsB64 .. => .a
  | .ldsB128 .. => .a
  | .stsB8 .. => .b
  | .stsB16 .. => .b
  | .stsB32 .. => .b
  | .stsB64 .. => .b
  | .stsB128 .. => .b
  | .ldlB32 .. => .a
  | .ldlB64 .. => .a
  | .ldlB128 .. => .a
  | .stlB32 .. => .b
  | .stlB64 .. => .b
  | .stlB128 .. => .b
  | .ldgcB32 .. => .a
  | .ldgcB64 .. => .a
  | .gatherB32 .. => .a
  | .gatherB64 .. => .a
  | .scatterB32 .. => .b
  | .scatterB64 .. => .b
  | .sunmap .. => .b
  | .sflush .. => .b
  | .pref .. => .b
  | .atomAddI32 .. => .a
  | .atomAddF32 .. => .a
  | .atomMinI32 .. => .a
  | .atomMinN32 .. => .a
  | .atomMaxI32 .. => .a
  | .atomMaxN32 .. => .a
  | .atomAnd .. => .a
  | .atomOr .. => .a
  | .atomXor .. => .a
  | .atomXchg .. => .a
  | .atomCas .. => .a
  | .atomInc .. => .a
  | .atomAddW .. => .a
  | .atomMinW .. => .a
  | .atomCasW .. => .a
  | .redAddI32 .. => .b
  | .redAddF32 .. => .b
  | .redMinW .. => .b
  | .redMaxN32 .. => .b
  | .satomAdd .. => .a
  | .satomMinN32 .. => .a
  | .satomCas .. => .a
  | .rhist .. => .b
  | .stage .. => .a
  | .txstat .. => .a
  | .mload .. => .a
  | .mstore .. => .b
  | .mma .. => .a
  | .mmas .. => .a
  | .mmanm .. => .a
  | .mdecomp .. => .a
  | .mscale .. => .a
  | .mawait .. => .a
  | .fork .. => .b
  | .rendez .. => .b
  | .copy .. => .b
  | .copyr .. => .b
  | .layout .. => .b
  | .stream .. => .b
  | .rinit .. => .b
  | .rawait .. => .b
  | .rrelease .. => .b
  | .rstat .. => .b
  | .jobcard .. => .b
  | .jwait .. => .b
  | .fmtpost .. => .b
  | .stampOpen .. => .b
  | .stampEv .. => .b
  | .stampRetire .. => .b
  | .pklq .. => .b
  | .pklg .. => .b
  | .seljob .. => .b
  | .qpop .. => .a
  | .qpush .. => .b
  | .qreserve .. => .a
  | .qcommit .. => .b
  | .qcancel .. => .b
  | .succ .. => .b
  | .doneQ .. => .b
  | .rinvoke .. => .a
  | .qstat .. => .a
  | .vbld .. => .a
  | .vbdec .. => .a
  | .tileacq .. => .a
  | .tilerel .. => .b
  | .binpop .. => .a
  | .attr .. => .a
  | .attrd .. => .a
  | .bary .. => .a
  | .quadsyn .. => .a
  | .mdecl .. => .a
  | .moutv .. => .b
  | .moutp .. => .b
  | .tex .. => .a
  | .texlod .. => .a
  | .texfetch .. => .a
  | .imgst .. => .b
  | .trace .. => .a
  | .trcont .. => .a
  | .trstat .. => .a
  | .trxform .. => .a
  | .binhit .. => .b
  | _ => .no

/-- The instructions that end their clause (R38). -/
def Instr.ends (i : Instr) : Bool :=
  match i with
  | .bra .. => true
  | .bru .. => true
  | .brx .. => true
  | .call .. => true
  | .callx .. => true
  | .ret => true
  | .exit => true
  | .waitj .. => true
  | .yield => true
  | .sleep .. => true
  | .trap .. => true
  | .mloop .. => true
  | .mend => true
  | .tret => true
  | _ => false

/-- The instructions performed inside a transaction (09 R234). -/
def Instr.tx (i : Instr) : Bool :=
  match i with
  | .nop => true
  | .mov .. => true
  | .iadd .. => true
  | .iaddsI32 .. => true
  | .iaddsN32 .. => true
  | .isub .. => true
  | .isubsI32 .. => true
  | .isubsN32 .. => true
  | .imul .. => true
  | .imulhI32 .. => true
  | .imulhN32 .. => true
  | .imad .. => true
  | .iminI32 .. => true
  | .iminN32 .. => true
  | .imaxI32 .. => true
  | .imaxN32 .. => true
  | .iabs .. => true
  | .ineg .. => true
  | .and .. => true
  | .or .. => true
  | .xor .. => true
  | .andn .. => true
  | .shl .. => true
  | .shrn .. => true
  | .shra .. => true
  | .rotl .. => true
  | .popc .. => true
  | .clz .. => true
  | .brev .. => true
  | .bfxN32 .. => true
  | .bfxI32 .. => true
  | .bfi .. => true
  | .icmpEq .. => true
  | .icmpNe .. => true
  | .icmpLtI32 .. => true
  | .icmpLeI32 .. => true
  | .icmpLtN32 .. => true
  | .icmpLeN32 .. => true
  | .selP .. => true
  | .iaddW .. => true
  | .isubW .. => true
  | .imulwN32 .. => true
  | .imulwI32 .. => true
  | .shlW .. => true
  | .shrnW .. => true
  | .lea .. => true
  | .leaX4 .. => true
  | .leaX8 .. => true
  | .morton .. => true
  | .unmorton .. => true
  | .shflIdx .. => true
  | .shflXor .. => true
  | .shflUp .. => true
  | .shflDown .. => true
  | .ballot .. => true
  | .rdlane .. => true
  | .scanAdd .. => true
  | .reduceAdd .. => true
  | .reduceMinI32 .. => true
  | .reduceMaxI32 .. => true
  | .matchV .. => true
  | .rng .. => true
  | .modeset .. => true
  | .modesetRng .. => true
  | .fadd .. => true
  | .fsub .. => true
  | .fmul .. => true
  | .ffma .. => true
  | .fmin .. => true
  | .fmax .. => true
  | .fcmpEq .. => true
  | .fcmpLt .. => true
  | .fcmpLe .. => true
  | .fcmpUn .. => true
  | .hadd2F16 .. => true
  | .hmul2F16 .. => true
  | .hfma2F16 .. => true
  | .hadd2Bf16 .. => true
  | .hmul2Bf16 .. => true
  | .hfma2Bf16 .. => true
  | .dadd .. => true
  | .dmul .. => true
  | .dfma .. => true
  | .dcmpLt .. => true
  | .dcmpEq .. => true
  | .frcp .. => true
  | .frsq .. => true
  | .fsqrt .. => true
  | .fexp2 .. => true
  | .flog2 .. => true
  | .fsin .. => true
  | .fcos .. => true
  | .fdiv .. => true
  | .ffract .. => true
  | .frndRn .. => true
  | .frndRz .. => true
  | .frndRd .. => true
  | .frndRu .. => true
  | .fdot2Bf16 .. => true
  | .idot4I8 .. => true
  | .fsat .. => true
  | .cvt .. => true
  | .cvtSat .. => true
  | .cvtSr .. => true
  | .pack .. => true
  | .unpack .. => true
  | .cblook .. => true
  | .cbset .. => true
  | .rkeyF32 .. => true
  | .rkeyBf16 .. => true
  | .rdig .. => true
  | .argmax .. => true
  | .rank .. => true
  | .bra .. => true
  | .bru .. => true
  | .pand .. => true
  | .por .. => true
  | .pxor .. => true
  | .pnot .. => true
  | .pmov .. => true
  | .ldgN8 .. => true
  | .ldgI8 .. => true
  | .ldgN16 .. => true
  | .ldgI16 .. => true
  | .ldgB32 .. => true
  | .ldgB64 .. => true
  | .ldgB128 .. => true
  | .stgB8 .. => true
  | .stgB16 .. => true
  | .stgB32 .. => true
  | .stgB64 .. => true
  | .stgB128 .. => true
  | .ldgcB32 .. => true
  | .ldgcB64 .. => true
  | .gatherB32 .. => true
  | .gatherB64 .. => true
  | .scatterB32 .. => true
  | .scatterB64 .. => true
  | .txend => true
  | .txabort .. => true
  | .txstat .. => true
  | _ => false

/-- What the decode checks and the issue of an instruction see of it. -/
def Instr.info (i : Instr) : Info := ⟨i.shape, i.track, i.ends, i.tx⟩

end Sys2Proof
end

