-- ==== Sys2Proof/WellFormed.lean ====
section
/-! DEFINITION. Well-formed instructions: every operand is one the instruction admits (02 R43, stage `ILLEGAL`). -/
namespace Sys2Proof

/-- `i` passes the operand checks of the `ILLEGAL` stage. -/
def Instr.WellFormed (i : Instr) : Bool := i.shape.ok

/-- `i` stays inside a register window of `w` registers (R56). -/
def Instr.inWindow (i : Instr) (w : Nat) : Bool := i.shape.reqs.all (Req.inWindow w)

end Sys2Proof
end

