-- ==== Sys2Proof/Decode.lean ====
section
/-! DEFINITION. Decoding and encoding instruction words (02 R44-R51, R68, R69). A word names an instruction only
together with the class of its clause header (R36), so the decoder takes the class. It is total: it answers the
instruction, or the reason why the word is `ILLEGAL` (R43). -/
namespace Sys2Proof

/-- The fields of a word in every format (R44-R49): `E`, the three bytes below the opcode, and the next word. -/
structure Fields where
  e : Bool
  x : Nat
  y : Nat
  z : Nat
  lit : Word

def fieldsOf (w lit : Word) : Fields :=
  ⟨bit w.toNat 31, bits w.toNat 23 16, bits w.toNat 15 8, bits w.toNat 7 0, lit⟩

/-- Why a word is `ILLEGAL`: its opcode is unassigned in the class (R69), a field that must be 0 or in range is
not, or an operand is not one the instruction admits. -/
inductive Reject where
  | unassigned
  | fields
  | operands
  deriving DecidableEq, Repr

/-- What the decoder answers. -/
inductive Decoded where
  | instr (i : Instr)
  | illegal (r : Reject)
  deriving DecidableEq, Repr

/-- `i` when `c` holds. -/
def when? {α : Type} (c : Bool) (i : α) : Option α := if c then some i else none

/-- A field that must be below `n`. -/
def fin? {α : Type} (n v : Nat) (f : Fin n → Option α) : Option α := if h : v < n then f ⟨v, h⟩ else none

def srcB (f : Fields) : Src := if f.e then .lit f.lit else .reg (opndOfByte f.z)
def srcA (f : Fields) : Src := if f.e then .lit f.lit else .reg (opndOfByte f.y)

/-- With `E` = 1 the byte the literal replaces is 0 (R44, R47). -/
def litA0 (f : Fields) : Bool := !f.e || f.y == 0

/-- Format A without operands. -/
def fNone {α : Type} (f : Fields) (i : α) : Option α := when? (!f.e && f.x == 0 && f.y == 0 && f.z == 0) i
/-- Format A, two sources; the modifier is 0 (R44). -/
def fTwo {α : Type} (f : Fields) (c : Opnd → Opnd → Src → α) : Option α :=
  when? (!f.e || f.z == 0) (c (opndOfByte f.x) (opndOfByte f.y) (srcB f))
/-- Format A, one source; the modifier is 0 (R44). -/
def fOne {α : Type} (f : Fields) (c : Opnd → Src → α) : Option α :=
  when? (litA0 f && f.z == 0) (c (opndOfByte f.x) (srcA f))
/-- Format P compare (R45). -/
def fCmp {α : Type} (f : Fields) (c : Fin 8 → Opnd → Src → α) : Option α :=
  fin? 8 f.x fun p => when? (!f.e || f.z == 0) (c p (opndOfByte f.y) (srcB f))
/-- Destination and one register source, no literal. -/
def fPair {α : Type} (f : Fields) (c : Opnd → Opnd → α) : Option α :=
  when? (!f.e && f.z == 0) (c (opndOfByte f.x) (opndOfByte f.y))
/-- Three operands, no literal. -/
def fThree {α : Type} (f : Fields) (c : Opnd → Opnd → Opnd → α) : Option α :=
  when? (!f.e) (c (opndOfByte f.x) (opndOfByte f.y) (opndOfByte f.z))
/-- Two sources, no destination. -/
def fTwoNoD {α : Type} (f : Fields) (c : Opnd → Src → α) : Option α :=
  when? (f.x == 0 && (!f.e || f.z == 0)) (c (opndOfByte f.y) (srcB f))
/-- One source, no destination, modifier `m`. -/
def fOneNoD {α : Type} (f : Fields) (m : Nat) (c : Src → α) : Option α :=
  when? (f.x == 0 && litA0 f && f.z == m) (c (srcA f))
def offOf (f : Fields) : MOff := if f.e then .lit f.lit (BitVec.ofNat 8 f.z) else .reg (opndOfByte f.z)
/-- Format M (R48). -/
def fMem {α : Type} (f : Fields) (c : Opnd → Opnd → MOff → α) : Option α :=
  some (c (opndOfByte f.x) (opndOfByte f.y) (offOf f))
def fPref {α : Type} (f : Fields) (c : Opnd → MOff → α) : Option α := when? (f.x == 0) (c (opndOfByte f.y) (offOf f))
/-- `SCAN.add` (R122): bit 0 of the modifier. -/
def fScan {α : Type} (f : Fields) (c : Bool → Opnd → Opnd → α) : Option α :=
  when? (!f.e && decide (f.z < 2)) (c (f.z == 1) (opndOfByte f.x) (opndOfByte f.y))
/-- Conversions (R145): two format codes in the modifier. -/
def fCvt {α : Type} (f : Fields) (c : Opnd → Src → Fin 16 → Fin 16 → α) : Option α :=
  when? (litA0 f) (c (opndOfByte f.x) (srcA f) (Fin.ofNat 16 (f.z / 16)) (Fin.ofNat 16 f.z))
def fPack {α : Type} (f : Fields) (c : Opnd → Opnd → Fin 16 → Fin 16 → α) : Option α :=
  when? (!f.e) (c (opndOfByte f.x) (opndOfByte f.y) (Fin.ofNat 16 (f.z / 16)) (Fin.ofNat 16 f.z))
/-- `CBLOOK`, `CBSET` (R149). -/
def fCblook {α : Type} (f : Fields) (c : Fin 8 → Opnd → Src → α) : Option α :=
  fin? 8 f.z fun k => when? (litA0 f) (c k (opndOfByte f.x) (srcA f))
def fCbset {α : Type} (f : Fields) (c : Fin 8 → Fin 8 → Src → α) : Option α :=
  when? (f.x == 0 && litA0 f && decide (f.z < 64)) (c (Fin.ofNat 8 f.z) (Fin.ofNat 8 (f.z / 8)) (srcA f))
/-- Two sources and a modifier bit beside a literal. -/
def fFlag {α : Type} (f : Fields) (c : Bool → Opnd → Opnd → Src → α) : Option α :=
  when? (!f.e || decide (f.z < 2)) (c (f.e && f.z == 1) (opndOfByte f.x) (opndOfByte f.y) (srcB f))
/-- Format B's offset (R46). -/
def boff (f : Fields) : BOff := if f.e then .far f.lit else .near (BitVec.ofNat 16 (f.y * 256 + f.z))
def boffOk (f : Fields) : Bool := !f.e || (f.y == 0 && f.z == 0)
def fBra {α : Type} (f : Fields) (c : Bool → Fin 8 → BOff → α) : Option α :=
  when? (f.x % 16 == 0 && boffOk f) (c (bit f.x 7) (Fin.ofNat 8 (f.x / 16)) (boff f))
def fBr {α : Type} (f : Fields) (c : BOff → α) : Option α := when? (f.x == 0 && boffOk f) (c (boff f))
def fA {α : Type} (f : Fields) (c : Opnd → α) : Option α :=
  when? (!f.e && f.x == 0 && f.z == 0) (c (opndOfByte f.y))
/-- Format J (R47): an index. -/
def fIdx {α : Type} (n : Nat) (f : Fields) (c : Fin n → α) : Option α :=
  fin? n f.x fun i => when? (!f.e && f.y == 0 && f.z == 0) (c i)
def fIdx8 {α : Type} (f : Fields) (c : Fin 8 → α) : Option α := fIdx 8 f c
def fIdx16 {α : Type} (f : Fields) (c : Fin 16 → α) : Option α := fIdx 16 f c
def fIdxSrc {α : Type} (n : Nat) (f : Fields) (c : Fin n → Src → α) : Option α :=
  fin? n f.x fun i => when? (litA0 f && f.z == 0) (c i (srcA f))
def fIdxSrc8 {α : Type} (f : Fields) (c : Fin 8 → Src → α) : Option α := fIdxSrc 8 f c
def fIdxSrc16 {α : Type} (f : Fields) (c : Fin 16 → Src → α) : Option α := fIdxSrc 16 f c
/-- A barrier count (R77): byte 0x00 is one arrival, any other byte an s-register. -/
def fIdxCount {α : Type} (f : Fields) (c : Fin 16 → Count → α) : Option α :=
  fin? 16 f.x fun i =>
    if f.z ≠ 0 then none
    else if f.e then when? (f.y == 0) (c i (.lit f.lit))
    else if f.y = 0 then some (c i .one)
    else when? (decide (96 ≤ f.y) && decide (f.y < 128)) (c i (.reg (Fin.ofNat 32 f.y)))
def fIdxO {α : Type} (f : Fields) (c : Fin 16 → Opnd → α) : Option α :=
  fin? 16 f.x fun i => when? (!f.e && f.z == 0) (c i (opndOfByte f.y))
/-- Predicate logic (R45, R89). -/
def fPred {α : Type} (f : Fields) (c : Fin 8 → Fin 8 → PSrc → α) : Option α :=
  fin? 8 f.x fun d => fin? 8 f.y fun a =>
    if f.e then when? (f.z == 0) (c d a (.lit f.lit)) else fin? 8 f.z fun b => some (c d a (.p b))
def fPnot {α : Type} (f : Fields) (c : Fin 8 → Fin 8 → α) : Option α :=
  fin? 8 f.x fun d => fin? 8 f.y fun a => when? (!f.e && f.z == 0) (c d a)
def fPmov {α : Type} (f : Fields) (c : Fin 8 → PSrc → α) : Option α :=
  fin? 8 f.x fun d => if f.z ≠ 0 then none
    else if f.e then when? (f.y == 0) (c d (.lit f.lit)) else fin? 8 f.y fun a => some (c d (.p a))
/-- `FENCE` (R212). -/
def fFence {α : Type} (f : Fields) (c : BitVec 3 → BitVec 5 → BitVec 5 → α) : Option α :=
  when? (!f.e && decide (f.x < 8) && decide (f.y < 32) && decide (f.z < 32))
    (c (BitVec.ofNat 3 f.x) (BitVec.ofNat 5 f.y) (BitVec.ofNat 5 f.z))
def fD {α : Type} (f : Fields) (c : Opnd → α) : Option α :=
  when? (!f.e && f.y == 0 && f.z == 0) (c (opndOfByte f.x))
/-- A matrix-stream source in byte `v` (R49, R289). -/
def qsrc {α : Type} (f : Fields) (v : Nat) (c : QSrc → Option α) : Option α :=
  if f.e then (if v = 0 then c (.lit f.lit) else none) else fin? 16 v fun q => c (.q q)
def fMmovq {α : Type} (f : Fields) (c : Fin 16 → QSrc → α) : Option α :=
  fin? 16 f.x fun d => qsrc f f.y fun a => when? (f.z == 0) (c d a)
def fMaddq {α : Type} (f : Fields) (c : Fin 16 → Fin 16 → QSrc → α) : Option α :=
  fin? 16 f.x fun d => fin? 16 f.y fun a => qsrc f f.z fun b => some (c d a b)
def fMloop {α : Type} (f : Fields) (c : Fin 16 → BOff → α) : Option α :=
  fin? 16 f.x fun q => when? (boffOk f) (c q (boff f))
def fMtc {α : Type} (f : Fields) (c : Fin 12 → QSrc → α) : Option α :=
  fin? 12 f.x fun t => qsrc f f.y fun a => when? (f.z == 0) (c t a)
def pitch? {α : Type} (v : Nat) (c : Pitch → Option α) : Option α :=
  if v = 16 then c .packed else fin? 16 v fun q => c (.q q)
def fMload {α : Type} (f : Fields) (c : Fin 12 → QSrc → Pitch → α) : Option α :=
  fin? 12 f.x fun t => qsrc f f.y fun a => pitch? f.z fun p => some (c t a p)
def fMstore {α : Type} (f : Fields) (c : Fin 4 → QSrc → Pitch → α) : Option α :=
  fin? 4 f.x fun t => qsrc f f.y fun a => pitch? f.z fun p => some (c t a p)
def fMzero {α : Type} (f : Fields) (c : Fin 4 → α) : Option α := fIdx 4 f c
/-- `MMA`, `MMAS`, `MMANM` (R295): bit 7 of a tile byte marks its special form, bits [6:3] are 0. -/
def fMma {α : Type} (f : Fields) (c : Fin 4 → Bool → Fin 8 → Bool → Fin 8 → α) : Option α :=
  fin? 4 f.x fun n => fin? 8 (f.y % 128) fun x => fin? 8 (f.z % 128) fun y =>
    when? (!f.e) (c n (bit f.y 7) x (bit f.z 7) y)
def fMdecomp {α : Type} (f : Fields) (c : Fin 8 → Fin 8 → Fin 16 → α) : Option α :=
  fin? 8 f.x fun d => fin? 8 f.y fun s => fin? 16 f.z fun q => when? (!f.e) (c d s q)
def fMscale {α : Type} (f : Fields) (c : Fin 8 → QSrc → α) : Option α :=
  fin? 8 f.x fun n => qsrc f f.y fun a => when? (f.z == 0) (c n a)
def fQQ {α : Type} (f : Fields) (c : Fin 16 → Fin 16 → α) : Option α :=
  fin? 16 f.x fun d => fin? 16 f.y fun h => when? (!f.e && f.z == 0) (c d h)
def fMstamp {α : Type} (f : Fields) (c : Fin 4 → Fin 7 → α) : Option α :=
  fin? 4 f.x fun s => fin? 7 f.y fun v => when? (!f.e && f.z == 0) (c s v)
/-- A destination that byte 0x00 leaves out (`RENDEZ`, R248). -/
def fRendez {α : Type} (f : Fields) (c : Option Opnd → α) : Option α :=
  when? (!f.e && f.y == 0 && f.z == 0) (c (if f.x = 0 then none else some (opndOfByte f.x)))
/-- `STAMP` (R271): open, an event 0-5, retire. -/
def fStamp {α : Type} (f : Fields) (o : Opnd → α) (e : Fin 6 → Src → α) (r : Src → α) : Option α :=
  if f.z = 0 then fA f o
  else if f.z = 32 then fOneNoD f 32 r
  else if 16 ≤ f.z then fin? 6 (f.z - 16) fun k => fOneNoD f f.z (e k)
  else none
def fQstat {α : Type} (f : Fields) (c : Fin 5 → Opnd → Src → α) : Option α :=
  fin? 5 f.z fun i => when? (litA0 f) (c i (opndOfByte f.x) (srcA f))
def fTrstat {α : Type} (f : Fields) (c : Opnd → Src → α) : Option α :=
  when? (f.y == 0 && (!f.e || f.z == 0)) (c (opndOfByte f.x) (srcB f))
/-- `SRD`, `SWR` (R416): the selector is the last byte. -/
def fSrd {α : Type} (f : Fields) (c : Opnd → Byte → α) : Option α :=
  when? (!f.e && f.y == 0) (c (opndOfByte f.x) (BitVec.ofNat 8 f.z))
def fSwr {α : Type} (f : Fields) (c : Byte → Src → α) : Option α :=
  when? (f.x == 0 && litA0 f) (c (BitVec.ofNat 8 f.z) (srcA f))
def fTick {α : Type} (f : Fields) (now done : Opnd → α) : Option α :=
  if f.z = 0 then when? (!f.e && f.y == 0) (now (opndOfByte f.x))
  else if f.z = 1 then when? (!f.e && f.y == 0) (done (opndOfByte f.x)) else none
/-- A second operand that byte 0x00 leaves out (`TLBINV`, `ASIDSET`). -/
def fAOpt {α : Type} (f : Fields) (c : Opnd → Option Opnd → α) : Option α :=
  when? (!f.e && f.x == 0) (c (opndOfByte f.y) (if f.z = 0 then none else some (opndOfByte f.z)))

/-- What the decode checks of class 0 see of the same rows. -/
def aluInfos : List (Nat × (Fields → Option Info)) :=
  [(0x00, fun f => fNone f (⟨Shape.none, .no, false, true⟩ : Info)),
   (0x01, fun f => fOne f (fun d a => ⟨shOne d a, .no, false, true⟩)),
   (0x02, fun f => fTwo f (fun d a b => ⟨shTwo d a b, .no, false, true⟩)),
   (0x03, fun f => fTwo f (fun d a b => ⟨shTwo d a b, .no, false, true⟩)),
   (0x04, fun f => fTwo f (fun d a b => ⟨shTwo d a b, .no, false, true⟩)),
   (0x05, fun f => fTwo f (fun d a b => ⟨shTwo d a b, .no, false, true⟩)),
   (0x06, fun f => fTwo f (fun d a b => ⟨shTwo d a b, .no, false, true⟩)),
   (0x07, fun f => fTwo f (fun d a b => ⟨shTwo d a b, .no, false, true⟩)),
   (0x08, fun f => fTwo f (fun d a b => ⟨shTwo d a b, .no, false, true⟩)),
   (0x09, fun f => fTwo f (fun d a b => ⟨shTwo d a b, .no, false, true⟩)),
   (0x0A, fun f => fTwo f (fun d a b => ⟨shTwo d a b, .no, false, true⟩)),
   (0x0B, fun f => fTwo f (fun d a b => ⟨shAcc d a b, .no, false, true⟩)),
   (0x0C, fun f => fTwo f (fun d a b => ⟨shTwo d a b, .no, false, true⟩)),
   (0x0D, fun f => fTwo f (fun d a b => ⟨shTwo d a b, .no, false, true⟩)),
   (0x0E, fun f => fTwo f (fun d a b => ⟨shTwo d a b, .no, false, true⟩)),
   (0x0F, fun f => fTwo f (fun d a b => ⟨shTwo d a b, .no, false, true⟩)),
   (0x10, fun f => fOne f (fun d a => ⟨shOne d a, .no, false, true⟩)),
   (0x11, fun f => fOne f (fun d a => ⟨shOne d a, .no, false, true⟩)),
   (0x12, fun f => fTwo f (fun d a b => ⟨shTwo d a b, .no, false, true⟩)),
   (0x13, fun f => fTwo f (fun d a b => ⟨shTwo d a b, .no, false, true⟩)),
   (0x14, fun f => fTwo f (fun d a b => ⟨shTwo d a b, .no, false, true⟩)),
   (0x15, fun f => fTwo f (fun d a b => ⟨shTwo d a b, .no, false, true⟩)),
   (0x16, fun f => fTwo f (fun d a b => ⟨shTwo d a b, .no, false, true⟩)),
   (0x17, fun f => fTwo f (fun d a b => ⟨shTwo d a b, .no, false, true⟩))] ++
  [(0x18, fun f => fTwo f (fun d a b => ⟨shTwo d a b, .no, false, true⟩)),
   (0x19, fun f => fTwo f (fun d a b => ⟨shTwo d a b, .no, false, true⟩)),
   (0x1A, fun f => fOne f (fun d a => ⟨shOne d a, .no, false, true⟩)),
   (0x1B, fun f => fOne f (fun d a => ⟨shOne d a, .no, false, true⟩)),
   (0x1C, fun f => fOne f (fun d a => ⟨shOne d a, .no, false, true⟩)),
   (0x1D, fun f => fTwo f (fun d a b => ⟨shTwo d a b, .no, false, true⟩)),
   (0x1E, fun f => fTwo f (fun d a b => ⟨shTwo d a b, .no, false, true⟩)),
   (0x1F, fun f => fTwo f (fun d a b => ⟨shAcc d a b, .no, false, true⟩)),
   (0x20, fun f => fCmp f (fun _ a b => ⟨shCmp a b, .no, false, true⟩)),
   (0x21, fun f => fCmp f (fun _ a b => ⟨shCmp a b, .no, false, true⟩)),
   (0x22, fun f => fCmp f (fun _ a b => ⟨shCmp a b, .no, false, true⟩)),
   (0x23, fun f => fCmp f (fun _ a b => ⟨shCmp a b, .no, false, true⟩)),
   (0x24, fun f => fCmp f (fun _ a b => ⟨shCmp a b, .no, false, true⟩)),
   (0x25, fun f => fCmp f (fun _ a b => ⟨shCmp a b, .no, false, true⟩)),
   (0x28, fun f => fTwo f (fun d a b => ⟨shTwo d a b, .no, false, true⟩)),
   (0x29, fun f => fTwo f (fun d a b => ⟨shTwo d a b, .no, false, true⟩)),
   (0x2A, fun f => fTwo f (fun d a b => ⟨shTwo d a b, .no, false, true⟩)),
   (0x2B, fun f => fTwo f (fun d a b => ⟨shTwo d a b, .no, false, true⟩)),
   (0x2C, fun f => fTwo f (fun d a b => ⟨shTwo d a b, .no, false, true⟩)),
   (0x2D, fun f => fTwo f (fun d a b => ⟨shTwo d a b, .no, false, true⟩)),
   (0x2E, fun f => fTwo f (fun d a b => ⟨shTwo d a b, .no, false, true⟩)),
   (0x2F, fun f => fTwo f (fun d a b => ⟨shTwo d a b, .no, false, true⟩)),
   (0x30, fun f => fTwo f (fun d a b => ⟨shWWW d a b, .no, false, true⟩)),
   (0x31, fun f => fTwo f (fun d a b => ⟨shWWW d a b, .no, false, true⟩))] ++
  [(0x32, fun f => fTwo f (fun d a b => ⟨shWRR d a b, .no, false, true⟩)),
   (0x33, fun f => fTwo f (fun d a b => ⟨shWRR d a b, .no, false, true⟩)),
   (0x34, fun f => fTwo f (fun d a b => ⟨shWWR d a b, .no, false, true⟩)),
   (0x35, fun f => fTwo f (fun d a b => ⟨shWWR d a b, .no, false, true⟩)),
   (0x36, fun f => fTwo f (fun d a b => ⟨shWWR d a b, .no, false, true⟩)),
   (0x37, fun f => fTwo f (fun d a b => ⟨shWWR d a b, .no, false, true⟩)),
   (0x38, fun f => fTwo f (fun d a b => ⟨shWWR d a b, .no, false, true⟩)),
   (0x39, fun f => fTwo f (fun d a b => ⟨shTwo d a b, .no, false, true⟩)),
   (0x3A, fun f => fOne f (fun d a => ⟨shUnm d a, .no, false, true⟩)),
   (0x3B, fun f => fTwo f (fun d a b => ⟨shShfl d a b, .no, false, true⟩)),
   (0x3C, fun f => fTwo f (fun d a b => ⟨shShfl d a b, .no, false, true⟩)),
   (0x3D, fun f => fTwo f (fun d a b => ⟨shShfl d a b, .no, false, true⟩)),
   (0x3E, fun f => fTwo f (fun d a b => ⟨shShfl d a b, .no, false, true⟩)),
   (0x3F, fun f => fPair f (fun d a => ⟨shLane d a, .no, false, true⟩)),
   (0x40, fun f => fTwo f (fun d a b => ⟨shRdlane d a b, .no, false, true⟩)),
   (0x41, fun f => fScan f (fun _ d a => ⟨shLane d a, .no, false, true⟩)),
   (0x42, fun f => fPair f (fun d a => ⟨shLane d a, .no, false, true⟩)),
   (0x43, fun f => fPair f (fun d a => ⟨shLane d a, .no, false, true⟩)),
   (0x44, fun f => fPair f (fun d a => ⟨shLane d a, .no, false, true⟩)),
   (0x45, fun f => fPair f (fun d a => ⟨shLane d a, .no, false, true⟩)),
   (0x46, fun f => fOne f (fun d a => ⟨shOne d a, .no, false, true⟩)),
   (0x47, fun f => if f.z = 1 then fOneNoD f 1 (fun a => ⟨shS1 a, .no, false, true⟩) else fOneNoD f 0 (fun a => ⟨shS1 a, .no, false, true⟩)),
   (0x48, fun f => fTwo f (fun d a b => ⟨shTwo d a b, .no, false, true⟩)),
   (0x49, fun f => fTwo f (fun d a b => ⟨shTwo d a b, .no, false, true⟩))] ++
  [(0x4A, fun f => fTwo f (fun d a b => ⟨shTwo d a b, .no, false, true⟩)),
   (0x4B, fun f => fTwo f (fun d a b => ⟨shAcc d a b, .no, false, true⟩)),
   (0x4C, fun f => fTwo f (fun d a b => ⟨shTwo d a b, .no, false, true⟩)),
   (0x4D, fun f => fTwo f (fun d a b => ⟨shTwo d a b, .no, false, true⟩)),
   (0x4E, fun f => fCmp f (fun _ a b => ⟨shCmp a b, .no, false, true⟩)),
   (0x4F, fun f => fCmp f (fun _ a b => ⟨shCmp a b, .no, false, true⟩)),
   (0x50, fun f => fCmp f (fun _ a b => ⟨shCmp a b, .no, false, true⟩)),
   (0x51, fun f => fCmp f (fun _ a b => ⟨shCmp a b, .no, false, true⟩)),
   (0x52, fun f => fTwo f (fun d a b => ⟨shTwo d a b, .no, false, true⟩)),
   (0x53, fun f => fTwo f (fun d a b => ⟨shTwo d a b, .no, false, true⟩)),
   (0x54, fun f => fTwo f (fun d a b => ⟨shAcc d a b, .no, false, true⟩)),
   (0x55, fun f => fTwo f (fun d a b => ⟨shTwo d a b, .no, false, true⟩)),
   (0x56, fun f => fTwo f (fun d a b => ⟨shTwo d a b, .no, false, true⟩)),
   (0x57, fun f => fTwo f (fun d a b => ⟨shAcc d a b, .no, false, true⟩)),
   (0x58, fun f => fTwo f (fun d a b => ⟨shWWW d a b, .no, false, true⟩)),
   (0x59, fun f => fTwo f (fun d a b => ⟨shWWW d a b, .no, false, true⟩)),
   (0x5A, fun f => fTwo f (fun d a b => ⟨shWAcc d a b, .no, false, true⟩)),
   (0x5B, fun f => fCmp f (fun _ a b => ⟨shCmpW a b, .no, false, true⟩)),
   (0x5C, fun f => fCmp f (fun _ a b => ⟨shCmpW a b, .no, false, true⟩)),
   (0x5D, fun f => fOne f (fun d a => ⟨shOne d a, .a, false, true⟩)),
   (0x5E, fun f => fOne f (fun d a => ⟨shOne d a, .a, false, true⟩)),
   (0x5F, fun f => fOne f (fun d a => ⟨shOne d a, .a, false, true⟩)),
   (0x60, fun f => fOne f (fun d a => ⟨shOne d a, .a, false, true⟩)),
   (0x61, fun f => fOne f (fun d a => ⟨shOne d a, .a, false, true⟩))] ++
  [(0x62, fun f => fOne f (fun d a => ⟨shOne d a, .a, false, true⟩)),
   (0x63, fun f => fOne f (fun d a => ⟨shOne d a, .a, false, true⟩)),
   (0x64, fun f => fTwo f (fun d a b => ⟨shTwo d a b, .a, false, true⟩)),
   (0x65, fun f => fOne f (fun d a => ⟨shOne d a, .no, false, true⟩)),
   (0x66, fun f => fOne f (fun d a => ⟨shOne d a, .no, false, true⟩)),
   (0x67, fun f => fOne f (fun d a => ⟨shOne d a, .no, false, true⟩)),
   (0x68, fun f => fOne f (fun d a => ⟨shOne d a, .no, false, true⟩)),
   (0x69, fun f => fOne f (fun d a => ⟨shOne d a, .no, false, true⟩)),
   (0x6A, fun f => fTwo f (fun d a b => ⟨shAcc d a b, .no, false, true⟩)),
   (0x6B, fun f => fTwo f (fun d a b => ⟨shAcc d a b, .no, false, true⟩)),
   (0x6C, fun f => fOne f (fun d a => ⟨shOne d a, .no, false, true⟩)),
   (0x70, fun f => fCvt f (fun d a t s => ⟨shCvt d a t s, .no, false, true⟩)),
   (0x71, fun f => fCvt f (fun d a t s => ⟨shCvt d a t s, .no, false, true⟩)),
   (0x72, fun f => fCvt f (fun d a t s => ⟨shCvt d a t s, .no, false, true⟩)),
   (0x73, fun f => fPack f (fun d a t s => ⟨shPack d a t s, .no, false, true⟩)),
   (0x74, fun f => fCvt f (fun d a t s => ⟨shUnpack d a t s, .no, false, true⟩)),
   (0x75, fun f => fCblook f (fun _ d a => ⟨shOne d a, .no, false, true⟩)),
   (0x76, fun f => fCbset f (fun _ _ a => ⟨shS1 a, .no, false, true⟩)),
   (0x78, fun f => fOne f (fun d a => ⟨shOne d a, .no, false, true⟩)),
   (0x79, fun f => fOne f (fun d a => ⟨shOne d a, .no, false, true⟩)),
   (0x7A, fun f => fFlag f (fun desc d a b => ⟨shFlag desc d a b, .no, false, true⟩)),
   (0x7B, fun f => fPair f (fun d a => ⟨shLane d a, .no, false, true⟩)),
   (0x7C, fun f => fPair f (fun d a => ⟨shLane d a, .no, false, true⟩))]

/-- What the decode checks of class 1 see of the same rows. -/
def ctrlInfos : List (Nat × (Fields → Option Info)) :=
  [(0x00, fun f => fBra f (fun _ _ _ => ⟨Shape.none, .no, true, true⟩)),
   (0x01, fun f => fBr f (fun _ => ⟨Shape.none, .no, true, true⟩)),
   (0x02, fun f => fA f (fun a => ⟨shBrx a, .no, true, false⟩)),
   (0x03, fun f => fBr f (fun _ => ⟨Shape.none, .no, true, false⟩)),
   (0x04, fun f => fA f (fun a => ⟨shBrx a, .no, true, false⟩)),
   (0x05, fun f => fNone f (⟨Shape.none, .no, true, false⟩ : Info)),
   (0x06, fun f => fNone f (⟨Shape.none, .no, true, false⟩ : Info)),
   (0x07, fun f => fIdxSrc8 f (fun _ a => ⟨shS1 a, .no, false, false⟩)),
   (0x08, fun f => fIdx8 f (fun _ => ⟨Shape.none, .no, false, false⟩)),
   (0x09, fun f => fIdx8 f (fun _ => ⟨Shape.none, .no, true, false⟩)),
   (0x0A, fun f => fPred f (fun _ _ _ => ⟨Shape.none, .no, false, true⟩)),
   (0x0B, fun f => fPred f (fun _ _ _ => ⟨Shape.none, .no, false, true⟩)),
   (0x0C, fun f => fPred f (fun _ _ _ => ⟨Shape.none, .no, false, true⟩)),
   (0x0D, fun f => fPnot f (fun _ _ => ⟨Shape.none, .no, false, true⟩)),
   (0x0E, fun f => fPmov f (fun _ _ => ⟨Shape.none, .no, false, true⟩)),
   (0x0F, fun f => fNone f (⟨Shape.none, .no, true, false⟩ : Info)),
   (0x10, fun f => fOneNoD f 0 (fun a => ⟨shS1 a, .no, true, false⟩)),
   (0x11, fun f => fIdxSrc16 f (fun _ a => ⟨shS1 a, .no, false, false⟩)),
   (0x12, fun f => fIdxCount f (fun _ a => ⟨shCount a, .no, false, false⟩)),
   (0x13, fun f => fIdx16 f (fun _ => ⟨Shape.none, .no, false, false⟩)),
   (0x14, fun f => fIdxCount f (fun _ a => ⟨shCount a, .no, false, false⟩)),
   (0x15, fun f => fIdx16 f (fun _ => ⟨Shape.none, .no, false, false⟩)),
   (0x16, fun f => fIdxO f (fun _ a => ⟨shSDst a, .no, false, false⟩)),
   (0x17, fun f => fIdxO f (fun _ a => ⟨shSSrc a, .b, false, false⟩))] ++
  [(0x18, fun f => fOne f (fun d a => ⟨shSS d a, .no, false, false⟩)),
   (0x19, fun f => fNone f (⟨Shape.none, .no, false, false⟩ : Info)),
   (0x1A, fun f => fOne f (fun d a => ⟨shSS d a, .no, false, false⟩)),
   (0x1B, fun f => fOneNoD f 0 (fun a => ⟨shS1 a, .no, true, false⟩)),
   (0x1C, fun f => fNone f (⟨Shape.none, .no, false, false⟩ : Info)),
   (0x1D, fun f => fOneNoD f 0 (fun a => ⟨shS1 a, .no, false, false⟩))]

/-- What the decode checks of class 2 see of the same rows. -/
def memInfos : List (Nat × (Fields → Option Info)) :=
  [(0x00, fun f => fMem f (fun d a b => ⟨shLoad 1 true d a b, .a, false, true⟩)),
   (0x01, fun f => fMem f (fun d a b => ⟨shLoad 1 true d a b, .a, false, true⟩)),
   (0x02, fun f => fMem f (fun d a b => ⟨shLoad 1 true d a b, .a, false, true⟩)),
   (0x03, fun f => fMem f (fun d a b => ⟨shLoad 1 true d a b, .a, false, true⟩)),
   (0x04, fun f => fMem f (fun d a b => ⟨shLoad 1 true d a b, .a, false, true⟩)),
   (0x05, fun f => fMem f (fun d a b => ⟨shLoad 2 true d a b, .a, false, true⟩)),
   (0x06, fun f => fMem f (fun d a b => ⟨shLoad 4 true d a b, .a, false, true⟩)),
   (0x10, fun f => fMem f (fun d a b => ⟨shLoad 1 false d a b, .a, false, false⟩)),
   (0x11, fun f => fMem f (fun d a b => ⟨shLoad 1 false d a b, .a, false, false⟩)),
   (0x12, fun f => fMem f (fun d a b => ⟨shLoad 1 false d a b, .a, false, false⟩)),
   (0x13, fun f => fMem f (fun d a b => ⟨shLoad 1 false d a b, .a, false, false⟩)),
   (0x14, fun f => fMem f (fun d a b => ⟨shLoad 1 false d a b, .a, false, false⟩)),
   (0x15, fun f => fMem f (fun d a b => ⟨shLoad 2 false d a b, .a, false, false⟩)),
   (0x16, fun f => fMem f (fun d a b => ⟨shLoad 4 false d a b, .a, false, false⟩)),
   (0x20, fun f => fMem f (fun d a b => ⟨shLoad 1 false d a b, .a, false, false⟩)),
   (0x21, fun f => fMem f (fun d a b => ⟨shLoad 2 false d a b, .a, false, false⟩)),
   (0x22, fun f => fMem f (fun d a b => ⟨shLoad 4 false d a b, .a, false, false⟩)),
   (0x28, fun f => fMem f (fun d a b => ⟨shLoad 1 true d a b, .a, false, true⟩)),
   (0x29, fun f => fMem f (fun d a b => ⟨shLoad 2 true d a b, .a, false, true⟩)),
   (0x08, fun f => fMem f (fun d a b => ⟨shStore 1 true d a b, .b, false, true⟩)),
   (0x09, fun f => fMem f (fun d a b => ⟨shStore 1 true d a b, .b, false, true⟩)),
   (0x0A, fun f => fMem f (fun d a b => ⟨shStore 1 true d a b, .b, false, true⟩)),
   (0x0B, fun f => fMem f (fun d a b => ⟨shStore 2 true d a b, .b, false, true⟩)),
   (0x0C, fun f => fMem f (fun d a b => ⟨shStore 4 true d a b, .b, false, true⟩))] ++
  [(0x18, fun f => fMem f (fun d a b => ⟨shStore 1 false d a b, .b, false, false⟩)),
   (0x19, fun f => fMem f (fun d a b => ⟨shStore 1 false d a b, .b, false, false⟩)),
   (0x1A, fun f => fMem f (fun d a b => ⟨shStore 1 false d a b, .b, false, false⟩)),
   (0x1B, fun f => fMem f (fun d a b => ⟨shStore 2 false d a b, .b, false, false⟩)),
   (0x1C, fun f => fMem f (fun d a b => ⟨shStore 4 false d a b, .b, false, false⟩)),
   (0x24, fun f => fMem f (fun d a b => ⟨shStore 1 false d a b, .b, false, false⟩)),
   (0x25, fun f => fMem f (fun d a b => ⟨shStore 2 false d a b, .b, false, false⟩)),
   (0x26, fun f => fMem f (fun d a b => ⟨shStore 4 false d a b, .b, false, false⟩)),
   (0x2A, fun f => fThree f (fun d a b => ⟨shGather 1 d a b, .a, false, true⟩)),
   (0x2B, fun f => fThree f (fun d a b => ⟨shGather 2 d a b, .a, false, true⟩)),
   (0x2C, fun f => fThree f (fun d a b => ⟨shScatter 1 d a b, .b, false, true⟩)),
   (0x2D, fun f => fThree f (fun d a b => ⟨shScatter 2 d a b, .b, false, true⟩)),
   (0x30, fun f => fTwo f (fun d a b => ⟨shSmap d a b, .no, false, false⟩)),
   (0x31, fun f => fOneNoD f 0 (fun a => ⟨shS1 a, .b, false, false⟩)),
   (0x32, fun f => fOneNoD f 0 (fun a => ⟨shS1 a, .b, false, false⟩)),
   (0x33, fun f => fPref f (fun a b => ⟨shPref a b, .b, false, false⟩)),
   (0x34, fun f => fFence f (fun scope p u => ⟨shFence scope p u, .no, false, false⟩)),
   (0x38, fun f => fMem f (fun d a b => ⟨shAtom 1 1 true d a b, .a, false, false⟩)),
   (0x39, fun f => fMem f (fun d a b => ⟨shAtom 1 1 true d a b, .a, false, false⟩)),
   (0x3A, fun f => fMem f (fun d a b => ⟨shAtom 1 1 true d a b, .a, false, false⟩)),
   (0x3B, fun f => fMem f (fun d a b => ⟨shAtom 1 1 true d a b, .a, false, false⟩)),
   (0x3C, fun f => fMem f (fun d a b => ⟨shAtom 1 1 true d a b, .a, false, false⟩)),
   (0x3D, fun f => fMem f (fun d a b => ⟨shAtom 1 1 true d a b, .a, false, false⟩)),
   (0x3E, fun f => fMem f (fun d a b => ⟨shAtom 1 1 true d a b, .a, false, false⟩))] ++
  [(0x3F, fun f => fMem f (fun d a b => ⟨shAtom 1 1 true d a b, .a, false, false⟩)),
   (0x40, fun f => fMem f (fun d a b => ⟨shAtom 1 1 true d a b, .a, false, false⟩)),
   (0x41, fun f => fMem f (fun d a b => ⟨shAtom 1 1 true d a b, .a, false, false⟩)),
   (0x42, fun f => fMem f (fun d a b => ⟨shAtom 2 1 true d a b, .a, false, false⟩)),
   (0x43, fun f => fMem f (fun d a b => ⟨shAtom 1 1 true d a b, .a, false, false⟩)),
   (0x44, fun f => fMem f (fun d a b => ⟨shAtom 2 2 true d a b, .a, false, false⟩)),
   (0x45, fun f => fMem f (fun d a b => ⟨shAtom 2 2 true d a b, .a, false, false⟩)),
   (0x46, fun f => fMem f (fun d a b => ⟨shAtom 4 2 true d a b, .a, false, false⟩)),
   (0x48, fun f => fMem f (fun d a b => ⟨shAtom 1 0 true d a b, .b, false, false⟩)),
   (0x49, fun f => fMem f (fun d a b => ⟨shAtom 1 0 true d a b, .b, false, false⟩)),
   (0x4A, fun f => fMem f (fun d a b => ⟨shAtom 2 0 true d a b, .b, false, false⟩)),
   (0x4B, fun f => fMem f (fun d a b => ⟨shAtom 1 0 true d a b, .b, false, false⟩)),
   (0x4C, fun f => fMem f (fun d a b => ⟨shAtom 1 1 false d a b, .a, false, false⟩)),
   (0x4D, fun f => fMem f (fun d a b => ⟨shAtom 1 1 false d a b, .a, false, false⟩)),
   (0x4E, fun f => fMem f (fun d a b => ⟨shAtom 2 1 false d a b, .a, false, false⟩)),
   (0x4F, fun f => fThree f (fun d a b => ⟨shRhist d a b, .b, false, false⟩)),
   (0x50, fun f => fMem f (fun d a b => ⟨shStage d a b, .a, false, false⟩)),
   (0x54, fun f => fD f (fun d => ⟨shVDst d, .no, false, false⟩)),
   (0x55, fun f => fNone f (⟨Shape.none, .no, false, true⟩ : Info)),
   (0x56, fun f => fOneNoD f 0 (fun a => ⟨shS1 a, .no, false, true⟩)),
   (0x57, fun f => fD f (fun d => ⟨shVDst d, .a, false, true⟩))]

/-- What the decode checks of class 3 see of the same rows. -/
def mtxInfos : List (Nat × (Fields → Option Info)) :=
  [(0x00, fun f => fNone f (⟨Shape.none, .no, false, false⟩ : Info)),
   (0x01, fun f => fMmovq f (fun _ _ => ⟨Shape.none, .no, false, false⟩)),
   (0x02, fun f => fMaddq f (fun _ _ _ => ⟨Shape.none, .no, false, false⟩)),
   (0x03, fun f => fMloop f (fun _ _ => ⟨Shape.none, .no, true, false⟩)),
   (0x04, fun f => fMtc f (fun _ _ => ⟨Shape.none, .no, false, false⟩)),
   (0x05, fun f => fMload f (fun _ _ _ => ⟨Shape.none, .a, false, false⟩)),
   (0x06, fun f => fMstore f (fun _ _ _ => ⟨Shape.none, .b, false, false⟩)),
   (0x07, fun f => fMzero f (fun _ => ⟨Shape.none, .no, false, false⟩)),
   (0x08, fun f => fMma f (fun _ _ _ _ _ => ⟨Shape.none, .a, false, false⟩)),
   (0x09, fun f => fMma f (fun _ _ _ _ _ => ⟨Shape.none, .a, false, false⟩)),
   (0x0A, fun f => fMma f (fun _ _ _ _ _ => ⟨Shape.none, .a, false, false⟩)),
   (0x0B, fun f => fMdecomp f (fun _ _ _ => ⟨Shape.none, .a, false, false⟩)),
   (0x0C, fun f => fMscale f (fun _ _ => ⟨Shape.none, .a, false, false⟩)),
   (0x0D, fun f => fIdx16 f (fun _ => ⟨Shape.none, .no, false, false⟩)),
   (0x0E, fun f => fIdx16 f (fun _ => ⟨Shape.none, .no, false, false⟩)),
   (0x0F, fun f => fIdx16 f (fun _ => ⟨Shape.none, .no, false, false⟩)),
   (0x10, fun f => fQQ f (fun _ _ => ⟨Shape.none, .a, false, false⟩)),
   (0x11, fun f => fQQ f (fun _ _ => ⟨Shape.none, .no, false, false⟩)),
   (0x12, fun f => fMstamp f (fun _ _ => ⟨Shape.none, .no, false, false⟩)),
   (0x13, fun f => fNone f (⟨Shape.none, .no, true, false⟩ : Info))]

/-- What the decode checks of class 4 see of the same rows. -/
def asyncInfos : List (Nat × (Fields → Option Info)) :=
  [(0x00, fun f => fTwoNoD f (fun a b => ⟨shVote a b, .b, false, false⟩)),
   (0x01, fun f => fRendez f (fun d => ⟨shOptS d, .b, false, false⟩)),
   (0x02, fun f => fTwo f (fun d a b => ⟨shSSS d a b, .b, false, false⟩)),
   (0x03, fun f => fOne f (fun d a => ⟨shSS d a, .b, false, false⟩)),
   (0x04, fun f => fTwo f (fun d a b => ⟨shSmap d a b, .b, false, false⟩)),
   (0x05, fun f => fOne f (fun d a => ⟨shSS d a, .b, false, false⟩)),
   (0x06, fun f => fTwo f (fun d a b => ⟨shSSS d a b, .b, false, false⟩)),
   (0x07, fun f => fOne f (fun d a => ⟨shSS d a, .b, false, false⟩)),
   (0x08, fun f => fTwoNoD f (fun a b => ⟨shS2 a b, .b, false, false⟩)),
   (0x09, fun f => fOne f (fun d a => ⟨shSS d a, .b, false, false⟩)),
   (0x0A, fun f => fOne f (fun d a => ⟨shSS d a, .b, false, false⟩)),
   (0x0B, fun f => fOneNoD f 0 (fun a => ⟨shS1 a, .b, false, false⟩)),
   (0x0C, fun f => fTwoNoD f (fun a b => ⟨shVote a b, .b, false, false⟩)),
   (0x0D, fun f => fStamp f (fun a => ⟨shSQuad a, .b, false, false⟩) (fun _ a => ⟨shS1 a, .b, false, false⟩) (fun a => ⟨shS1 a, .b, false, false⟩)),
   (0x0E, fun f => fOne f (fun d a => ⟨shSS d a, .b, false, false⟩)),
   (0x0F, fun f => fOne f (fun d a => ⟨shSS d a, .b, false, false⟩)),
   (0x10, fun f => fOne f (fun d a => ⟨shSS d a, .b, false, false⟩))]

/-- What the decode checks of class 5 see of the same rows. -/
def taskInfos : List (Nat × (Fields → Option Info)) :=
  [(0x00, fun f => fFlag f (fun nb d a b => ⟨shSFlag nb d a b, .a, false, false⟩)),
   (0x01, fun f => fTwoNoD f (fun a b => ⟨shS2 a b, .b, false, false⟩)),
   (0x02, fun f => fTwo f (fun d a b => ⟨shSSS d a b, .a, false, false⟩)),
   (0x03, fun f => fTwoNoD f (fun a b => ⟨shS2 a b, .b, false, false⟩)),
   (0x04, fun f => fTwoNoD f (fun a b => ⟨shS2 a b, .b, false, false⟩)),
   (0x05, fun f => fOneNoD f 0 (fun a => ⟨shS1 a, .b, false, false⟩)),
   (0x06, fun f => fOneNoD f 0 (fun a => ⟨shS1 a, .b, false, false⟩)),
   (0x07, fun f => fFlag f (fun t d a b => ⟨shSFlag t d a b, .a, false, false⟩)),
   (0x08, fun f => fTwoNoD f (fun a b => ⟨shS2 a b, .no, false, false⟩)),
   (0x09, fun f => fD f (fun d => ⟨shSDst d, .no, false, false⟩)),
   (0x0A, fun f => fQstat f (fun _ d a => ⟨shSS d a, .a, false, false⟩))]

/-- What the decode checks of class 6 see of the same rows. -/
def gfxInfos : List (Nat × (Fields → Option Info)) :=
  [(0x00, fun f => fThree f (fun d a b => ⟨shVbld d a b, .a, false, false⟩)),
   (0x01, fun f => fPair f (fun d a => ⟨shVbdec d a, .a, false, false⟩)),
   (0x02, fun f => fTwo f (fun d a b => ⟨shSmap d a b, .a, false, false⟩)),
   (0x03, fun f => fOneNoD f 0 (fun a => ⟨shS1 a, .b, false, false⟩)),
   (0x04, fun f => fOne f (fun d a => ⟨shBinpop d a, .a, false, false⟩)),
   (0x05, fun f => fTwo f (fun d a b => ⟨shAttr d a b, .a, false, false⟩)),
   (0x06, fun f => fTwo f (fun d a b => ⟨shAttr d a b, .a, false, false⟩)),
   (0x07, fun f => fPair f (fun d a => ⟨shBary d a, .a, false, false⟩)),
   (0x08, fun f => fPair f (fun d a => ⟨shQuadsyn d a, .a, false, false⟩)),
   (0x09, fun f => fTwo f (fun d a b => ⟨shSmap d a b, .a, false, false⟩)),
   (0x0A, fun f => fPair f (fun d a => ⟨shMout d a, .b, false, false⟩)),
   (0x0B, fun f => fPair f (fun d a => ⟨shMout d a, .b, false, false⟩)),
   (0x18, fun f => fThree f (fun d a b => ⟨shTex 6 d a b, .a, false, false⟩)),
   (0x19, fun f => fThree f (fun d a b => ⟨shTex 4 d a b, .a, false, false⟩)),
   (0x1A, fun f => fThree f (fun d a b => ⟨shTexfetch d a b, .a, false, false⟩)),
   (0x1B, fun f => fThree f (fun d a b => ⟨shImgst d a b, .b, false, false⟩)),
   (0x10, fun f => fTwo f (fun d a b => ⟨shTrace d a b, .a, false, false⟩)),
   (0x11, fun f => fTwo f (fun d a b => ⟨shTrcont d a b, .a, false, false⟩)),
   (0x12, fun f => fTrstat f (fun d b => ⟨shTrstat d b, .a, false, false⟩)),
   (0x13, fun f => fThree f (fun d a b => ⟨shTrxform d a b, .a, false, false⟩)),
   (0x14, fun f => fTwo f (fun d a b => ⟨shBinhit d a b, .b, false, false⟩))]

/-- What the decode checks of class 7 see of the same rows. -/
def sysInfos : List (Nat × (Fields → Option Info)) :=
  [(0x00, fun f => fSrd f (fun d s => ⟨shSrd d s, .no, false, false⟩)),
   (0x01, fun f => fSwr f (fun s a => ⟨shSwr s a, .no, false, false⟩)),
   (0x02, fun f => fNone f (⟨Shape.none, .no, true, false⟩ : Info)),
   (0x03, fun f => fTick f (fun d => ⟨shTick d, .no, false, false⟩) (fun d => ⟨shTick d, .no, false, false⟩)),
   (0x04, fun f => fAOpt f (fun a b => ⟨shAOpt a b, .no, false, false⟩)),
   (0x05, fun f => fAOpt f (fun a b => ⟨shAOpt a b, .no, false, false⟩)),
   (0x06, fun f => fThree f (fun d a b => ⟨shCsave d a b, .no, false, false⟩)),
   (0x07, fun f => fPair f (fun d a => ⟨shCrestore d a, .no, false, false⟩)),
   (0x08, fun f => if f.z = 1 then fOneNoD f 1 (fun a => ⟨shS1 a, .no, false, false⟩) else fOneNoD f 0 (fun a => ⟨shS1 a, .no, false, false⟩)),
   (0x09, fun f => fA f (fun a => ⟨shWS a, .no, false, false⟩)),
   (0x0A, fun f => fNone f (⟨Shape.none, .no, false, false⟩ : Info))]

/-- The row of an opcode. -/
def findRow {α : Type} : List (Nat × (Fields → Option α)) → Nat → Option (Fields → Option α)
  | [], _ => none
  | (k, g) :: r, op => if k = op then some g else findRow r op

def classInfos (cls : Nat) : List (Nat × (Fields → Option Info)) :=
  match cls with
  | 0 => aluInfos | 1 => ctrlInfos | 2 => memInfos | 3 => mtxInfos
  | 4 => asyncInfos | 5 => taskInfos | 6 => gfxInfos | 7 => sysInfos
  | _ => []

/-- What the decode checks see of a word: nothing when it is `ILLEGAL` (R43). It is `Instr.info` of what the decoder
below answers. (The checks of a whole clause need only this; the decoder itself is marked noncomputable because Lean's
compiler has no representation for a constructor with fields beyond the 244th. The kernel evaluates both.) -/
def infoWord (cls : Nat) (w lit : Word) : Option Info :=
  match findRow (classInfos cls) (bits w.toNat 30 24) with
  | none => none
  | some g => match g (fieldsOf w lit) with
    | none => none
    | some i => if i.shape.ok then some i else none

noncomputable section

/-- Class 0: one row an assigned opcode (R68); an opcode without a row is unassigned (R69). -/
def aluRows : List (Nat × (Fields → Option Instr)) :=
  [(0x00, fun f => fNone f .nop),
   (0x01, fun f => fOne f .mov),
   (0x02, fun f => fTwo f .iadd),
   (0x03, fun f => fTwo f .iaddsI32),
   (0x04, fun f => fTwo f .iaddsN32),
   (0x05, fun f => fTwo f .isub),
   (0x06, fun f => fTwo f .isubsI32),
   (0x07, fun f => fTwo f .isubsN32),
   (0x08, fun f => fTwo f .imul),
   (0x09, fun f => fTwo f .imulhI32),
   (0x0A, fun f => fTwo f .imulhN32),
   (0x0B, fun f => fTwo f .imad),
   (0x0C, fun f => fTwo f .iminI32),
   (0x0D, fun f => fTwo f .iminN32),
   (0x0E, fun f => fTwo f .imaxI32),
   (0x0F, fun f => fTwo f .imaxN32),
   (0x10, fun f => fOne f .iabs),
   (0x11, fun f => fOne f .ineg),
   (0x12, fun f => fTwo f .and),
   (0x13, fun f => fTwo f .or),
   (0x14, fun f => fTwo f .xor),
   (0x15, fun f => fTwo f .andn),
   (0x16, fun f => fTwo f .shl),
   (0x17, fun f => fTwo f .shrn)] ++
  [(0x18, fun f => fTwo f .shra),
   (0x19, fun f => fTwo f .rotl),
   (0x1A, fun f => fOne f .popc),
   (0x1B, fun f => fOne f .clz),
   (0x1C, fun f => fOne f .brev),
   (0x1D, fun f => fTwo f .bfxN32),
   (0x1E, fun f => fTwo f .bfxI32),
   (0x1F, fun f => fTwo f .bfi),
   (0x20, fun f => fCmp f .icmpEq),
   (0x21, fun f => fCmp f .icmpNe),
   (0x22, fun f => fCmp f .icmpLtI32),
   (0x23, fun f => fCmp f .icmpLeI32),
   (0x24, fun f => fCmp f .icmpLtN32),
   (0x25, fun f => fCmp f .icmpLeN32),
   (0x28, fun f => fTwo f (.selP 0)),
   (0x29, fun f => fTwo f (.selP 1)),
   (0x2A, fun f => fTwo f (.selP 2)),
   (0x2B, fun f => fTwo f (.selP 3)),
   (0x2C, fun f => fTwo f (.selP 4)),
   (0x2D, fun f => fTwo f (.selP 5)),
   (0x2E, fun f => fTwo f (.selP 6)),
   (0x2F, fun f => fTwo f (.selP 7)),
   (0x30, fun f => fTwo f .iaddW),
   (0x31, fun f => fTwo f .isubW)] ++
  [(0x32, fun f => fTwo f .imulwN32),
   (0x33, fun f => fTwo f .imulwI32),
   (0x34, fun f => fTwo f .shlW),
   (0x35, fun f => fTwo f .shrnW),
   (0x36, fun f => fTwo f .lea),
   (0x37, fun f => fTwo f .leaX4),
   (0x38, fun f => fTwo f .leaX8),
   (0x39, fun f => fTwo f .morton),
   (0x3A, fun f => fOne f .unmorton),
   (0x3B, fun f => fTwo f .shflIdx),
   (0x3C, fun f => fTwo f .shflXor),
   (0x3D, fun f => fTwo f .shflUp),
   (0x3E, fun f => fTwo f .shflDown),
   (0x3F, fun f => fPair f .ballot),
   (0x40, fun f => fTwo f .rdlane),
   (0x41, fun f => fScan f .scanAdd),
   (0x42, fun f => fPair f .reduceAdd),
   (0x43, fun f => fPair f .reduceMinI32),
   (0x44, fun f => fPair f .reduceMaxI32),
   (0x45, fun f => fPair f .matchV),
   (0x46, fun f => fOne f .rng),
   (0x47, fun f => if f.z = 1 then fOneNoD f 1 .modesetRng else fOneNoD f 0 .modeset),
   (0x48, fun f => fTwo f .fadd),
   (0x49, fun f => fTwo f .fsub)] ++
  [(0x4A, fun f => fTwo f .fmul),
   (0x4B, fun f => fTwo f .ffma),
   (0x4C, fun f => fTwo f .fmin),
   (0x4D, fun f => fTwo f .fmax),
   (0x4E, fun f => fCmp f .fcmpEq),
   (0x4F, fun f => fCmp f .fcmpLt),
   (0x50, fun f => fCmp f .fcmpLe),
   (0x51, fun f => fCmp f .fcmpUn),
   (0x52, fun f => fTwo f .hadd2F16),
   (0x53, fun f => fTwo f .hmul2F16),
   (0x54, fun f => fTwo f .hfma2F16),
   (0x55, fun f => fTwo f .hadd2Bf16),
   (0x56, fun f => fTwo f .hmul2Bf16),
   (0x57, fun f => fTwo f .hfma2Bf16),
   (0x58, fun f => fTwo f .dadd),
   (0x59, fun f => fTwo f .dmul),
   (0x5A, fun f => fTwo f .dfma),
   (0x5B, fun f => fCmp f .dcmpLt),
   (0x5C, fun f => fCmp f .dcmpEq),
   (0x5D, fun f => fOne f .frcp),
   (0x5E, fun f => fOne f .frsq),
   (0x5F, fun f => fOne f .fsqrt),
   (0x60, fun f => fOne f .fexp2),
   (0x61, fun f => fOne f .flog2)] ++
  [(0x62, fun f => fOne f .fsin),
   (0x63, fun f => fOne f .fcos),
   (0x64, fun f => fTwo f .fdiv),
   (0x65, fun f => fOne f .ffract),
   (0x66, fun f => fOne f .frndRn),
   (0x67, fun f => fOne f .frndRz),
   (0x68, fun f => fOne f .frndRd),
   (0x69, fun f => fOne f .frndRu),
   (0x6A, fun f => fTwo f .fdot2Bf16),
   (0x6B, fun f => fTwo f .idot4I8),
   (0x6C, fun f => fOne f .fsat),
   (0x70, fun f => fCvt f .cvt),
   (0x71, fun f => fCvt f .cvtSat),
   (0x72, fun f => fCvt f .cvtSr),
   (0x73, fun f => fPack f .pack),
   (0x74, fun f => fCvt f .unpack),
   (0x75, fun f => fCblook f .cblook),
   (0x76, fun f => fCbset f .cbset),
   (0x78, fun f => fOne f .rkeyF32),
   (0x79, fun f => fOne f .rkeyBf16),
   (0x7A, fun f => fFlag f .rdig),
   (0x7B, fun f => fPair f .argmax),
   (0x7C, fun f => fPair f .rank)]

/-- Class 1: one row an assigned opcode (R68); an opcode without a row is unassigned (R69). -/
def ctrlRows : List (Nat × (Fields → Option Instr)) :=
  [(0x00, fun f => fBra f .bra),
   (0x01, fun f => fBr f .bru),
   (0x02, fun f => fA f .brx),
   (0x03, fun f => fBr f .call),
   (0x04, fun f => fA f .callx),
   (0x05, fun f => fNone f .ret),
   (0x06, fun f => fNone f .exit),
   (0x07, fun f => fIdxSrc8 f .jset),
   (0x08, fun f => fIdx8 f .arrive),
   (0x09, fun f => fIdx8 f .waitj),
   (0x0A, fun f => fPred f .pand),
   (0x0B, fun f => fPred f .por),
   (0x0C, fun f => fPred f .pxor),
   (0x0D, fun f => fPnot f .pnot),
   (0x0E, fun f => fPmov f .pmov),
   (0x0F, fun f => fNone f .yield),
   (0x10, fun f => fOneNoD f 0 .sleep),
   (0x11, fun f => fIdxSrc16 f .binit),
   (0x12, fun f => fIdxCount f .barrive),
   (0x13, fun f => fIdx16 f .bwait),
   (0x14, fun f => fIdxCount f .bsync),
   (0x15, fun f => fIdx16 f .binval),
   (0x16, fun f => fIdxO f .btest),
   (0x17, fun f => fIdxO f .barrivePeer)] ++
  [(0x18, fun f => fOne f .hitch),
   (0x19, fun f => fNone f .unhitch),
   (0x1A, fun f => fOne f .hmap),
   (0x1B, fun f => fOneNoD f 0 .trap),
   (0x1C, fun f => fNone f .bkpt),
   (0x1D, fun f => fOneNoD f 0 .tmark)]

/-- Class 2: one row an assigned opcode (R68); an opcode without a row is unassigned (R69). -/
def memRows : List (Nat × (Fields → Option Instr)) :=
  [(0x00, fun f => fMem f .ldgN8),
   (0x01, fun f => fMem f .ldgI8),
   (0x02, fun f => fMem f .ldgN16),
   (0x03, fun f => fMem f .ldgI16),
   (0x04, fun f => fMem f .ldgB32),
   (0x05, fun f => fMem f .ldgB64),
   (0x06, fun f => fMem f .ldgB128),
   (0x10, fun f => fMem f .ldsN8),
   (0x11, fun f => fMem f .ldsI8),
   (0x12, fun f => fMem f .ldsN16),
   (0x13, fun f => fMem f .ldsI16),
   (0x14, fun f => fMem f .ldsB32),
   (0x15, fun f => fMem f .ldsB64),
   (0x16, fun f => fMem f .ldsB128),
   (0x20, fun f => fMem f .ldlB32),
   (0x21, fun f => fMem f .ldlB64),
   (0x22, fun f => fMem f .ldlB128),
   (0x28, fun f => fMem f .ldgcB32),
   (0x29, fun f => fMem f .ldgcB64),
   (0x08, fun f => fMem f .stgB8),
   (0x09, fun f => fMem f .stgB16),
   (0x0A, fun f => fMem f .stgB32),
   (0x0B, fun f => fMem f .stgB64),
   (0x0C, fun f => fMem f .stgB128)] ++
  [(0x18, fun f => fMem f .stsB8),
   (0x19, fun f => fMem f .stsB16),
   (0x1A, fun f => fMem f .stsB32),
   (0x1B, fun f => fMem f .stsB64),
   (0x1C, fun f => fMem f .stsB128),
   (0x24, fun f => fMem f .stlB32),
   (0x25, fun f => fMem f .stlB64),
   (0x26, fun f => fMem f .stlB128),
   (0x2A, fun f => fThree f .gatherB32),
   (0x2B, fun f => fThree f .gatherB64),
   (0x2C, fun f => fThree f .scatterB32),
   (0x2D, fun f => fThree f .scatterB64),
   (0x30, fun f => fTwo f .smap),
   (0x31, fun f => fOneNoD f 0 .sunmap),
   (0x32, fun f => fOneNoD f 0 .sflush),
   (0x33, fun f => fPref f .pref),
   (0x34, fun f => fFence f .fence),
   (0x38, fun f => fMem f .atomAddI32),
   (0x39, fun f => fMem f .atomAddF32),
   (0x3A, fun f => fMem f .atomMinI32),
   (0x3B, fun f => fMem f .atomMinN32),
   (0x3C, fun f => fMem f .atomMaxI32),
   (0x3D, fun f => fMem f .atomMaxN32),
   (0x3E, fun f => fMem f .atomAnd)] ++
  [(0x3F, fun f => fMem f .atomOr),
   (0x40, fun f => fMem f .atomXor),
   (0x41, fun f => fMem f .atomXchg),
   (0x42, fun f => fMem f .atomCas),
   (0x43, fun f => fMem f .atomInc),
   (0x44, fun f => fMem f .atomAddW),
   (0x45, fun f => fMem f .atomMinW),
   (0x46, fun f => fMem f .atomCasW),
   (0x48, fun f => fMem f .redAddI32),
   (0x49, fun f => fMem f .redAddF32),
   (0x4A, fun f => fMem f .redMinW),
   (0x4B, fun f => fMem f .redMaxN32),
   (0x4C, fun f => fMem f .satomAdd),
   (0x4D, fun f => fMem f .satomMinN32),
   (0x4E, fun f => fMem f .satomCas),
   (0x4F, fun f => fThree f .rhist),
   (0x50, fun f => fMem f .stage),
   (0x54, fun f => fD f .txbegin),
   (0x55, fun f => fNone f .txend),
   (0x56, fun f => fOneNoD f 0 .txabort),
   (0x57, fun f => fD f .txstat)]

/-- Class 3: one row an assigned opcode (R68); an opcode without a row is unassigned (R69). -/
def mtxRows : List (Nat × (Fields → Option Instr)) :=
  [(0x00, fun f => fNone f .mnop),
   (0x01, fun f => fMmovq f .mmovq),
   (0x02, fun f => fMaddq f .maddq),
   (0x03, fun f => fMloop f .mloop),
   (0x04, fun f => fMtc f .mtc),
   (0x05, fun f => fMload f .mload),
   (0x06, fun f => fMstore f .mstore),
   (0x07, fun f => fMzero f .mzero),
   (0x08, fun f => fMma f .mma),
   (0x09, fun f => fMma f .mmas),
   (0x0A, fun f => fMma f .mmanm),
   (0x0B, fun f => fMdecomp f .mdecomp),
   (0x0C, fun f => fMscale f .mscale),
   (0x0D, fun f => fIdx16 f .mfmt),
   (0x0E, fun f => fIdx16 f .mwait),
   (0x0F, fun f => fIdx16 f .msignal),
   (0x10, fun f => fQQ f .mawait),
   (0x11, fun f => fQQ f .mrelease),
   (0x12, fun f => fMstamp f .mstamp),
   (0x13, fun f => fNone f .mend)]

/-- Class 4: one row an assigned opcode (R68); an opcode without a row is unassigned (R69). -/
def asyncRows : List (Nat × (Fields → Option Instr)) :=
  [(0x00, fun f => fTwoNoD f .fork),
   (0x01, fun f => fRendez f .rendez),
   (0x02, fun f => fTwo f .copy),
   (0x03, fun f => fOne f .copyr),
   (0x04, fun f => fTwo f .layout),
   (0x05, fun f => fOne f .stream),
   (0x06, fun f => fTwo f .rinit),
   (0x07, fun f => fOne f .rawait),
   (0x08, fun f => fTwoNoD f .rrelease),
   (0x09, fun f => fOne f .rstat),
   (0x0A, fun f => fOne f .jobcard),
   (0x0B, fun f => fOneNoD f 0 .jwait),
   (0x0C, fun f => fTwoNoD f .fmtpost),
   (0x0D, fun f => fStamp f .stampOpen .stampEv .stampRetire),
   (0x0E, fun f => fOne f .pklq),
   (0x0F, fun f => fOne f .pklg),
   (0x10, fun f => fOne f .seljob)]

/-- Class 5: one row an assigned opcode (R68); an opcode without a row is unassigned (R69). -/
def taskRows : List (Nat × (Fields → Option Instr)) :=
  [(0x00, fun f => fFlag f .qpop),
   (0x01, fun f => fTwoNoD f .qpush),
   (0x02, fun f => fTwo f .qreserve),
   (0x03, fun f => fTwoNoD f .qcommit),
   (0x04, fun f => fTwoNoD f .qcancel),
   (0x05, fun f => fOneNoD f 0 .succ),
   (0x06, fun f => fOneNoD f 0 .doneQ),
   (0x07, fun f => fFlag f .rinvoke),
   (0x08, fun f => fTwoNoD f .deadline),
   (0x09, fun f => fD f .drainchk),
   (0x0A, fun f => fQstat f .qstat)]

/-- Class 6: one row an assigned opcode (R68); an opcode without a row is unassigned (R69). -/
def gfxRows : List (Nat × (Fields → Option Instr)) :=
  [(0x00, fun f => fThree f .vbld),
   (0x01, fun f => fPair f .vbdec),
   (0x02, fun f => fTwo f .tileacq),
   (0x03, fun f => fOneNoD f 0 .tilerel),
   (0x04, fun f => fOne f .binpop),
   (0x05, fun f => fTwo f .attr),
   (0x06, fun f => fTwo f .attrd),
   (0x07, fun f => fPair f .bary),
   (0x08, fun f => fPair f .quadsyn),
   (0x09, fun f => fTwo f .mdecl),
   (0x0A, fun f => fPair f .moutv),
   (0x0B, fun f => fPair f .moutp),
   (0x18, fun f => fThree f .tex),
   (0x19, fun f => fThree f .texlod),
   (0x1A, fun f => fThree f .texfetch),
   (0x1B, fun f => fThree f .imgst),
   (0x10, fun f => fTwo f .trace),
   (0x11, fun f => fTwo f .trcont),
   (0x12, fun f => fTrstat f .trstat),
   (0x13, fun f => fThree f .trxform),
   (0x14, fun f => fTwo f .binhit)]

/-- Class 7: one row an assigned opcode (R68); an opcode without a row is unassigned (R69). -/
def sysRows : List (Nat × (Fields → Option Instr)) :=
  [(0x00, fun f => fSrd f .srd),
   (0x01, fun f => fSwr f .swr),
   (0x02, fun f => fNone f .tret),
   (0x03, fun f => fTick f .tick .tickC),
   (0x04, fun f => fAOpt f .tlbinv),
   (0x05, fun f => fAOpt f .asidset),
   (0x06, fun f => fThree f .csave),
   (0x07, fun f => fPair f .crestore),
   (0x08, fun f => if f.z = 1 then fOneNoD f 1 .eventPost else fOneNoD f 0 .eventWake),
   (0x09, fun f => fA f .dbgstop),
   (0x0A, fun f => fNone f .halt)]

/-- The rows of a class (R68). -/
def classRows (cls : Nat) : List (Nat × (Fields → Option Instr)) :=
  match cls with
  | 0 => aluRows | 1 => ctrlRows | 2 => memRows | 3 => mtxRows
  | 4 => asyncRows | 5 => taskRows | 6 => gfxRows | 7 => sysRows
  | _ => []

/-- The instruction a word of class `cls` is, or why it is `ILLEGAL` (R43). -/
def decodeWord (cls : Nat) (w lit : Word) : Decoded :=
  match findRow (classRows cls) (bits w.toNat 30 24) with
  | none => .illegal .unassigned
  | some g => match g (fieldsOf w lit) with
    | none => .illegal .fields
    | some i => if i.WellFormed then .instr i else .illegal .operands

/-- A word from its fields (R44). -/
def word (e : Bool) (op x y z : Nat) : Word :=
  BitVec.ofNat 32 (((((if e then 128 else 0) + op) * 256 + x) * 256 + y) * 256 + z)

def encNone (op : Nat) : List Word := [word false op 0 0 0]
def encTwo (op : Nat) (d a : Opnd) (b : Src) (m : Nat) : List Word :=
  match b with
  | .reg r => [word false op (byteOfOpnd d) (byteOfOpnd a) (byteOfOpnd r)]
  | .lit w => [word true op (byteOfOpnd d) (byteOfOpnd a) m, w]
/-- Bytes `x`, `z` around a source in byte 1 that a literal may replace. -/
def encSrcA (op x : Nat) (a : Src) (z : Nat) : List Word :=
  match a with
  | .reg r => [word false op x (byteOfOpnd r) z]
  | .lit w => [word true op x 0 z, w]
def encOne (op : Nat) (d : Opnd) (a : Src) (m : Nat) : List Word := encSrcA op (byteOfOpnd d) a m
def encCmp (op : Nat) (p : Fin 8) (a : Opnd) (b : Src) : List Word :=
  match b with
  | .reg r => [word false op p.val (byteOfOpnd a) (byteOfOpnd r)]
  | .lit w => [word true op p.val (byteOfOpnd a) 0, w]
def encPlain (op : Nat) (d a : Opnd) (m : Nat) : List Word := [word false op (byteOfOpnd d) (byteOfOpnd a) m]
def encPlain3 (op : Nat) (d a b : Opnd) : List Word :=
  [word false op (byteOfOpnd d) (byteOfOpnd a) (byteOfOpnd b)]
def encTwoNoD (op : Nat) (a : Opnd) (b : Src) : List Word :=
  match b with
  | .reg r => [word false op 0 (byteOfOpnd a) (byteOfOpnd r)]
  | .lit w => [word true op 0 (byteOfOpnd a) 0, w]
def encOneNoD (op : Nat) (a : Src) (m : Nat) : List Word := encSrcA op 0 a m
def encMem (op : Nat) (d a : Opnd) (b : MOff) : List Word :=
  match b with
  | .reg r => [word false op (byteOfOpnd d) (byteOfOpnd a) (byteOfOpnd r)]
  | .lit w m => [word true op (byteOfOpnd d) (byteOfOpnd a) m.toNat, w]
def encPref (a : Opnd) (b : MOff) : List Word :=
  match b with
  | .reg r => [word false 0x33 0 (byteOfOpnd a) (byteOfOpnd r)]
  | .lit w m => [word true 0x33 0 (byteOfOpnd a) m.toNat, w]
def encBranch (op x : Nat) (o : BOff) : List Word :=
  match o with
  | .near v => [word false op x (v.toNat / 256) (v.toNat % 256)]
  | .far w => [word true op x 0 0, w]
def encA (op : Nat) (a : Opnd) : List Word := [word false op 0 (byteOfOpnd a) 0]
def encIdx (op i : Nat) : List Word := [word false op i 0 0]
def encIdxSrc (op i : Nat) (a : Src) : List Word := encSrcA op i a 0
def encIdxCount (op i : Nat) (c : Count) : List Word :=
  match c with
  | .one => [word false op i 0 0]
  | .reg r => [word false op i (96 + r.val) 0]
  | .lit w => [word true op i 0 0, w]
def encIdxO (op i : Nat) (a : Opnd) : List Word := [word false op i (byteOfOpnd a) 0]
def encPred (op : Nat) (d a : Fin 8) (b : PSrc) : List Word :=
  match b with
  | .p r => [word false op d.val a.val r.val]
  | .lit w => [word true op d.val a.val 0, w]
def encPnot (d a : Fin 8) : List Word := [word false 0x0D d.val a.val 0]
def encPmov (d : Fin 8) (a : PSrc) : List Word :=
  match a with
  | .p r => [word false 0x0E d.val r.val 0]
  | .lit w => [word true 0x0E d.val 0 0, w]
def encFence (scope : BitVec 3) (p u : BitVec 5) : List Word := [word false 0x34 scope.toNat p.toNat u.toNat]
def encD (op : Nat) (d : Opnd) : List Word := [word false op (byteOfOpnd d) 0 0]
def encQ1 (op x : Nat) (a : QSrc) (z : Nat) : List Word :=
  match a with
  | .q r => [word false op x r.val z]
  | .lit w => [word true op x 0 z, w]
def encMaddq (d a : Fin 16) (b : QSrc) : List Word :=
  match b with
  | .q r => [word false 0x02 d.val a.val r.val]
  | .lit w => [word true 0x02 d.val a.val 0, w]
def encMma (op : Nat) (n : Fin 4) (rx : Bool) (x : Fin 8) (ry : Bool) (y : Fin 8) : List Word :=
  [word false op n.val ((if rx then 128 else 0) + x.val) ((if ry then 128 else 0) + y.val)]
def encBytes (op x y z : Nat) : List Word := [word false op x y z]

/-- The words of an instruction (R44-R50): one, or two with a literal. A step of the device has none. -/
def encode (i : Instr) : List Word :=
  match i with
  | .clauseIssue _ => []
  | .delayedTrapDelivery _ _ => []
  | .longLatencyComplete _ _ => []
  | .barrierOpApply _ => []
  | .barrierCompletion _ _ => []
  | .sleepExpire _ _ => []
  | .blockRetire _ => []
  | .ostlerPick _ _ => []
  | .traversalBatchComplete _ => []
  | .launchTake _ _ => []
  | .candidatePinned _ _ => []
  | .candidateOverdue _ _ => []
  | .drainFirstHoldEnd _ _ => []
  | .translationComplete _ _ _ => []
  | .faultEntryPost _ => []
  | .blockSave _ => []
  | .blockRestore _ => []
  | .forcedSave _ => []
  | .provisionalCommit _ _ _ => []
  | .homeLoad _ _ => []
  | .homeStore _ _ _ => []
  | .homeAtomic _ _ _ => []
  | .ptsTick => []
  | .collectorSend _ _ => []
  | .collectorLineReturn _ _ => []
  | .atomicResend _ _ => []
  | .replyCacheRelease _ _ => []
  | .eccUncorrectable _ _ _ _ => []
  | .txTimeout _ _ _ => []
  | .jobComplete _ => []
  | .streamJobStart _ => []
  | .streamTile _ => []
  | .nearMemoryJobStart _ _ => []
  | .fabricRequestReceive _ => []
  | .rinvokeReceive _ => []
  | .rinvokeRetry _ _ _ => []
  | .flitReceive _ _ => []
  | .portDown _ => []
  | .linkRestored _ => []
  | .timeSync _ => []
  | .binBatch _ => []
  | .tileResolveStart _ _ _ => []
  | .tileResolved _ _ _ => []
  | .classifyTile _ _ _ => []
  | .vboutWriteDone _ _ _ => []
  | .scanOut _ => []
  | .planeRead _ => []
  | .displayEnable _ _ => []
  | .hostWindowRead _ _ _ => []
  | .hostWindowWrite _ _ _ => []
  | .registerWrite _ _ => []
  | .tailWrite _ _ _ => []
  | .ctlEnable _ => []
  | .ctlDrain _ => []
  | .ctlDrainEnd _ => []
  | .qreserveTimeout _ _ _ => []
  | .waybillReadyCopy _ => []
  | .pfpop _ => []
  | .pfdoneResolved _ _ => []
  | .pfdoneDeclined _ _ => []
  | .mcpop _ => []
  | .evqPop _ => []
  | .haltRequest _ _ => []
  | .haltResume _ _ => []
  | .suiteMapRequest => []
  | .attestationRequest => []
  | .rootMailboxReply => []
  | .functionLevelReset => []
  | .hotReset => []
  | .coldReset => []
  | .thermalShutdown => []
  | .clockStop => []
  | .clockRelease _ => []
  | .nop => encNone 0x00
  | .mov d a => encOne 0x01 d a 0
  | .iadd d a b => encTwo 0x02 d a b 0
  | .iaddsI32 d a b => encTwo 0x03 d a b 0
  | .iaddsN32 d a b => encTwo 0x04 d a b 0
  | .isub d a b => encTwo 0x05 d a b 0
  | .isubsI32 d a b => encTwo 0x06 d a b 0
  | .isubsN32 d a b => encTwo 0x07 d a b 0
  | .imul d a b => encTwo 0x08 d a b 0
  | .imulhI32 d a b => encTwo 0x09 d a b 0
  | .imulhN32 d a b => encTwo 0x0A d a b 0
  | .imad d a b => encTwo 0x0B d a b 0
  | .iminI32 d a b => encTwo 0x0C d a b 0
  | .iminN32 d a b => encTwo 0x0D d a b 0
  | .imaxI32 d a b => encTwo 0x0E d a b 0
  | .imaxN32 d a b => encTwo 0x0F d a b 0
  | .iabs d a => encOne 0x10 d a 0
  | .ineg d a => encOne 0x11 d a 0
  | .and d a b => encTwo 0x12 d a b 0
  | .or d a b => encTwo 0x13 d a b 0
  | .xor d a b => encTwo 0x14 d a b 0
  | .andn d a b => encTwo 0x15 d a b 0
  | .shl d a b => encTwo 0x16 d a b 0
  | .shrn d a b => encTwo 0x17 d a b 0
  | .shra d a b => encTwo 0x18 d a b 0
  | .rotl d a b => encTwo 0x19 d a b 0
  | .popc d a => encOne 0x1A d a 0
  | .clz d a => encOne 0x1B d a 0
  | .brev d a => encOne 0x1C d a 0
  | .bfxN32 d a b => encTwo 0x1D d a b 0
  | .bfxI32 d a b => encTwo 0x1E d a b 0
  | .bfi d a b => encTwo 0x1F d a b 0
  | .icmpEq p a b => encCmp 0x20 p a b
  | .icmpNe p a b => encCmp 0x21 p a b
  | .icmpLtI32 p a b => encCmp 0x22 p a b
  | .icmpLeI32 p a b => encCmp 0x23 p a b
  | .icmpLtN32 p a b => encCmp 0x24 p a b
  | .icmpLeN32 p a b => encCmp 0x25 p a b
  | .selP n d a b => encTwo (0x28 + n.val) d a b 0
  | .iaddW d a b => encTwo 0x30 d a b 0
  | .isubW d a b => encTwo 0x31 d a b 0
  | .imulwN32 d a b => encTwo 0x32 d a b 0
  | .imulwI32 d a b => encTwo 0x33 d a b 0
  | .shlW d a b => encTwo 0x34 d a b 0
  | .shrnW d a b => encTwo 0x35 d a b 0
  | .lea d a b => encTwo 0x36 d a b 0
  | .leaX4 d a b => encTwo 0x37 d a b 0
  | .leaX8 d a b => encTwo 0x38 d a b 0
  | .morton d a b => encTwo 0x39 d a b 0
  | .unmorton d a => encOne 0x3A d a 0
  | .shflIdx d a b => encTwo 0x3B d a b 0
  | .shflXor d a b => encTwo 0x3C d a b 0
  | .shflUp d a b => encTwo 0x3D d a b 0
  | .shflDown d a b => encTwo 0x3E d a b 0
  | .ballot d a => encPlain 0x3F d a 0
  | .rdlane d a b => encTwo 0x40 d a b 0
  | .scanAdd ex d a => encPlain 0x41 d a (if ex then 1 else 0)
  | .reduceAdd d a => encPlain 0x42 d a 0
  | .reduceMinI32 d a => encPlain 0x43 d a 0
  | .reduceMaxI32 d a => encPlain 0x44 d a 0
  | .matchV d a => encPlain 0x45 d a 0
  | .rng d a => encOne 0x46 d a 0
  | .modeset a => encOneNoD 0x47 a 0
  | .modesetRng a => encOneNoD 0x47 a 1
  | .fadd d a b => encTwo 0x48 d a b 0
  | .fsub d a b => encTwo 0x49 d a b 0
  | .fmul d a b => encTwo 0x4A d a b 0
  | .ffma d a b => encTwo 0x4B d a b 0
  | .fmin d a b => encTwo 0x4C d a b 0
  | .fmax d a b => encTwo 0x4D d a b 0
  | .fcmpEq p a b => encCmp 0x4E p a b
  | .fcmpLt p a b => encCmp 0x4F p a b
  | .fcmpLe p a b => encCmp 0x50 p a b
  | .fcmpUn p a b => encCmp 0x51 p a b
  | .hadd2F16 d a b => encTwo 0x52 d a b 0
  | .hmul2F16 d a b => encTwo 0x53 d a b 0
  | .hfma2F16 d a b => encTwo 0x54 d a b 0
  | .hadd2Bf16 d a b => encTwo 0x55 d a b 0
  | .hmul2Bf16 d a b => encTwo 0x56 d a b 0
  | .hfma2Bf16 d a b => encTwo 0x57 d a b 0
  | .dadd d a b => encTwo 0x58 d a b 0
  | .dmul d a b => encTwo 0x59 d a b 0
  | .dfma d a b => encTwo 0x5A d a b 0
  | .dcmpLt p a b => encCmp 0x5B p a b
  | .dcmpEq p a b => encCmp 0x5C p a b
  | .frcp d a => encOne 0x5D d a 0
  | .frsq d a => encOne 0x5E d a 0
  | .fsqrt d a => encOne 0x5F d a 0
  | .fexp2 d a => encOne 0x60 d a 0
  | .flog2 d a => encOne 0x61 d a 0
  | .fsin d a => encOne 0x62 d a 0
  | .fcos d a => encOne 0x63 d a 0
  | .fdiv d a b => encTwo 0x64 d a b 0
  | .ffract d a => encOne 0x65 d a 0
  | .frndRn d a => encOne 0x66 d a 0
  | .frndRz d a => encOne 0x67 d a 0
  | .frndRd d a => encOne 0x68 d a 0
  | .frndRu d a => encOne 0x69 d a 0
  | .fdot2Bf16 d a b => encTwo 0x6A d a b 0
  | .idot4I8 d a b => encTwo 0x6B d a b 0
  | .fsat d a => encOne 0x6C d a 0
  | .cvt d a t s => encOne 0x70 d a (t.val * 16 + s.val)
  | .cvtSat d a t s => encOne 0x71 d a (t.val * 16 + s.val)
  | .cvtSr d a t s => encOne 0x72 d a (t.val * 16 + s.val)
  | .pack d a t s => encPlain 0x73 d a (t.val * 16 + s.val)
  | .unpack d a t s => encOne 0x74 d a (t.val * 16 + s.val)
  | .cblook c d a => encOne 0x75 d a c.val
  | .cbset c q a => encOneNoD 0x76 a (q.val * 8 + c.val)
  | .rkeyF32 d a => encOne 0x78 d a 0
  | .rkeyBf16 d a => encOne 0x79 d a 0
  | .rdig desc d a b => encTwo 0x7A d a b (if desc then 1 else 0)
  | .argmax d a => encPlain 0x7B d a 0
  | .rank d a => encPlain 0x7C d a 0
  | .bra neg p o => encBranch 0x00 ((if neg then 128 else 0) + p.val * 16) o
  | .bru o => encBranch 0x01 0 o
  | .brx a => encA 0x02 a
  | .call o => encBranch 0x03 0 o
  | .callx a => encA 0x04 a
  | .ret => encNone 0x05
  | .exit => encNone 0x06
  | .jset i a => encIdxSrc 0x07 i.val a
  | .arrive i => encIdx 0x08 i.val
  | .waitj i => encIdx 0x09 i.val
  | .pand d a b => encPred 0x0A d a b
  | .por d a b => encPred 0x0B d a b
  | .pxor d a b => encPred 0x0C d a b
  | .pnot d a => encPnot d a
  | .pmov d a => encPmov d a
  | .yield => encNone 0x0F
  | .sleep a => encOneNoD 0x10 a 0
  | .binit i a => encIdxSrc 0x11 i.val a
  | .barrive i a => encIdxCount 0x12 i.val a
  | .bwait i => encIdx 0x13 i.val
  | .bsync i a => encIdxCount 0x14 i.val a
  | .binval i => encIdx 0x15 i.val
  | .btest i a => encIdxO 0x16 i.val a
  | .barrivePeer i a => encIdxO 0x17 i.val a
  | .hitch d a => encOne 0x18 d a 0
  | .unhitch => encNone 0x19
  | .hmap d a => encOne 0x1A d a 0
  | .trap a => encOneNoD 0x1B a 0
  | .bkpt => encNone 0x1C
  | .tmark a => encOneNoD 0x1D a 0
  | .ldgN8 d a b => encMem 0x00 d a b
  | .ldgI8 d a b => encMem 0x01 d a b
  | .ldgN16 d a b => encMem 0x02 d a b
  | .ldgI16 d a b => encMem 0x03 d a b
  | .ldgB32 d a b => encMem 0x04 d a b
  | .ldgB64 d a b => encMem 0x05 d a b
  | .ldgB128 d a b => encMem 0x06 d a b
  | .stgB8 d a b => encMem 0x08 d a b
  | .stgB16 d a b => encMem 0x09 d a b
  | .stgB32 d a b => encMem 0x0A d a b
  | .stgB64 d a b => encMem 0x0B d a b
  | .stgB128 d a b => encMem 0x0C d a b
  | .ldsN8 d a b => encMem 0x10 d a b
  | .ldsI8 d a b => encMem 0x11 d a b
  | .ldsN16 d a b => encMem 0x12 d a b
  | .ldsI16 d a b => encMem 0x13 d a b
  | .ldsB32 d a b => encMem 0x14 d a b
  | .ldsB64 d a b => encMem 0x15 d a b
  | .ldsB128 d a b => encMem 0x16 d a b
  | .stsB8 d a b => encMem 0x18 d a b
  | .stsB16 d a b => encMem 0x19 d a b
  | .stsB32 d a b => encMem 0x1A d a b
  | .stsB64 d a b => encMem 0x1B d a b
  | .stsB128 d a b => encMem 0x1C d a b
  | .ldlB32 d a b => encMem 0x20 d a b
  | .ldlB64 d a b => encMem 0x21 d a b
  | .ldlB128 d a b => encMem 0x22 d a b
  | .stlB32 d a b => encMem 0x24 d a b
  | .stlB64 d a b => encMem 0x25 d a b
  | .stlB128 d a b => encMem 0x26 d a b
  | .ldgcB32 d a b => encMem 0x28 d a b
  | .ldgcB64 d a b => encMem 0x29 d a b
  | .gatherB32 d a b => encPlain3 0x2A d a b
  | .gatherB64 d a b => encPlain3 0x2B d a b
  | .scatterB32 d a b => encPlain3 0x2C d a b
  | .scatterB64 d a b => encPlain3 0x2D d a b
  | .smap d a b => encTwo 0x30 d a b 0
  | .sunmap a => encOneNoD 0x31 a 0
  | .sflush a => encOneNoD 0x32 a 0
  | .pref a b => encPref a b
  | .fence scope p u => encFence scope p u
  | .atomAddI32 d a b => encMem 0x38 d a b
  | .atomAddF32 d a b => encMem 0x39 d a b
  | .atomMinI32 d a b => encMem 0x3A d a b
  | .atomMinN32 d a b => encMem 0x3B d a b
  | .atomMaxI32 d a b => encMem 0x3C d a b
  | .atomMaxN32 d a b => encMem 0x3D d a b
  | .atomAnd d a b => encMem 0x3E d a b
  | .atomOr d a b => encMem 0x3F d a b
  | .atomXor d a b => encMem 0x40 d a b
  | .atomXchg d a b => encMem 0x41 d a b
  | .atomCas d a b => encMem 0x42 d a b
  | .atomInc d a b => encMem 0x43 d a b
  | .atomAddW d a b => encMem 0x44 d a b
  | .atomMinW d a b => encMem 0x45 d a b
  | .atomCasW d a b => encMem 0x46 d a b
  | .redAddI32 d a b => encMem 0x48 d a b
  | .redAddF32 d a b => encMem 0x49 d a b
  | .redMinW d a b => encMem 0x4A d a b
  | .redMaxN32 d a b => encMem 0x4B d a b
  | .satomAdd d a b => encMem 0x4C d a b
  | .satomMinN32 d a b => encMem 0x4D d a b
  | .satomCas d a b => encMem 0x4E d a b
  | .rhist d a b => encPlain3 0x4F d a b
  | .stage d a b => encMem 0x50 d a b
  | .txbegin d => encD 0x54 d
  | .txend => encNone 0x55
  | .txabort a => encOneNoD 0x56 a 0
  | .txstat d => encD 0x57 d
  | .mnop => encNone 0x00
  | .mmovq d a => encQ1 0x01 d.val a 0
  | .maddq d a b => encMaddq d a b
  | .mloop c o => encBranch 0x03 c.val o
  | .mtc c a => encQ1 0x04 c.val a 0
  | .mload t a p => encQ1 0x05 t.val a (byteOfPitch p)
  | .mstore t a p => encQ1 0x06 t.val a (byteOfPitch p)
  | .mzero n => encIdx 0x07 n.val
  | .mma n rx x ry y => encMma 0x08 n rx x ry y
  | .mmas n rx x ry y => encMma 0x09 n rx x ry y
  | .mmanm n rx x ry y => encMma 0x0A n rx x ry y
  | .mdecomp d s b => encBytes 0x0B d.val s.val b.val
  | .mscale n a => encQ1 0x0C n.val a 0
  | .mfmt n => encIdx 0x0D n.val
  | .mwait n => encIdx 0x0E n.val
  | .msignal n => encIdx 0x0F n.val
  | .mawait d h => encBytes 0x10 d.val h.val 0
  | .mrelease h s => encBytes 0x11 h.val s.val 0
  | .mstamp s v => encBytes 0x12 s.val v.val 0
  | .mend => encNone 0x13
  | .fork a b => encTwoNoD 0x00 a b
  | .rendez d => encD 0x01 (d.getD (.v 0))
  | .copy d a b => encTwo 0x02 d a b 0
  | .copyr d a => encOne 0x03 d a 0
  | .layout d a b => encTwo 0x04 d a b 0
  | .stream d a => encOne 0x05 d a 0
  | .rinit d a b => encTwo 0x06 d a b 0
  | .rawait d a => encOne 0x07 d a 0
  | .rrelease a b => encTwoNoD 0x08 a b
  | .rstat d a => encOne 0x09 d a 0
  | .jobcard d a => encOne 0x0A d a 0
  | .jwait a => encOneNoD 0x0B a 0
  | .fmtpost a b => encTwoNoD 0x0C a b
  | .stampOpen a => encA 0x0D a
  | .stampEv k a => encOneNoD 0x0D a (0x10 + k.val)
  | .stampRetire a => encOneNoD 0x0D a 0x20
  | .pklq d a => encOne 0x0E d a 0
  | .pklg d a => encOne 0x0F d a 0
  | .seljob d a => encOne 0x10 d a 0
  | .qpop nb d a b => encTwo 0x00 d a b (if nb then 1 else 0)
  | .qpush a b => encTwoNoD 0x01 a b
  | .qreserve d a b => encTwo 0x02 d a b 0
  | .qcommit a b => encTwoNoD 0x03 a b
  | .qcancel a b => encTwoNoD 0x04 a b
  | .succ a => encOneNoD 0x05 a 0
  | .doneQ a => encOneNoD 0x06 a 0
  | .rinvoke t d a b => encTwo 0x07 d a b (if t then 1 else 0)
  | .deadline a b => encTwoNoD 0x08 a b
  | .drainchk d => encD 0x09 d
  | .qstat i d a => encOne 0x0A d a i.val
  | .vbld d a b => encPlain3 0x00 d a b
  | .vbdec d a => encPlain 0x01 d a 0
  | .tileacq d a b => encTwo 0x02 d a b 0
  | .tilerel a => encOneNoD 0x03 a 0
  | .binpop d a => encOne 0x04 d a 0
  | .attr d a b => encTwo 0x05 d a b 0
  | .attrd d a b => encTwo 0x06 d a b 0
  | .bary d a => encPlain 0x07 d a 0
  | .quadsyn d a => encPlain 0x08 d a 0
  | .mdecl d a b => encTwo 0x09 d a b 0
  | .moutv d a => encPlain 0x0A d a 0
  | .moutp d a => encPlain 0x0B d a 0
  | .tex d a b => encPlain3 0x18 d a b
  | .texlod d a b => encPlain3 0x19 d a b
  | .texfetch d a b => encPlain3 0x1A d a b
  | .imgst d a b => encPlain3 0x1B d a b
  | .trace d a b => encTwo 0x10 d a b 0
  | .trcont d a b => encTwo 0x11 d a b 0
  | .trstat d b => encTwo 0x12 d (.v 0) b 0
  | .trxform d a b => encPlain3 0x13 d a b
  | .binhit d a b => encTwo 0x14 d a b 0
  | .srd d s => encBytes 0x00 (byteOfOpnd d) 0 s.toNat
  | .swr s a => encOneNoD 0x01 a s.toNat
  | .tret => encNone 0x02
  | .tick d => encD 0x03 d
  | .tickC d => encBytes 0x03 (byteOfOpnd d) 0 1
  | .tlbinv a b => encBytes 0x04 0 (byteOfOpnd a) (byteOfOpnd (b.getD (.v 0)))
  | .asidset a b => encBytes 0x05 0 (byteOfOpnd a) (byteOfOpnd (b.getD (.v 0)))
  | .csave d a b => encPlain3 0x06 d a b
  | .crestore d a => encPlain 0x07 d a 0
  | .eventWake a => encOneNoD 0x08 a 0
  | .eventPost a => encOneNoD 0x08 a 1
  | .dbgstop a => encA 0x09 a
  | .halt => encNone 0x0A
  | .thermalOrPowerLimit _ => []
  | .eccCorrectable _ => []

/-- The class a clause header names for an instruction (R34, R68). -/
def classOf (i : Instr) : Option Nat :=
  match i with
  | .clauseIssue .. => none
  | .delayedTrapDelivery .. => none
  | .longLatencyComplete .. => none
  | .barrierOpApply .. => none
  | .barrierCompletion .. => none
  | .sleepExpire .. => none
  | .blockRetire .. => none
  | .ostlerPick .. => none
  | .traversalBatchComplete .. => none
  | .launchTake .. => none
  | .candidatePinned .. => none
  | .candidateOverdue .. => none
  | .drainFirstHoldEnd .. => none
  | .translationComplete .. => none
  | .faultEntryPost .. => none
  | .blockSave .. => none
  | .blockRestore .. => none
  | .forcedSave .. => none
  | .provisionalCommit .. => none
  | .homeLoad .. => none
  | .homeStore .. => none
  | .homeAtomic .. => none
  | .ptsTick => none
  | .collectorSend .. => none
  | .collectorLineReturn .. => none
  | .atomicResend .. => none
  | .replyCacheRelease .. => none
  | .eccUncorrectable .. => none
  | .txTimeout .. => none
  | .jobComplete .. => none
  | .streamJobStart .. => none
  | .streamTile .. => none
  | .nearMemoryJobStart .. => none
  | .fabricRequestReceive .. => none
  | .rinvokeReceive .. => none
  | .rinvokeRetry .. => none
  | .flitReceive .. => none
  | .portDown .. => none
  | .linkRestored .. => none
  | .timeSync .. => none
  | .binBatch .. => none
  | .tileResolveStart .. => none
  | .tileResolved .. => none
  | .classifyTile .. => none
  | .vboutWriteDone .. => none
  | .scanOut .. => none
  | .planeRead .. => none
  | .displayEnable .. => none
  | .hostWindowRead .. => none
  | .hostWindowWrite .. => none
  | .registerWrite .. => none
  | .tailWrite .. => none
  | .ctlEnable .. => none
  | .ctlDrain .. => none
  | .ctlDrainEnd .. => none
  | .qreserveTimeout .. => none
  | .waybillReadyCopy .. => none
  | .pfpop .. => none
  | .pfdoneResolved .. => none
  | .pfdoneDeclined .. => none
  | .mcpop .. => none
  | .evqPop .. => none
  | .haltRequest .. => none
  | .haltResume .. => none
  | .suiteMapRequest => none
  | .attestationRequest => none
  | .rootMailboxReply => none
  | .functionLevelReset => none
  | .hotReset => none
  | .coldReset => none
  | .thermalShutdown => none
  | .clockStop => none
  | .clockRelease .. => none
  | .nop => some 0
  | .mov .. => some 0
  | .iadd .. => some 0
  | .iaddsI32 .. => some 0
  | .iaddsN32 .. => some 0
  | .isub .. => some 0
  | .isubsI32 .. => some 0
  | .isubsN32 .. => some 0
  | .imul .. => some 0
  | .imulhI32 .. => some 0
  | .imulhN32 .. => some 0
  | .imad .. => some 0
  | .iminI32 .. => some 0
  | .iminN32 .. => some 0
  | .imaxI32 .. => some 0
  | .imaxN32 .. => some 0
  | .iabs .. => some 0
  | .ineg .. => some 0
  | .and .. => some 0
  | .or .. => some 0
  | .xor .. => some 0
  | .andn .. => some 0
  | .shl .. => some 0
  | .shrn .. => some 0
  | .shra .. => some 0
  | .rotl .. => some 0
  | .popc .. => some 0
  | .clz .. => some 0
  | .brev .. => some 0
  | .bfxN32 .. => some 0
  | .bfxI32 .. => some 0
  | .bfi .. => some 0
  | .icmpEq .. => some 0
  | .icmpNe .. => some 0
  | .icmpLtI32 .. => some 0
  | .icmpLeI32 .. => some 0
  | .icmpLtN32 .. => some 0
  | .icmpLeN32 .. => some 0
  | .selP .. => some 0
  | .iaddW .. => some 0
  | .isubW .. => some 0
  | .imulwN32 .. => some 0
  | .imulwI32 .. => some 0
  | .shlW .. => some 0
  | .shrnW .. => some 0
  | .lea .. => some 0
  | .leaX4 .. => some 0
  | .leaX8 .. => some 0
  | .morton .. => some 0
  | .unmorton .. => some 0
  | .shflIdx .. => some 0
  | .shflXor .. => some 0
  | .shflUp .. => some 0
  | .shflDown .. => some 0
  | .ballot .. => some 0
  | .rdlane .. => some 0
  | .scanAdd .. => some 0
  | .reduceAdd .. => some 0
  | .reduceMinI32 .. => some 0
  | .reduceMaxI32 .. => some 0
  | .matchV .. => some 0
  | .rng .. => some 0
  | .modeset .. => some 0
  | .modesetRng .. => some 0
  | .fadd .. => some 0
  | .fsub .. => some 0
  | .fmul .. => some 0
  | .ffma .. => some 0
  | .fmin .. => some 0
  | .fmax .. => some 0
  | .fcmpEq .. => some 0
  | .fcmpLt .. => some 0
  | .fcmpLe .. => some 0
  | .fcmpUn .. => some 0
  | .hadd2F16 .. => some 0
  | .hmul2F16 .. => some 0
  | .hfma2F16 .. => some 0
  | .hadd2Bf16 .. => some 0
  | .hmul2Bf16 .. => some 0
  | .hfma2Bf16 .. => some 0
  | .dadd .. => some 0
  | .dmul .. => some 0
  | .dfma .. => some 0
  | .dcmpLt .. => some 0
  | .dcmpEq .. => some 0
  | .frcp .. => some 0
  | .frsq .. => some 0
  | .fsqrt .. => some 0
  | .fexp2 .. => some 0
  | .flog2 .. => some 0
  | .fsin .. => some 0
  | .fcos .. => some 0
  | .fdiv .. => some 0
  | .ffract .. => some 0
  | .frndRn .. => some 0
  | .frndRz .. => some 0
  | .frndRd .. => some 0
  | .frndRu .. => some 0
  | .fdot2Bf16 .. => some 0
  | .idot4I8 .. => some 0
  | .fsat .. => some 0
  | .cvt .. => some 0
  | .cvtSat .. => some 0
  | .cvtSr .. => some 0
  | .pack .. => some 0
  | .unpack .. => some 0
  | .cblook .. => some 0
  | .cbset .. => some 0
  | .rkeyF32 .. => some 0
  | .rkeyBf16 .. => some 0
  | .rdig .. => some 0
  | .argmax .. => some 0
  | .rank .. => some 0
  | .bra .. => some 1
  | .bru .. => some 1
  | .brx .. => some 1
  | .call .. => some 1
  | .callx .. => some 1
  | .ret => some 1
  | .exit => some 1
  | .jset .. => some 1
  | .arrive .. => some 1
  | .waitj .. => some 1
  | .pand .. => some 1
  | .por .. => some 1
  | .pxor .. => some 1
  | .pnot .. => some 1
  | .pmov .. => some 1
  | .yield => some 1
  | .sleep .. => some 1
  | .binit .. => some 1
  | .barrive .. => some 1
  | .bwait .. => some 1
  | .bsync .. => some 1
  | .binval .. => some 1
  | .btest .. => some 1
  | .barrivePeer .. => some 1
  | .hitch .. => some 1
  | .unhitch => some 1
  | .hmap .. => some 1
  | .trap .. => some 1
  | .bkpt => some 1
  | .tmark .. => some 1
  | .ldgN8 .. => some 2
  | .ldgI8 .. => some 2
  | .ldgN16 .. => some 2
  | .ldgI16 .. => some 2
  | .ldgB32 .. => some 2
  | .ldgB64 .. => some 2
  | .ldgB128 .. => some 2
  | .stgB8 .. => some 2
  | .stgB16 .. => some 2
  | .stgB32 .. => some 2
  | .stgB64 .. => some 2
  | .stgB128 .. => some 2
  | .ldsN8 .. => some 2
  | .ldsI8 .. => some 2
  | .ldsN16 .. => some 2
  | .ldsI16 .. => some 2
  | .ldsB32 .. => some 2
  | .ldsB64 .. => some 2
  | .ldsB128 .. => some 2
  | .stsB8 .. => some 2
  | .stsB16 .. => some 2
  | .stsB32 .. => some 2
  | .stsB64 .. => some 2
  | .stsB128 .. => some 2
  | .ldlB32 .. => some 2
  | .ldlB64 .. => some 2
  | .ldlB128 .. => some 2
  | .stlB32 .. => some 2
  | .stlB64 .. => some 2
  | .stlB128 .. => some 2
  | .ldgcB32 .. => some 2
  | .ldgcB64 .. => some 2
  | .gatherB32 .. => some 2
  | .gatherB64 .. => some 2
  | .scatterB32 .. => some 2
  | .scatterB64 .. => some 2
  | .smap .. => some 2
  | .sunmap .. => some 2
  | .sflush .. => some 2
  | .pref .. => some 2
  | .fence .. => some 2
  | .atomAddI32 .. => some 2
  | .atomAddF32 .. => some 2
  | .atomMinI32 .. => some 2
  | .atomMinN32 .. => some 2
  | .atomMaxI32 .. => some 2
  | .atomMaxN32 .. => some 2
  | .atomAnd .. => some 2
  | .atomOr .. => some 2
  | .atomXor .. => some 2
  | .atomXchg .. => some 2
  | .atomCas .. => some 2
  | .atomInc .. => some 2
  | .atomAddW .. => some 2
  | .atomMinW .. => some 2
  | .atomCasW .. => some 2
  | .redAddI32 .. => some 2
  | .redAddF32 .. => some 2
  | .redMinW .. => some 2
  | .redMaxN32 .. => some 2
  | .satomAdd .. => some 2
  | .satomMinN32 .. => some 2
  | .satomCas .. => some 2
  | .rhist .. => some 2
  | .stage .. => some 2
  | .txbegin .. => some 2
  | .txend => some 2
  | .txabort .. => some 2
  | .txstat .. => some 2
  | .mnop => some 3
  | .mmovq .. => some 3
  | .maddq .. => some 3
  | .mloop .. => some 3
  | .mtc .. => some 3
  | .mload .. => some 3
  | .mstore .. => some 3
  | .mzero .. => some 3
  | .mma .. => some 3
  | .mmas .. => some 3
  | .mmanm .. => some 3
  | .mdecomp .. => some 3
  | .mscale .. => some 3
  | .mfmt .. => some 3
  | .mwait .. => some 3
  | .msignal .. => some 3
  | .mawait .. => some 3
  | .mrelease .. => some 3
  | .mstamp .. => some 3
  | .mend => some 3
  | .fork .. => some 4
  | .rendez .. => some 4
  | .copy .. => some 4
  | .copyr .. => some 4
  | .layout .. => some 4
  | .stream .. => some 4
  | .rinit .. => some 4
  | .rawait .. => some 4
  | .rrelease .. => some 4
  | .rstat .. => some 4
  | .jobcard .. => some 4
  | .jwait .. => some 4
  | .fmtpost .. => some 4
  | .stampOpen .. => some 4
  | .stampEv .. => some 4
  | .stampRetire .. => some 4
  | .pklq .. => some 4
  | .pklg .. => some 4
  | .seljob .. => some 4
  | .qpop .. => some 5
  | .qpush .. => some 5
  | .qreserve .. => some 5
  | .qcommit .. => some 5
  | .qcancel .. => some 5
  | .succ .. => some 5
  | .doneQ .. => some 5
  | .rinvoke .. => some 5
  | .deadline .. => some 5
  | .drainchk .. => some 5
  | .qstat .. => some 5
  | .vbld .. => some 6
  | .vbdec .. => some 6
  | .tileacq .. => some 6
  | .tilerel .. => some 6
  | .binpop .. => some 6
  | .attr .. => some 6
  | .attrd .. => some 6
  | .bary .. => some 6
  | .quadsyn .. => some 6
  | .mdecl .. => some 6
  | .moutv .. => some 6
  | .moutp .. => some 6
  | .tex .. => some 6
  | .texlod .. => some 6
  | .texfetch .. => some 6
  | .imgst .. => some 6
  | .trace .. => some 6
  | .trcont .. => some 6
  | .trstat .. => some 6
  | .trxform .. => some 6
  | .binhit .. => some 6
  | .srd .. => some 7
  | .swr .. => some 7
  | .tret => some 7
  | .tick .. => some 7
  | .tickC .. => some 7
  | .tlbinv .. => some 7
  | .asidset .. => some 7
  | .csave .. => some 7
  | .crestore .. => some 7
  | .eventWake .. => some 7
  | .eventPost .. => some 7
  | .dbgstop .. => some 7
  | .halt => some 7
  | .thermalOrPowerLimit .. => none
  | .eccCorrectable .. => none

/-- The instruction whose only word is `w` and whose literal, if it takes one, is 0. The class stands in the
clause header and not in the word (R36), so the classes are tried in ascending order (log 5). -/
def decodeTableClass (w : Word) : Option (Nat × Instr) :=
  firstOf (fun cls => match decodeWord cls w 0 with
    | .instr i => some (cls, i)
    | .illegal _ => none) (List.range 8)

/-- The host's question: the instruction of one table row's bits. -/
def decodeTableWord (nbits w : Nat) : Option Instr :=
  if nbits = 32 then (decodeTableClass (BitVec.ofNat 32 w)).map Prod.snd else none

end
end Sys2Proof
end

