-- ==== Sys2Proof/Machine/Formats.lean ====
section
/-! DEFINITION. Number formats, exact values and the one rounding helper (02 R71, R72; 05 R132-R144; 06 R155-R167).
A value is decoded to an exact number, computed with exactly, and rounded once. -/
namespace Sys2Proof.Machine
open Sys2Proof

/-- An exact value: NaN, an infinity, or (-1)^neg × m × 2^e; zero keeps its sign. -/
inductive Val where
  | nan
  | inf (neg : Bool)
  | fin (neg : Bool) (m : Nat) (e : Int)
  deriving DecidableEq, Repr

/-- A floating-point format (R133): exponent and fraction bits; whether the all-ones exponent is reserved. -/
structure FFmt where
  eb : Nat
  fb : Nat
  ieee : Bool
  deriving DecidableEq, Repr

def fmtF32 : FFmt := ⟨8, 23, true⟩
def fmtF16 : FFmt := ⟨5, 10, true⟩
def fmtBf16 : FFmt := ⟨8, 7, true⟩
def fmtE4m3 : FFmt := ⟨4, 3, false⟩
def fmtE5m2 : FFmt := ⟨5, 2, true⟩
def fmtS24 : FFmt := ⟨8, 15, true⟩
def fmtF64 : FFmt := ⟨11, 52, true⟩
def fmtA96 : FFmt := ⟨15, 80, true⟩

def FFmt.bias (f : FFmt) : Nat := 2 ^ (f.eb - 1) - 1
def FFmt.width (f : FFmt) : Nat := 1 + f.eb + f.fb
/-- Least exponent of a normal value. -/
def FFmt.emin (f : FFmt) : Int := 1 - (f.bias : Int)
/-- Greatest exponent of a finite value. -/
def FFmt.emax (f : FFmt) : Int := (2 ^ f.eb : Nat) - 1 - (f.bias : Int) - (if f.ieee then 1 else 0)
/-- The largest finite pattern without its sign (R133). -/
def FFmt.maxBits (f : FFmt) : Nat :=
  if f.ieee then (2 ^ f.eb - 1) * 2 ^ f.fb - 1 else 2 ^ (f.eb + f.fb) - 2
/-- The canonical quiet NaN (R134). -/
def FFmt.canon (f : FFmt) : Nat :=
  if f.ieee then (2 ^ f.eb - 1) * 2 ^ f.fb + 2 ^ (f.fb - 1) else 2 ^ (f.eb + f.fb) - 1
def FFmt.signBit (f : FFmt) (neg : Bool) : Nat := if neg then 2 ^ (f.eb + f.fb) else 0
def FFmt.infBits (f : FFmt) (neg : Bool) : Nat := f.signBit neg + (2 ^ f.eb - 1) * 2 ^ f.fb

/-- `val` of a pattern (R70, R133, R134). -/
def FFmt.val (f : FFmt) (x : Nat) : Val :=
  let neg := bit x (f.eb + f.fb)
  let e := bits x (f.eb + f.fb - 1) f.fb
  let m := x % 2 ^ f.fb
  if e = 2 ^ f.eb - 1 ∧ f.ieee then (if m = 0 then .inf neg else .nan)
  else if e = 2 ^ f.eb - 1 ∧ m = 2 ^ f.fb - 1 then .nan
  else if e = 0 then .fin neg m (f.emin - f.fb)
  else .fin neg (m + 2 ^ f.fb) ((e : Int) - f.bias - f.fb)

/-- `ftz` of a pattern: a subnormal becomes a zero of its sign (R70, R155). -/
def FFmt.ftz (f : FFmt) (on : Bool) (x : Nat) : Nat :=
  if on && bits x (f.eb + f.fb - 1) f.fb == 0 then x / 2 ^ (f.eb + f.fb) % 2 * 2 ^ (f.eb + f.fb) else x

/-- A rounding's answer: the pattern and whether a random draw was made. -/
structure Rounded where
  bits : Nat
  drew : Bool
  deriving DecidableEq, Repr

/-- The choice between a magnitude and the next one up (R71): `lo` is the lower neighbour's last bits, the discarded
part is `rem` / 2^sh, `r16` the draw. True for the upper neighbour. -/
def roundUpChoice (mode : Nat) (neg : Bool) (lo rem sh r16 : Nat) : Bool :=
  match mode with
  | 0 => decide (2 * rem > 2 ^ sh) || (decide (2 * rem = 2 ^ sh) && lo % 2 == 1)
  | 1 => false
  | 2 => neg
  | 3 => !neg
  | 4 => decide (2 * rem ≥ 2 ^ sh)
  | _ => decide (65536 * rem / 2 ^ sh + r16 ≥ 65536)

/-- A mode directed toward zero for this sign (R72). -/
def towardZero (mode : Nat) (neg : Bool) : Bool := mode == 1 || (mode == 2 && !neg) || (mode == 3 && neg)

/-- What a magnitude above the largest finite value, or an infinity, gives (R72). -/
def FFmt.overflow (f : FFmt) (neg sat : Bool) : Nat :=
  if sat then f.signBit neg + f.maxBits
  else if f.ieee then f.infBits neg else f.signBit neg + f.canon

/-- `rnd(x, f, mode, sat)` (R71, R72). -/
def FFmt.rnd (f : FFmt) (v : Val) (mode : Nat) (sat : Bool) (r16 : Nat) : Rounded :=
  match v with
  | .nan => ⟨f.canon, false⟩
  | .inf neg => ⟨f.overflow neg sat, false⟩
  | .fin neg m e =>
    if m = 0 then ⟨f.signBit neg, false⟩
    else
      let top : Int := (bitLen m : Int) - 1 + e
      let q : Int := max top f.emin - f.fb
      let sh := (q - e).toNat
      let lo := if q ≤ e then m * 2 ^ (e - q).toNat else m / 2 ^ sh
      let rem := if q ≤ e then 0 else m % 2 ^ sh
      let k := if rem = 0 then lo else if roundUpChoice mode neg lo rem sh r16 then lo + 1 else lo
      let drew := mode == 5 && rem != 0
      if k = 0 then ⟨f.signBit neg, drew⟩
      else
        -- the pattern of k × 2^q: biased exponent and fraction add up across a binade's end
        let be : Int := q + f.fb + f.bias
        let mag : Nat := if k < 2 ^ f.fb then k else (be.toNat - 1) * 2 ^ f.fb + k
        if mag > f.maxBits then
          (if towardZero mode neg then ⟨f.signBit neg + f.maxBits, drew⟩ else ⟨f.overflow neg sat, drew⟩)
        else ⟨f.signBit neg + mag, drew⟩

/-- `rndint(x, mode)` (R70, R142): an integer, and whether a draw was made. -/
def rndint (neg : Bool) (m : Nat) (e : Int) (mode r16 : Nat) : Int × Bool :=
  if 0 ≤ e then ((if neg then -1 else 1) * (m * 2 ^ e.toNat : Nat), false)
  else
    let sh := (-e).toNat
    let lo := m / 2 ^ sh
    let rem := m % 2 ^ sh
    let k := if rem = 0 then lo else if roundUpChoice mode neg lo rem sh r16 then lo + 1 else lo
    ((if neg then -1 else 1) * (k : Nat), mode == 5 && rem != 0)

/-! ## Exact arithmetic -/

/-- The signed multiple of 2^(`base`) that a finite value is; `base` is at most its exponent. -/
def atScale (base : Int) (neg : Bool) (m : Nat) (e : Int) : Int :=
  (if neg then -1 else 1) * (m * 2 ^ (e - base).toNat : Nat)

def Val.isNan : Val → Bool
  | .nan => true
  | _ => false
def Val.isInf : Val → Bool
  | .inf _ => true
  | _ => false
def Val.isZero : Val → Bool
  | .fin _ 0 _ => true
  | _ => false
def Val.neg : Val → Bool
  | .nan => false
  | .inf n => n
  | .fin n _ _ => n
def Val.negate : Val → Val
  | .nan => .nan
  | .inf n => .inf (!n)
  | .fin n m e => .fin (!n) m e
def Val.exp : Val → Int
  | .fin _ 0 _ => 0
  | .fin _ _ e => e
  | _ => 0

/-- A product (R156): 0 × ∞ is NaN, the sign is the exclusive or. -/
def Val.mul : Val → Val → Val
  | .nan, _ => .nan
  | _, .nan => .nan
  | .inf a, .inf b => .inf (a != b)
  | .inf a, .fin b m _ => if m = 0 then .nan else .inf (a != b)
  | .fin a m _, .inf b => if m = 0 then .nan else .inf (a != b)
  | .fin a m e, .fin b n g => .fin (a != b) (m * n) (e + g)

/-- An exact sum (R156, R157): the sign of an exact zero is that of the terms when all are zeros of one sign, else −
under RD and + otherwise. -/
def sumVals (mode : Nat) (ts : List Val) : Val :=
  if ts.any Val.isNan then .nan
  else
    let infs := ts.filter Val.isInf
    match infs with
    | i :: r => if r.any (fun j => j.neg != i.neg) then .nan else i
    | [] =>
      let base := (ts.filter (fun t => !t.isZero)).foldl (fun a t => min a t.exp) 0
      let total := ts.foldl (fun a t => match t with
        | .fin n m e => a + (if m = 0 then 0 else atScale base n m e)
        | _ => a) (0 : Int)
      if total = 0 then
        if ts.all Val.isZero && (ts.all Val.neg || ts.all (fun t => !t.neg)) then .fin (ts.all Val.neg) 0 0
        else .fin (mode == 2) 0 0
      else .fin (decide (total < 0)) total.natAbs base

/-- `x` below `y`, for values that are not NaN. -/
def Val.lt (x y : Val) : Bool :=
  match x, y with
  | .inf true, .inf true => false
  | .inf true, .nan => false
  | .inf true, _ => true
  | _, .inf false => (match x with | .inf false => false | .nan => false | _ => true)
  | .fin a m e, .fin b n g =>
    let base := min e g
    decide (atScale base a m e < atScale base b n g)
  | _, _ => false
/-- Equal values; −0 equals +0. -/
def Val.eqv (x y : Val) : Bool := !x.isNan && !y.isNan && !x.lt y && !y.lt x

/-! ## Roots, quotients and the transcendental functions (06 R165, R166) -/

/-- Integer square root, bit by bit from 2^n. -/
def isqrtLoop : Nat → Nat → Nat → Nat
  | 0, _, r => r
  | n + 1, x, r => let c := r + 2 ^ n; if c * c ≤ x then isqrtLoop n x c else isqrtLoop n x r
def isqrt (x : Nat) : Nat := isqrtLoop (bitLen x / 2 + 1) x 0

/-- A truncated magnitude with a sticky bit below it stands for the exact value in one rounding. -/
def sticky (neg : Bool) (q : Nat) (exact : Bool) (e : Int) : Val := .fin neg (2 * q + b2n (!exact)) (e - 1)

/-- Extra bits carried before the single rounding. -/
def guardBits : Nat := 64

def Val.div : Val → Val → Val
  | .nan, _ => .nan
  | _, .nan => .nan
  | .inf _, .inf _ => .nan
  | .inf a, .fin b _ _ => .inf (a != b)
  | .fin a _ _, .inf b => .fin (a != b) 0 0
  | .fin a m e, .fin b n g =>
    if n = 0 then (if m = 0 then .nan else .inf (a != b))
    else if m = 0 then .fin (a != b) 0 0
    else
      let k := guardBits + bitLen n
      let x := m * 2 ^ k
      sticky (a != b) (x / n) (x % n == 0) (e - g - k)

def Val.sqrt : Val → Val
  | .nan => .nan
  | .inf false => .inf false
  | .inf true => .nan
  | .fin neg m e =>
    if m = 0 then .fin neg 0 0
    else if neg then .nan
    else
      let k := 2 * guardBits + (if e % 2 = 0 then 0 else 1)
      let x := m * 2 ^ k
      let r := isqrt x
      sticky false r (r * r == x) ((e - k) / 2)

def Val.rsqrt : Val → Val
  | .nan => .nan
  | .inf false => .fin false 0 0
  | .inf true => .nan
  | .fin neg m e =>
    if m = 0 then .inf neg
    else if neg then .nan
    else
      -- 1/√(m 2^e) = √(2^2k / m') × 2^(-k - e'/2), with m' 2^e' = m 2^e and e' even
      let m' := if e % 2 = 0 then m else 2 * m
      let e' := if e % 2 = 0 then e else e - 1
      let k := guardBits + bitLen m'
      let r := isqrt (2 ^ (2 * k) / m')
      sticky false r (r * r * m' == 2 ^ (2 * k)) (-(k : Int) - e' / 2)

/-- Fixed point with 256 fraction bits. -/
def fxBits : Nat := 256
/-- π and ln 2, truncated to 256 fraction bits. -/
def fxPi : Nat := 363771576891766324280234942777729862653393377328392429958772151117938894466185
def fxLn2 : Nat := 80260960185991308862233904206310070533990667611589946606122867505419956976171

/-- e^x for 0 ≤ x < 1 in fixed point: the sum of `n` terms, the current one `t` of index `k`. -/
def fxExp : Nat → Nat → Nat → Nat → Nat
  | 0, _, _, _ => 0
  | n + 1, k, t, x => t + fxExp n (k + 1) (t * x / 2 ^ fxBits / (k + 1)) x

/-- Σ ± x^(2i)/(2i+1)! alternating: with first term `t`, step `k`. -/
def fxAlt : Nat → Nat → Nat → Nat → Int
  | 0, _, _, _ => 0
  | n + 1, k, t, x2 => (t : Int) - fxAlt n (k + 2) (t * x2 / 2 ^ fxBits / ((k + 1) * (k + 2))) x2

/-- Σ z^(2i+1)/(2i+1) in fixed point. -/
def fxAtanh : Nat → Nat → Nat → Nat → Nat
  | 0, _, _, _ => 0
  | n + 1, k, p, z2 => p / k + fxAtanh n (k + 2) (p * z2 / 2 ^ fxBits) z2

/-- 2^x: exact for an integer, else from the series; far beyond the format's range it only need overflow or vanish. -/
def Val.exp2 : Val → Val
  | .nan => .nan
  | .inf false => .inf false
  | .inf true => .fin false 0 0
  | .fin neg m e =>
    if m = 0 then .fin false 1 0
    else
      let big := decide (e + bitLen m > 12)
      if big then (if neg then .fin false 1 (-100000) else .fin false 1 100000)
      else
        let x : Int := (if neg then -1 else 1) * (if 0 ≤ e then m * 2 ^ (e.toNat + fxBits) else m * 2 ^ fxBits / 2 ^ (-e).toNat : Nat)
        let n := x / (2 ^ fxBits : Nat)
        let f := (x % (2 ^ fxBits : Nat)).toNat
        if f = 0 ∧ (0 ≤ e ∨ m % 2 ^ (-e).toNat = 0) then .fin false 1 n
        else sticky false (fxExp 80 0 (2 ^ fxBits) (f * fxLn2 / 2 ^ fxBits)) false (n - fxBits)

/-- log2 of a positive value: the exponent plus 2 atanh((y−1)/(y+1)) / ln 2 for 1 ≤ y < 2. -/
def Val.log2 : Val → Val
  | .nan => .nan
  | .inf false => .inf false
  | .inf true => .nan
  | .fin neg m e =>
    if m = 0 then .inf true
    else if neg then .nan
    else
      let b := bitLen m - 1
      let n : Int := e + b
      if m = 2 ^ b then .fin (decide (n < 0)) n.natAbs 0
      else
        let z := (m - 2 ^ b) * 2 ^ fxBits / (m + 2 ^ b)
        let l := 2 * fxAtanh 180 1 z (z * z / 2 ^ fxBits) * 2 ^ fxBits / fxLn2
        let t : Int := n * (2 ^ fxBits : Nat) + l
        sticky (decide (t < 0)) t.natAbs false (-fxBits)

/-- sin and cos of 2πr for a fixed-point 0 ≤ r ≤ 1/4. -/
def fxSin (r : Nat) : Nat :=
  let a := 2 * fxPi * r / 2 ^ fxBits
  (fxAlt 60 1 a (a * a / 2 ^ fxBits)).toNat
def fxCos (r : Nat) : Nat :=
  let a := 2 * fxPi * r / 2 ^ fxBits
  (fxAlt 60 0 (2 ^ fxBits) (a * a / 2 ^ fxBits)).toNat

/-- The argument in turns modulo 1, as a multiple of 2^-256: exact for a finite binary32 of magnitude at least
2^-149 (R166). -/
def turns (m : Nat) (e : Int) : Nat := if 0 ≤ e then 0 else (m * 2 ^ fxBits / 2 ^ (-e).toNat) % 2 ^ fxBits

/-- sin(2πx) (R166): a zero result takes the sign of x, quarters are exact. -/
def Val.sinTurns : Val → Val
  | .nan => .nan
  | .inf _ => .nan
  | .fin neg m e =>
    let r := turns m e
    let h := 2 ^ (fxBits - 1)
    let q := 2 ^ (fxBits - 2)
    if r = 0 ∨ r = h then .fin neg 0 0
    else
      let (flip, r) := if r > h then (true, 2 ^ fxBits - r) else (false, r)
      let s := neg != flip
      if r = q then .fin s 1 0
      else sticky s (if r < q then (if r * 8 ≤ 2 ^ fxBits then fxSin r else fxCos (q - r))
                     else (let r := h - r; if r * 8 ≤ 2 ^ fxBits then fxSin r else fxCos (q - r))) false (-fxBits)

/-- cos(2πx) (R166): zeros are +0, integers give 1 and half-integers −1. -/
def Val.cosTurns : Val → Val
  | .nan => .nan
  | .inf _ => .nan
  | .fin _ m e =>
    let r := turns m e
    let h := 2 ^ (fxBits - 1)
    let q := 2 ^ (fxBits - 2)
    let r := if r > h then 2 ^ fxBits - r else r
    if r = 0 then .fin false 1 0
    else if r = h then .fin true 1 0
    else if r = q then .fin false 0 0
    else if r < q then sticky false (if r * 8 ≤ 2 ^ fxBits then fxCos r else fxSin (q - r)) false (-fxBits)
    else
      let r := h - r
      sticky true (if r * 8 ≤ 2 ^ fxBits then fxCos r else fxSin (q - r)) false (-fxBits)

/-! ## Type codes and conversion (05 R132, R136-R144) -/

/-- The float format of a type code. -/
def floatFmt (c : Nat) : Option FFmt :=
  match c with
  | 0 => some fmtF32 | 1 => some fmtF16 | 2 => some fmtBf16 | 3 => some fmtE4m3 | 4 => some fmtE5m2
  | 13 => some fmtS24 | 14 => some fmtF64 | _ => none

/-- Width and range of an integer type code (R136). -/
def intFmt (c : Nat) : Option (Nat × Int × Int) :=
  match c with
  | 5 => some (8, -128, 127) | 6 => some (8, 0, 255) | 7 => some (4, -7, 7)
  | 9 => some (16, -32768, 32767) | 10 => some (16, 0, 65535)
  | 11 => some (32, -2147483648, 2147483647) | 12 => some (32, 0, 4294967295) | _ => none

def intVal (x : Int) : Val := .fin (decide (x < 0)) x.natAbs 0

/-- The formats that `FMODE.FTZ` flushes (R142). -/
def ftzCode (c : Nat) : Bool := c == 0 || c == 1 || c == 2 || c == 14

/-- `val(e, f)` with flushing, and whether the reserved i4 code was read (R70, R137). -/
def valOf (c x : Nat) (ftz : Bool) (book : List Nat) : Val × Bool :=
  match floatFmt c with
  | some f => (f.val (f.ftz (ftz && ftzCode c) (x % 2 ^ f.width)), false)
  | none =>
    if c = 8 then (fmtBf16.val (book.getD (x % 16) 0), false)
    else if c = 7 then (if x % 16 = 8 then (.fin false 0 0, true) else (intVal (sext x 4), false))
    else match intFmt c with
      | some (w, lo, _) => (intVal (if lo < 0 then sext x w else (zext x w : Nat)), false)
      | none => (.nan, false)

/-- `|x − y|` of finite values, at the scale of the smaller exponent. -/
def distance (x y : Val) : Val :=
  match sumVals 0 [x, y.negate] with
  | .fin _ m e => .fin false m e
  | v => v

/-- Positions of a list with its elements. -/
def indexed {α : Type} (xs : List α) : List (Nat × α) := (List.range xs.length).zip xs

/-- The first of the entries that no other entry beats. -/
def bestBy (better : Val → Val → Bool) : List (Nat × Val) → Option (Nat × Val)
  | [] => none
  | x :: r => match bestBy better r with
    | none => some x
    | some y => if better y.2 x.2 then some y else some x

/-- The codebook entry a value becomes (R140). -/
def toCodebook (v : Val) (book : List Nat) : Nat :=
  let es := indexed (book.map fmtBf16.val)
  let nums := es.filter (fun e => !e.2.isNan)
  let index (o : Option (Nat × Val)) : Nat := match o with | some e => e.1 | none => 0
  match v with
  | .nan => index (es.find? (fun e => e.2.isNan))
  | .inf false => index (match nums.find? (fun e => e.2 == .inf false) with
      | some e => some e
      | none => bestBy (fun a b => b.lt a) nums)
  | .inf true => index (match nums.find? (fun e => e.2 == .inf true) with
      | some e => some e
      | none => bestBy (fun a b => a.lt b) nums)
  | .fin neg _ _ =>
    let fins := nums.filter (fun e => !e.2.isInf)
    if fins.isEmpty then
      index (match nums.find? (fun e => e.2 == .inf neg) with
        | some e => some e
        | none => nums.head?)
    else index (bestBy (fun a b => a.lt b) (fins.map fun e => (e.1, distance v e.2)))

/-- A conversion's answer: the pattern, the reserved i4 code read, a draw made. -/
structure Conv where
  bits : Nat
  invq : Bool
  drew : Bool
  deriving DecidableEq, Repr

/-- `conv(x, s, d, mode, sat)` (R142-R144). -/
def conv (x s d mode : Nat) (sat ftz : Bool) (book : List Nat) (r16 : Nat) : Conv :=
  let (v, q) := valOf s x ftz book
  if s = d then
    match floatFmt d with
    | some f => ⟨if v.isNan then f.canon else f.ftz (ftz && ftzCode d) (x % 2 ^ f.width), false, false⟩
    | none => if d = 7 then ⟨if q then 0 else x % 16, q, false⟩
      else if d = 8 then ⟨x % 16, false, false⟩
      else match intFmt d with
        | some (w, _, _) => ⟨x % 2 ^ w, false, false⟩
        | none => ⟨x, false, false⟩
  else if d = 8 then ⟨toCodebook v book, q, false⟩
  else match intFmt d with
    | some (w, lo, hi) =>
      match v with
      | .nan => ⟨0, q, false⟩
      | .inf n => ⟨wrapN (if n then lo else hi) w, q, false⟩
      | .fin n m e =>
        let (i, drew) := rndint n m e mode r16
        ⟨wrapN (clamp i lo hi) w, q, drew⟩
    | none => match floatFmt d with
      | some f =>
        let r := f.rnd v mode sat r16
        ⟨f.ftz (ftz && ftzCode d) r.bits, q, r.drew⟩
      | none => ⟨0, q, false⟩

/-- Placement in a 32-bit register (R141): sign copies for i4, i8 and i16, zeros for the rest. -/
def placeReg (c x : Nat) : Word :=
  match c with
  | 5 => wrap 32 (sext x 8)
  | 7 => wrap 32 (sext x 4)
  | 9 => wrap 32 (sext x 16)
  | _ => BitVec.ofNat 32 x

end Sys2Proof.Machine
end

