-- ==== Sys2Proof/Machine/Exact.lean ====
section
/-! DEFINITION. Exact rational numbers, as the resolver and the traversal unit compute with them (14 R365, 15 R393). -/
namespace Sys2Proof.Machine
open Sys2Proof

/-- The number `n` / `d`; `d` is not 0. -/
structure Q where
  n : Int
  d : Nat
  deriving DecidableEq, Repr

def Q.ofInt (x : Int) : Q := ⟨x, 1⟩
def Q.zero : Q := ⟨0, 1⟩
/-- 1/2. -/
def Q.half : Q := ⟨1, 2⟩
def Q.add (x y : Q) : Q := ⟨x.n * y.d + y.n * x.d, x.d * y.d⟩
def Q.neg (x : Q) : Q := ⟨-x.n, x.d⟩
def Q.sub (x y : Q) : Q := x.add y.neg
def Q.mul (x y : Q) : Q := ⟨x.n * y.n, x.d * y.d⟩
/-- The quotient by a number that is not 0. -/
def Q.div (x y : Q) : Q := ⟨x.n * y.d * y.n.sign, x.d * y.n.natAbs⟩
def Q.lt (x y : Q) : Bool := decide (x.n * y.d < y.n * x.d)
def Q.le (x y : Q) : Bool := decide (x.n * y.d ≤ y.n * x.d)
def Q.isZero (x : Q) : Bool := x.n == 0
def Q.pos (x : Q) : Bool := decide (0 < x.n)
def Q.isNeg (x : Q) : Bool := decide (x.n < 0)
def Q.max (x y : Q) : Q := if x.lt y then y else x
def Q.min (x y : Q) : Q := if y.lt x then y else x
def Q.floor (x : Q) : Int := x.n / x.d
def Q.ceil (x : Q) : Int := -((-x.n) / x.d)
/-- 2^e. -/
def Q.pow2 (e : Int) : Q := if 0 ≤ e then ⟨2 ^ e.toNat, 1⟩ else ⟨1, 2 ^ (-e).toNat⟩
def Q.sum (xs : List Q) : Q := xs.foldl Q.add Q.zero

/-- A finite value as a number. -/
def Val.q : Val → Option Q
  | .fin neg m e => some ((Q.mul ⟨if neg then -(m : Int) else m, 1⟩ (Q.pow2 e)))
  | _ => none

/-- The number as a value for one rounding. -/
def Q.val (x : Q) : Val :=
  Val.div (.fin (decide (x.n < 0)) x.n.natAbs 0) (.fin false x.d 0)

/-- The number rounded to binary32. -/
def Q.f32 (x : Q) (mode : Nat) : Nat := (fmtF32.rnd x.val mode false 0).bits

/-- A binary32 pattern as a number, when it is finite. -/
def qOf (w : Word) : Option Q := (fmtF32.val w.toNat).q

/-- A dot product. -/
def qDot (xs ys : List Q) : Q := Q.sum (List.zipWith Q.mul xs ys)

end Sys2Proof.Machine
end

