-- ==== Sys2Proof/Machine/Views.lean ====
section
/-! DEFINITION. Views and the binning unit (14 R355-R364): tracking, batches, culling and binning, counting of teams,
closing. -/
namespace Sys2Proof.Machine
open Sys2Proof

/-! ## View records (R355, R356) -/

/-- A field of a record. -/
def View.f (v : View) (o n : Nat) : Nat := field v.record o n
def View.itable (v : View) : Nat := v.f 0 8
def View.mtable (v : View) : Nat := v.f 8 8
def View.binsz (v : View) : Nat := v.f 24 4
def View.entbase (v : View) : Nat := v.f 28 8
def View.vbout (v : View) : Nat := v.f 36 8
def View.ratemap (v : View) : Nat := v.f 44 8
def View.width (v : View) : Nat := v.f 68 2
def View.height (v : View) : Nat := v.f 70 2
def View.layout (v : View) : Nat := v.f 72 4
def View.mteams (v : View) : Nat := v.f 76 4
def View.mcount (v : View) : Nat := v.f 80 4
def View.ctl (v : View) : Nat := v.f 85 1
def View.clear (v : View) : Word := BitVec.ofNat 32 (v.f 88 4)
def View.wide (v : View) : Bool := bit v.layout 31
/-- A screen coordinate's scale and offset words: x at 52, y at 60. -/
def View.word (v : View) (o : Nat) : Word := BitVec.ofNat 32 (v.f o 4)
/-- Tiles along x. -/
def View.tilesX (v : View) : Nat := ceilDiv v.width 32
def View.tilesY (v : View) : Nat := ceilDiv v.height 32

/-- The widths of an identifier's fields (R356). -/
def idI (lay : Nat) : Nat := bits lay 23 16
def idC (lay : Nat) : Nat := bits lay 15 8
def idT (lay : Nat) : Nat := bits lay 7 0
def layoutValid (lay : Nat) : Bool :=
  decide (idI lay ≤ 32) && decide (idC lay ≤ 32) && decide (idT lay ≤ 32) &&
    idI lay + idC lay + idT lay == (if bit lay 31 then 64 else 32)
/-- The identifier that marks an empty pixel. -/
def emptyId (wide : Bool) : Nat := if wide then 2 ^ 64 - 1 else 2 ^ 32 - 1
def View.empty (v : View) : Nat := emptyId v.wide

/-- The record is invalid (R359). -/
def viewBad (rooms : List Nat) (v : View) : Bool :=
  let fin (o : Nat) : Bool := (qOf (v.word o)).isSome
  let nz (o : Nat) : Bool := match qOf (v.word o) with | some q => !q.isZero | none => false
  !layoutValid v.layout || v.width == 0 || decide (v.width > 16384) || v.height == 0 || decide (v.height > 16384) ||
    !rooms.contains v.room || v.mteams == 0 || !(nz 52 && fin 56 && nz 60 && fin 64)

/-! ## Tracking (R357) -/

def State.viewOf (s : State) (id : Nat) : Option View := s.views.find? (·.id == id)
def State.modView (s : State) (id : Nat) (f : View → View) : State :=
  { s with views := s.views.map fun v => if v.id = id then f v else v }
/-- The tracked view of a record. -/
def State.viewAt (s : State) (asid addr : Nat) : Option View := s.views.find? fun v => v.asid == asid && v.addr == addr

/-- A write of a unit of room `r`, in an ASID; a page that is not there drops it. -/
def State.roomWrite (s : State) (r asid va : Nat) (bytes : List Byte) : State :=
  match s.engWrite (r * Config.coresPerRoom) asid va bytes with
  | .ok s => s
  | .error _ => s

/-- Bytes 96-127 of the record, as the counts stand. -/
def View.statBytes (v : View) : List Byte :=
  leBytes 4 v.culled ++ leBytes 4 v.dropped ++ leBytes 4 v.nomat ++ leBytes 4 v.nres ++
    leBytes 1 (b2n v.closed + 2 * b2n v.ovf) ++ fill 15 0
def State.viewStats (s : State) (id : Nat) : State :=
  match s.viewOf id with
  | some v => s.roomWrite v.room v.asid (v.addr + 96) v.statBytes
  | none => s

/-- A record starts to be tracked: its bytes 96-127 are written 0. -/
def State.track (s : State) (addr asid suite : Nat) (record : List Byte) : Nat × State :=
  let id := s.nextView
  let v : View := { id := id, addr := addr, asid := asid, suite := suite, record := record, room := field record 84 1 % 8 }
  (id, { s with nextView := id + 1, views := s.views ++ [v] }.viewStats id)

/-- A view whose last tile is FREE is tracked no longer. -/
def State.untrack (s : State) (id : Nat) : State :=
  match s.viewOf id with
  | some v => if v.closed && v.tiles.isEmpty then { s with views := s.views.filter (·.id != id) } else s
  | none => s

/-! ## Binning (R361, R362) -/

/-- The edge functions of three vertices (x, y, w): A, B, C for each edge (R377, R379). -/
def edges (xs ys ws : List Q) : List (Q × Q × Q) :=
  [(1, 2), (2, 0), (0, 1)].map fun (j, k) =>
    let at_ (l : List Q) (i : Nat) : Q := l.getD i Q.zero
    let cross (a b : List Q) : Q := ((at_ a j).mul (at_ b k)).sub ((at_ b j).mul (at_ a k))
    (cross ys ws, cross ws xs, cross xs ys)

/-- The component `i` of the vertices, all finite. -/
def comps (vs : List (List Word)) (i : Nat) : List Q := vs.map fun v => (qOf (v.getD i 0)).getD Q.zero

/-- det of the rows (x, y, w). -/
def detOf (xs ys ws : List Q) : Q :=
  match edges xs ys ws with
  | (a, b, c) :: _ => ((xs.headD Q.zero).mul a).add (((ys.headD Q.zero).mul b).add ((ws.headD Q.zero).mul c))
  | [] => Q.zero

/-- The primitive is culled (R362). -/
def culls (ctl : Nat) (p : Prim) : Bool :=
  let bad := p.verts.any fun v => (List.range 4).any fun i => (qOf (v.getD i 0)).isNone
  let ws := comps p.verts 3
  if bad || ws.any (fun w => !w.pos) then true
  else
    let d := detOf (comps p.verts 0) (comps p.verts 1) ws
    d.isZero || (bits ctl 3 2 == 1 && d.isNeg) || (bits ctl 3 2 == 2 && d.pos)

/-- Screen coordinates of the vertices: scale and offset words at `o`, component `i`. -/
def View.screen (v : View) (o i : Nat) (p : Prim) : List Q :=
  let sc := (qOf (v.word o)).getD Q.zero
  let off := (qOf (v.word (o + 4))).getD Q.zero
  (List.zip (comps p.verts i) (comps p.verts 3)).map fun (x, w) => off.add ((sc.mul x).div w)

/-- The tiles along an axis that a range of screen coordinates overlaps within the render target: those of whose interior it holds a
point, so that a range that only touches a tile's edge does not overlap it (log 116). -/
def tileRange (xs : List Q) (size : Nat) : List Nat :=
  let lo := Q.max (xs.foldl Q.min (xs.headD Q.zero)) Q.zero
  let hi := Q.min (xs.foldl Q.max (xs.headD Q.zero)) (Q.ofInt size)
  (List.range (ceilDiv size 32)).filter fun t => lo.lt (Q.ofInt (32 * (t + 1))) && (Q.ofInt (32 * t)).lt hi

/-- The tiles that the primitive's exact bounding box overlaps. -/
def View.tilesOf (v : View) (p : Prim) : List Nat :=
  let xs := tileRange (v.screen 52 0 p) v.width
  let ys := tileRange (v.screen 60 1 p) v.height
  ys.flatMap fun ty => xs.map fun tx => tx + ty * v.tilesX

/-- One primitive at the binning unit. -/
def View.bin (v : View) (p : Prim) : View :=
  if culls v.ctl p then { v with culled := v.culled + 1 }
  else
    let ts := v.tilesOf p
    let cost := 64 + 8 * ts.length
    if v.used + cost > v.binsz then { v with dropped := v.dropped + 1, ovf := true }
    else ts.foldl (fun v t =>
      let z : TileSt := (Tab.find v.tiles t).getD {}
      { v with tiles := Tab.put v.tiles t { z with prims := z.prims ++ [p] } }) { v with used := v.used + cost }

/-- The non-empty primitive slots of a batch, ascending. -/
def Sent.prims (x : Sent) : List Prim :=
  x.batch.prims.map fun (i, vs, id) =>
    { key := x.key ++ [i], ident := id, verts := vs.map fun n => Tab.get [0, 0, 0, 0] x.batch.pos n }

/-- A batch reaches the binning unit: after its view has closed it is only counted. -/
def State.binBatch (s : State) (x : Sent) : State :=
  match s.viewOf x.batch.view with
  | none => s
  | some v =>
    let s := if v.closed then s.modView v.id fun v => { v with dropped := v.dropped + x.batch.prims.length }
      else s.modView v.id fun v => x.prims.foldl View.bin v
    s.viewStats v.id

/-- The team's open batch is submitted. -/
def State.submitBatch (s : State) (b t : Nat) : State :=
  match (s.team b t).batch with
  | none => s
  | some q =>
    let x := s.block b
    let s := s.modTeam b t fun m => { m with batch := none }
    match s.viewOf q.view with
    | none => s
    | some v => { s with binq := Tab.set [] s.binq v.room (Tab.get [] s.binq v.room ++ [⟨b, t, [x.launch, x.bindex, t], q⟩]) }

/-- The batches a team has submitted reach the unit now. -/
def State.flushBatches (s : State) (b t : Nat) : State :=
  let mine := s.binq.flatMap fun e => e.2.filter fun x => x.b == b && x.t == t
  let s := { s with binq := (s.binq.map fun (r, xs) => (r, xs.filter fun x => !(x.b == b && x.t == t))).filter (fun e => !e.2.isEmpty) }
  mine.foldl State.binBatch s

/-! ## Counting and closing (R359, R364, R451) -/

/-- One counted team more; the last one closes the view. -/
def State.countView (s : State) (id : Nat) : State :=
  match s.viewOf id with
  | none => s
  | some v =>
    if v.closed then s
    else
      let s := s.modView id fun v => { v with counted := v.counted + 1, closed := decide (v.counted + 1 ≥ v.mteams) }
      if v.counted + 1 ≥ v.mteams then (s.viewStats id).untrack id else s

/-- A team has retired: its batch is submitted and binned, then it counts toward its views. -/
def State.countTeam (s : State) (b t : Nat) : State :=
  let m := s.team b t
  if m.done && !m.counted then
    let s := (s.submitBatch b t).flushBatches b t
    let s := s.modTeam b t fun m => { m with counted := true, opened := [] }
    m.opened.foldl State.countView s
  else s

end Sys2Proof.Machine
end

