-- ==== Sys2Proof/Machine/Release.lean ====
section
/-! DEFINITION. What a block gives back when it retires or is killed (13 R345, 14 R368, 16 R415, 03 R103). -/
namespace Sys2Proof.Machine
open Sys2Proof

/-! ## Tile references (14 R367, R368) -/

/-- The tiles whose handle is `h`, while they are resolved or shaded. -/
def TileSt.answers (z : TileSt) (h : Word) : Bool :=
  h != 0 && z.handle == h && (z.phase == .resolved || z.phase == .shading)
def State.modTile (s : State) (h : Word) (f : TileSt → TileSt) : State :=
  { s with views := s.views.map fun v => { v with tiles := v.tiles.map fun (t, z) => (t, if z.answers h then f z else z) } }
/-- The view and number of the tile a handle names. -/
def State.tileOf (s : State) (h : Word) : Option (View × Nat × TileSt) :=
  firstOf (fun (v : View) => (v.tiles.find? fun e => e.2.answers h).map fun e => (v, e.1, e.2)) s.views
def TileSt.gain (z : TileSt) : TileSt := { z with count := z.count + 1, phase := .shading }
/-- A reference less: a tile with none, which the classify engine has taken, is released. -/
def TileSt.lose (z : TileSt) : TileSt :=
  { z with count := z.count - 1, phase := if z.count ≤ 1 ∧ z.taken then .released else z.phase }
def State.dropRefs (s : State) (hs : List Word) : State := hs.foldl (fun s h => s.modTile h TileSt.lose) s

/-! ## Hitches (03 R103) -/

/-- A block leaves its hitch: its windows and those onto it are revoked (R103). -/
def State.unhitch (s : State) (b : Nat) : State :=
  match (s.block b).hitch with
  | none => s
  | some (key, n) =>
    let u := (s.block b).suite
    let post := postOfCore (s.block b).core
    { s with blocks := s.blocks.map fun (i, x) =>
        if i = b then (i, { x with hitch := none, windows := [] })
        else if x.suite = u ∧ postOfCore x.core = post ∧ (x.hitch.map Prod.fst) = some key
          then (i, { x with windows := x.windows.filter (· != n) }) else (i, x) }

/-! ## Reservations (13 R345) -/

/-- A `QCOMMIT` of the block that has issued is on its way to the reservation. -/
def Block.commits (x : Block) (q off : Nat) : Bool := x.teams.any fun m => m.ops.any fun o => o.kind == .task (.commit q off)

/-- The open reservations of a block are cancelled. -/
def State.cancelResv (s : State) (b : Nat) : State :=
  let u := (s.block b).suite
  let mine (q : Nat) (r : Resv) : Bool := r.b == b && r.state == 0 && !(s.block b).commits q r.off
  ((s.suite u).queues.map Prod.fst).foldl (fun s q =>
    if (s.queue u q).resv.any (mine q) then
      s.modQueue u q fun x => ({ x with
        resv := x.resv.map fun (r : Resv) => if mine q r then { r with state := 2 } else r }).publish s.tick
    else s) s

/-- What a block held goes back. -/
def State.releaseBlock (s : State) (b : Nat) : State :=
  let refs := (s.block b).refs
  let s := (s.dropRefs refs).modBlock b fun x => { x with refs := [] }
  (s.cancelResv b).unhitch b

/-! ## Drains (13 R331, R349) -/

/-- No block of the suite is resident (R331, R349); a killed one counts as retired (16 R415). -/
def State.suiteDrained (s : State) (u : Nat) : Bool := s.blocks.all fun (_, x) => x.suite != u || x.saved.isSome || x.killed.isSome

/-- `ctl.drained` became 1: cause 4 (17 R437). -/
def State.drainedCause (s s' : State) (u : Nat) : State :=
  if s'.suiteDrained u && !s.suiteDrained u then s'.raiseCause u 4 else s'


end Sys2Proof.Machine
end

