-- ==== Sys2Proof/Machine/Ops.lean ====
section
/-! DEFINITION. The shared operations: instruction meanings as state transformers that may stop; fetching a clause;
the frontier and the rejoin masks (03 R73-R88); taking a trap and returning from one (16 R410-R415); issuing one
instruction word of a team. -/
namespace Sys2Proof.Machine
open Sys2Proof

/-- Why an instruction's meaning stops. A stop discards what the meaning did so far, so traps are precise
(02 R43). `trap` names the lanes whose condition it is; `stall` means the instruction has not issued and is tried
again; `pageFault` that it waits for a page (07 R196). -/
inductive Stop where
  | trap (c : TrapCode) (addr : Nat) (lanes : Half)
  | stall
  | pageFault (f : PFault)
  | fault (f : Fault)
  | refuse (r : Refusal)
  deriving DecidableEq, Repr

/-- A meaning. -/
abbrev M := StateT State (Except Stop)

/-- What `exec` and `step` answer. -/
abbrev Result := Host.Outcome State Fault Refusal

def stop {α : Type} (x : Stop) : M α := fun _ => .error x
/-- `trap(code)` of 02 R70 with `sr.trapaddr`. -/
def trap {α : Type} (c : TrapCode) (addr : Nat := 0) : M α := stop (.trap c addr 0xFFFF)
/-- A trap that is lane `l`'s. -/
def trapLane {α : Type} (c : TrapCode) (addr l : Nat) : M α := stop (.trap c addr (laneMask l))
def stallM {α : Type} : M α := stop .stall
/-- `trap` when `c` holds. -/
def trapIf (c : Bool) (code : TrapCode) (addr : Nat := 0) : M Unit := if c then trap code addr else pure ()
def need (c : Bool) (f : Fault) : M Unit := if c then pure () else stop (.fault f)
def update (f : State → State) : M Unit := modify f

/-- The numeric trap code (16 R411). -/
def TrapCode.num : TrapCode → Nat
  | .illegal => 0x01 | .clause => 0x02 | .hazard => 0x03 | .badtarget => 0x04 | .regwin => 0x05
  | .misalign => 0x06 | .prot => 0x07 | .fmtdiv => 0x08 | .mtxshape => 0x09 | .barbusy => 0x0A
  | .bargone => 0x0B | .mesh => 0x0C | .refused => 0x0D | .ecc => 0x0E | .bkpt => 0x0F
  | .swtrap => 0x10 | .watch => 0x11 | .pagefatal => 0x12 | .fmtbad => 0x13

/-! ## Clause headers and fetching (02 R34, R35) -/

/-- The words of a clause as they stand at an address: header, marker, counted words. -/
structure Fetched where
  header : Word
  marker : Option Word
  words : List Word
  deriving DecidableEq, Repr

def hdrCount (h : Word) : Nat := bits h.toNat 31 28
def hdrClass (h : Word) : Nat := bits h.toNat 27 25
def hdrWait (h : Word) : Nat := bits h.toNat 24 13
def hdrSetA (h : Word) : Nat := bits h.toNat 12 9
def hdrSetB (h : Word) : Nat := bits h.toNat 8 5
def hdrG (h : Word) : Bool := bit h.toNat 4
def hdrGuard (h : Word) : Nat := bits h.toNat 3 1
def hdrM (h : Word) : Bool := bit h.toNat 0
def markerPrio (m : Word) : Nat := bits m.toNat 11 0
def markerTrace (m : Word) : Bool := bit m.toNat 12
def markerId (m : Word) : Nat := bits m.toNat 31 13

/-- What fetching an address gives: words, or why translation stops it (07 R193). -/
inductive Fetch (α : Type) where
  | ok (x : α)
  | fault (va : Nat)
  | fatal (va : Nat)
  | prot (va : Nat)

/-- One instruction word by core `c` in an ASID (07 R193: `X`; R172: 56-bit addresses). Instruction fetch is outside the memory order
(08 R199). -/
def State.fetchWord (s : State) (c asid va : Nat) : Fetch Word × State :=
  if va ≥ 2 ^ 56 then (.prot va, s)
  else match s.translate c asid va .fetch with
  | (.ok pg, s) =>
    let bytes := match pg.place va with
      | .dev pa => s.devRead pa 4
      | .host ba => readBytes s.hostMem ba 4
      | _ => []
    (.ok (BitVec.ofNat 32 (ofLe bytes)), s)
  | (.fault _, s) => (.fault va, s)
  | (.fatal, s) => (.fatal va, s)
  | (_, s) => (.prot va, s)

/-- `n` consecutive words. -/
def State.fetchWords (s : State) (c asid va : Nat) : Nat → Fetch (List Word) × State
  | 0 => (.ok [], s)
  | n + 1 =>
    match s.fetchWord c asid va with
    | (.ok w, s) =>
      match s.fetchWords c asid (va + 4) n with
      | (.ok r, s) => (.ok (w :: r), s)
      | (.fault v, s) => (.fault v, s)
      | (.fatal v, s) => (.fatal v, s)
      | (.prot v, s) => (.prot v, s)
    | (.fault v, s) => (.fault v, s)
    | (.fatal v, s) => (.fatal v, s)
    | (.prot v, s) => (.prot v, s)

/-- The clause at an address, all its words (log 20: a clause is fetched whole before it starts). -/
def State.fetchClause (s : State) (c asid va : Nat) : Fetch Fetched × State :=
  match s.fetchWord c asid va with
  | (.ok h, s) =>
    let n := hdrCount h + b2n (hdrM h)
    match s.fetchWords c asid (va + 4) n with
    | (.ok ws, s) =>
      if hdrM h then (.ok ⟨h, ws.head?, ws.tail⟩, s) else (.ok ⟨h, none, ws⟩, s)
    | (.fault v, s) => (.fault v, s)
    | (.fatal v, s) => (.fatal v, s)
    | (.prot v, s) => (.prot v, s)
  | (.fault v, s) => (.fault v, s)
  | (.fatal v, s) => (.fatal v, s)
  | (.prot v, s) => (.prot v, s)

/-- What stands at a transfer target: a marked clause with its priority, an unmarked word, or a failed fetch. -/
def State.marked (s : State) (c asid va : Nat) : Fetch (Option Nat) × State :=
  match s.fetchWords c asid va 2 with
  | (.ok ws, s) =>
    match ws with
    | [h, m] => (.ok (if hdrM h then some (markerPrio m) else none), s)
    | _ => (.ok none, s)
  | (r, s') =>
    -- the word after an unmarked header need not exist
    match s.fetchWord c asid va with
    | (.ok h, s) => if hdrM h then ((match r with
        | .fault v => .fault v | .fatal v => .fatal v | .prot v => .prot v | .ok _ => .ok none), s') else (.ok none, s)
    | (.fault v, s) => (.fault v, s)
    | (.fatal v, s) => (.fatal v, s)
    | (.prot v, s) => (.prot v, s)

/-! ## The frontier (03 R73-R75) -/

/-- An entry joins a frontier: equal PC and equal held state merge (R74). -/
def mergeEntry (e : Entry) : List Entry → List Entry
  | [] => [e]
  | x :: r => if x.pc = e.pc ∧ x.held = e.held
    then { x with mask := x.mask ||| e.mask, prio := max x.prio e.prio } :: r
    else x :: mergeEntry e r

/-- Merging of all entries, empty masks dropped (R73, R74). -/
def mergeAll (es : List Entry) : List Entry := (es.filter (fun e => e.mask != 0)).foldl (fun a e => mergeEntry e a) []

/-- `x` ranks before `y`: larger priority, then lower PC (R75). -/
def Entry.before (x y : Entry) : Bool := decide (x.prio > y.prio) || (decide (x.prio = y.prio) && decide (x.pc < y.pc))

/-- The entry that ranks first. -/
def firstEntry : List Entry → Option Entry
  | [] => none
  | e :: r => match firstEntry r with
    | none => some e
    | some f => if f.before e then some f else some e

/-- The entry the team issues from: the first open one (R75). -/
def issueEntry (es : List Entry) : Option Entry := firstEntry (es.filter (·.held.isNone))

/-- The frontier without the lanes of a mask. -/
def dropLanes (m : Half) (es : List Entry) : List Entry :=
  (es.map fun e => { e with mask := e.mask &&& ~~~m }).filter (fun e => e.mask != 0)

/-! ## Rejoin masks (03 R84-R88) -/

def Team.join (m : Team) (n : Nat) : JMask := Tab.get {} m.joins n
def Team.setJoin (m : Team) (n : Nat) (j : JMask) : Team := { m with joins := Tab.set {} m.joins n j }

/-- Missing lanes (R84). -/
def Team.missing (m : Team) (n : Nat) : Half :=
  let j := m.join n
  j.expect &&& ~~~j.arrived &&& ~~~m.retired

/-- `release(N)` of R87. -/
def Team.release (m : Team) (n : Nat) : Team :=
  { (m.setJoin n {}) with
    frontier := mergeAll (m.frontier.map fun e => if e.held = some n then { e with held := none } else e) }

/-- The test of mask `n` over the team's frontier (R87). -/
def Team.testJoin (m : Team) (n : Nat) : Team :=
  let held := m.frontier.filter (fun e => e.held == some n)
  if held.isEmpty then m
  else if (match m.kept with | some k => k.frontier.any (fun e => e.held == some n) | none => false) then m
  else
    let p := held.foldl (fun a e => min a e.prio) 4096
    let miss := m.missing n
    let low := (m.frontier.filter (fun e => decide (e.prio ≤ p))).foldl (fun a e => a ||| e.mask) 0
    let lost (m : Team) : Team := { m with rejoinlost := m.rejoinlost + 1 }
    if miss = 0 then m.release n
    else if miss &&& ~~~low = 0 then lost (m.release n)
    else if m.frontier.all (·.held.isSome) && (firstEntry m.frontier).any (fun e => e.held == some n)
      then lost (m.release n)
    else m

/-- The tests of R87, masks in ascending order. -/
def Team.testJoins (m : Team) : Team := (List.range 8).foldl Team.testJoin m

/-! ## Clause end (03 R74, R83) -/

/-- The entries of a clause's lanes at its end: a lane that moved goes to its target, a held lane to its mask, any
other falls through to `next` with priority `fall` where the next clause is marked (R74). -/
def Clause.outcome (cl : Clause) (retired : Half) (next : Nat) (fall : Option Nat) : List Entry :=
  (lanesOf (cl.mask &&& ~~~retired)).map fun l =>
    match cl.moves.find? (·.lane == l) with
    | some m => { pc := m.pc, prio := m.prio, mask := laneMask l }
    | none => match cl.hold with
      | some (n, h) => if laneIn h l then { pc := next, prio := cl.prio, mask := laneMask l, held := some n }
          else { pc := next, prio := fall.getD cl.prio, mask := laneMask l }
      | none => { pc := next, prio := fall.getD cl.prio, mask := laneMask l }

/-- A retired team none of whose tracked instructions is outstanding gives back its tags and its lane-private lines
(R83; 07 R174). -/
def Team.freed (m : Team) : Team := if m.done && m.ops.isEmpty then { m with tags := [], lpTouched := [], lpData := [] } else m

/-- A team with no lane left retires (R83); in trap context the kept lanes still count. -/
def Team.settleDone (m : Team) : Team :=
  if m.frontier.isEmpty && (match m.kept with | some k => k.frontier.isEmpty | none => true)
  then { m with done := true, kept := none, stall := none }.freed else m

/-- Lanes retire (R83): they leave the frontier, and the kept one (R76). -/
def Team.retireLanes (m : Team) (r : Half) : Team :=
  { m with retired := m.retired ||| r
           kept := m.kept.map fun k => { k with frontier := dropLanes r k.frontier } }

/-- The frontier after a clause's end (R74), then the rejoin tests and retirement. -/
def Team.endClause (m : Team) (cl : Clause) (fall : Option Nat) : Team :=
  let rest := dropLanes cl.mask m.frontier
  let m := { m with clause := none, frontier := mergeAll (rest ++ cl.outcome m.retired cl.pc fall) }
  m.testJoins.settleDone

/-- The wake of a block's sleepers (03 R91, 16 R425). -/
def Block.wake (x : Block) : Block :=
  { x with teams := x.teams.map fun m => match m.stall with
      | some (.sleep _) => { m with stall := none }
      | _ => m }

/-- The priority a lane takes when it falls through to `va`: the marker's, where the clause there is marked and can
be read (R74; log 21). -/
def State.fallPrio (s : State) (b va : Nat) : Option Nat × State :=
  let x := s.block b
  match s.marked x.core x.asid va with
  | (.ok p, s) => (p, s)
  | (_, s) => (none, s)

/-- Some lane of the clause falls through. -/
def Clause.falls (cl : Clause) (retired : Half) : Bool :=
  (cl.outcome retired cl.pc none).any (fun e => e.held.isNone && !(cl.moves.any (fun m => laneIn e.mask m.lane)))

/-! ## Traps (16 R410-R415) -/

/-- An operation that a kill lets complete: an access that has issued, not a wait for a queue's entry or room, for a view's open
batch or for a tile (R415). -/
def OpKind.finishes : OpKind → Bool
  | .task (.pop ..) => false
  | .task (.reserve ..) => false
  | .mdecl .. => false
  | .tileAcq .. => false
  | _ => true

/-- A double trap kills the block: its teams stop, and it gives back what it held; the accesses and jobs it has issued
go on (R415). -/
def State.killBlock (s : State) (b pc : Nat) : State :=
  let s0 := s
  let s := s.modBlock b fun x => { x with
    killed := some pc
    saving := none
    frameNo := none
    teams := x.teams.map fun m => { m with
      done := true
      clause := none
      kept := none
      frontier := []
      stall := none
      delayed := []
      ops := m.ops.filter (·.kind.finishes)
      txs := []
      batch := none } }
  let s := (List.range (s.block b).teams.length).foldl (fun s t => s.countTeam b t) s
  let s := s0.drainedCause ((s.releaseBlock b).refuse (s.block b).suite 8 pc (s.block b).core) (s.block b).suite
  match s.focus with
  | some (.team b' _) => if b' = b then { s with focus := none } else s
  | some (.seq b') => if b' = b then { s with focus := none } else s
  | none => s

/-- A trap to take: its code and flags (R412), the address of its instruction, `sr.trapaddr`, the resume point. -/
structure TrapInfo where
  code : TrapCode
  pc : Nat
  addr : Nat
  resume : Nat
  delayed : Bool := false
  mstream : Bool := false
  deriving DecidableEq, Repr

def TrapInfo.word (i : TrapInfo) : Word :=
  BitVec.ofNat 32 (i.code.num + (if i.delayed then 256 else 0) + (if i.mstream then 512 else 0))

/-- The lanes the handler runs for: the active lanes of the clause the trap is taken in (R413); all its lanes when
none is active, since a frontier entry is never empty (log 22). -/
def Clause.handlerMask (cl : Clause) : Half := if cl.act = 0 then cl.mask else cl.act

/-- Trap entry (R413): the clause ends, the trap registers are written, the frontier is kept and frozen, the team
enters trap context at the vector. In trap context, and at a vector that is not a marked clause, it is a double
trap (R415); a vector whose page is absent is read when the handler's first clause is fetched (07 R193). -/
def State.takeTrap (s : State) (b t : Nat) (cl : Clause) (i : TrapInfo) : State :=
  let m := s.team b t
  let x := s.block b
  if m.context = .trap then s.killBlock b i.pc
  else
    let s1 := s.modTeam b t fun m => { m with
      trapcode := i.word
      trappc := BitVec.ofNat 64 i.pc
      trapaddr := BitVec.ofNat 64 i.addr
      trapresume := BitVec.ofNat 64 i.resume }
    let enter (s : State) (p : Nat) (unread : Bool) : State :=
      let s := s.modTeam b t fun m => { m with
        count := m.count + 1
        prev := none
        kept := some ⟨m.frontier, cl, cl.pc + 4 * cl.words.length⟩
        frontier := [⟨x.trapvec, p, cl.handlerMask, none⟩]
        clause := none
        stall := none
        recorded := m.context
        context := .trap
        vecUnread := unread }
      if s.focus = some (.team b t) then { s with focus := none } else s
    match s1.marked x.core x.asid x.trapvec with
    | (.ok (some p), s) => enter s p false
    | (.fault _, s) => enter s 0 true
    | (_, s) => s.killBlock b i.pc

/-! ## Traps of the matrix stream (11 R286) -/

def State.modMtx (s : State) (b : Nat) (f : Mtx → Mtx) : State := s.modBlock b fun x => { x with mtx := f x.mtx }

/-- The team that takes the stream's trap: the owner, else the lowest one not retired (R286). -/
def Block.trapTarget (x : Block) (owner : Nat) : Option Nat :=
  if owner < x.teams.length && !(x.team owner).done then some owner
  else (List.range x.teams.length).find? fun t => !(x.team t).done

/-- The word waits for the matrix program or a barrier: `RENDEZ`, `BWAIT`, `BSYNC`. -/
def meetsStream (cls : Nat) (w : Word) : Bool :=
  let op := bits w.toNat 30 24
  (cls == 1 && (op == 0x13 || op == 0x14)) || (cls == 4 && op == 0x01)

/-- Operations of a team on their way to the barrier unit are withdrawn. -/
def BarOp.ofTeam (t : Nat) : BarOp → Bool
  | .init u .. => u == t
  | .arrive u .. => u == t
  | .wait u _ => u == t
  | .inval u _ => u == t
  | .test u .. => u == t
  | .post u .. => u == t
  | _ => false

/-- The team takes the stream's trap before the instruction its clause stands at; a `BSYNC` that has arrived will only
wait when it is resumed. -/
def State.streamTrap (s : State) (b t : Nat) (i : MTrap) : State :=
  match (s.team b t).clause with
  | none => s
  | some cl =>
    let s := s.modBlock b fun x => { x with
      mtx := { x.mtx with trap := none }
      barOps := x.barOps.filter fun o => !o.op.ofTeam t }
    let s := s.modTeam b t fun m => match m.stall with
      | some (.barrier _) => { m with arrivedAt := some cl.pc }
      | _ => m
    s.takeTrap b t cl { code := i.code, pc := i.pc, addr := i.addr, resume := cl.pc, delayed := true, mstream := true }

/-- The stream's trap is offered: a target that stalls where it may take it takes it at once; without a team it is
discarded. -/
def State.offerTrap (s : State) (b : Nat) : State :=
  match (s.block b).mtx.trap with
  | none => s
  | some i => match (s.block b).trapTarget i.owner with
    | none => s.modMtx b fun m => { m with trap := none }
    | some t =>
      let m := s.team b t
      match m.clause with
      | some cl => if m.stall.isSome && m.context != .trap && meetsStream cl.cls (cl.words.headD 0)
          then s.streamTrap b t i else s
      | none => s

/-! ## Ends of clauses and of teams -/

/-- What a team's retirement does: its views count it, it wakes the block's sleepers, and a trap of the stream goes to another
team (11 R286). -/
def State.teamEnd (s : State) (b t : Nat) : State :=
  let s := s.countTeam b t
  if (s.team b t).done then (s.modBlock b Block.wake).offerTrap b else s

/-- The team halts, and the debug interface learns of it (R420; 17 R437); what is held pending in trap context stays so until
`TRET`. -/
def State.haltTeam (s : State) (b t : Nat) : State :=
  (s.modTeam b t fun m => { m with halted := true, haltPending := m.haltPending && m.context == .trap }).raiseCause (s.block b).suite 5

/-- The clause of a team ends: the frontier is rebuilt, a pending halt is taken, and a retired team wakes the
block's sleepers. -/
def State.endClause (s : State) (b t : Nat) (cl : Clause) : State :=
  let (fall, s) := if cl.falls (s.team b t).retired then s.fallPrio b cl.pc else (none, s)
  let s := (s.modTeam b t (·.endClause cl fall)).teamEnd b t
  let m := s.team b t
  let s := if m.haltPending && m.context != .trap && !m.done then s.haltTeam b t else s
  if s.focus = some (.team b t) then { s with focus := none } else s

/-- `TRET` (R414) in trap context: the handler's frontier is discarded, the kept one returns, and the trapped entry
goes on at `sr.trapresume`. -/
def State.trapReturn (s : State) (b t pc : Nat) : Except Stop State :=
  let m := s.team b t
  let x := s.block b
  match m.kept with
  | none => .ok (s.killBlock b pc)
  | some k =>
    let r := m.trapresume.toNat
    let cl := { k.clause with mask := k.clause.mask &&& ~~~m.retired, act := k.clause.act &&& ~~~m.retired }
    let back (s : State) : State := s.modTeam b t fun m =>
      { m with frontier := k.frontier, kept := none, context := m.recorded, clause := none }
    let blocked (va : Nat) : Except Stop State :=
      .error (.pageFault { asid := x.asid, va := va / 4096 * 4096, kind := 2, readOnly := false, who := .block b, addr := va })
    if decide (cl.body ≤ r) && decide (r < k.next) && decide (r % 4 = 0) then
      -- the clause's words from `r` on, as they stand in memory
      match s.fetchWords x.core x.asid r ((k.next - r) / 4) with
      | (.ok ws, s) =>
        .ok (((back s).modTeam b t fun m =>
          if cl.mask = (0 : Half) then m.testJoins.settleDone
          else { m.testJoins with clause := some { cl with pc := r, words := ws } }).teamEnd b t)
      | (.fault va, _) => blocked va
      | (_, s) => .ok (s.killBlock b pc)
    else if r = k.next then .ok ((back s).endClause b t { cl with pc := r, words := [] })
    else match s.marked x.core x.asid r with
      | (.ok (some p), s) =>
        let moves := (lanesOf cl.mask).map fun l => Move.mk l r p
        .ok ((back s).endClause b t { cl with pc := r, words := [], moves := moves })
      | (.fault va, _) => blocked va
      | (_, s) =>
        .ok ((s.modTeam b t fun m => { m with trapcode := BitVec.ofNat 32 TrapCode.badtarget.num }).killBlock b pc)

/-- A page fault is recorded, and the block is to be saved (07 R196, R477). -/
def State.pageFault (s : State) (b : Nat) (f : PFault) : State :=
  { (s.modBlock b fun x => { x with faulted := addNew f.t x.faulted }) with faults := s.faults ++ [f] }

end Sys2Proof.Machine
end

