-- ==== Sys2Proof/Machine/Flags.lean ====
section
/-! DEFINITION. Completion flags, register tags and mode fields: which instructions a flag tracks (02 R40), when it
is busy, what tags mark and when they clear (02 R58, R59), the fields of `FMODE` (06 R152). -/
namespace Sys2Proof.Machine
open Sys2Proof

/-- Some outstanding instruction is tracked by flag `f` (R40). -/
def Team.busy (m : Team) (f : Nat) : Bool := m.ops.any (fun o => o.flag == some f)

/-- Every flag of a wait mask is clear (R34). -/
def Team.waitClear (m : Team) (mask : Nat) : Bool := (List.range 12).all (fun f => !bit mask f || !m.busy f)

/-- The tag of the register an operand byte names. -/
def Team.tag (m : Team) (byte : Nat) : Option Tag := Tab.find m.tags byte

/-- Tags of the flags in a wait mask are cleared when a clause starts (R58). -/
def Team.clearTags (m : Team) (mask : Nat) : Team :=
  { m with tags := m.tags.filter (fun e => match e.2 with | .flag f => !bit mask f | .token => true) }

/-- The registers named are tagged. -/
def Team.setTags (m : Team) (bytes : List Nat) (g : Tag) : Team :=
  { m with tags := bytes.foldl (fun t k => Tab.put t k g) m.tags }

/-- The flag field as a flag: 15 is none (R34). -/
def flagField (f : Nat) : Option Nat := if f < 12 then some f else none

/-! ## FMODE (06 R152) -/

def fRnd (f : Word) : Nat := bits f.toNat 2 0
def fFtz (f : Word) : Bool := bit f.toNat 3
def fCb (f : Word) : Nat := bits f.toNat 6 4
def fInvq (f : Word) : Bool := bit f.toNat 7

/-- The value a write of `FMODE` stores: reserved bits dropped, `RND` 6 and 7 stored as 0 (R152). -/
def fmodeOf (w : Word) : Word :=
  let v := w.toNat % 256
  BitVec.ofNat 32 (if v % 8 ≥ 6 then v / 8 * 8 else v)

/-- The sticky flag `INVQ` set (05 R137). -/
def Team.setInvq (m : Team) : Team := { m with fmode := m.fmode ||| 128 }

end Sys2Proof.Machine
end

