-- ==== Sys2Proof/Machine/Issue.lean ====
section
/-! DEFINITION. Issuing one instruction word of a team: the active set, transactions (09 R233, R234), the `HAZARD`
check (02 R58, R59), the meaning, and what follows it: the next word, the clause's end, a trap, a stall. -/
namespace Sys2Proof.Machine
open Sys2Proof

/-- What a meaning sees of its issue: who issues, the team, block and clause as they stood, the active lanes. -/
structure Issue where
  b : Nat
  t : Nat
  blk : Block
  tm : Team
  cl : Clause
  act : Half
  tick : Nat
  info : Info

/-- The instruction's address. -/
def Issue.pc (k : Issue) : Nat := k.cl.pc
/-- The address of the next clause (03 R81). -/
def Issue.nextClause (k : Issue) : Nat := k.cl.pc + 4 * k.cl.words.length
/-- The instruction's length in bytes: two words with a literal (R44). -/
def wordsLen (ws : List Word) : Nat := if ws.head?.any (fun w => bit w.toNat 31) then 2 else 1
/-- The address of the next word. -/
def Issue.nextWord (k : Issue) : Nat := k.cl.pc + 4 * wordsLen k.cl.words
def Issue.lanes (k : Issue) : List Nat := lanesOf k.act
/-- Change the issuing team. -/
def Issue.mod (k : Issue) (f : Team → Team) : M Unit := modify (·.modTeam k.b k.t f)
/-- Change the issuing team's block. -/
def Issue.modB (k : Issue) (f : Block → Block) : M Unit := modify (·.modBlock k.b f)
/-- The team waits; the instruction keeps its place until the wait's owner ends it. -/
def Issue.park (k : Issue) (w : Wait) : M Unit := k.mod fun m => { m with stall := some w }

/-! ## Transactions of lanes (09) -/

def Team.tx (m : Team) (l : Nat) : Option Tx := Tab.get none m.txs l
def Team.stat (m : Team) (l : Nat) : TxStat := Tab.get {} m.txstat l
def Team.openTx (m : Team) : Half := maskOf fun l => (m.tx l).isSome

/-- The status word (09 R239) without `open`. -/
def TxStat.word (x : TxStat) : Word :=
  BitVec.ofNat 32 (x.code + 256 * x.detail + 65536 * x.tries + (if x.senior then 16777216 else 0))

/-- Write lane `l` of a v-register. -/
def Team.setV (m : Team) (r l : Nat) (x : Word) : Team := { m with vregs := Tab.set 0 m.vregs (r * 16 + l) x }

/-- A lane does nothing more in a clause, and moves at its end if it is to. -/
def Clause.without (cl : Clause) (l : Nat) (dest : Option (Nat × Nat)) : Clause :=
  { cl with act := cl.act &&& ~~~laneMask l
            moves := match dest with | some (pc, prio) => cl.moves ++ [⟨l, pc, prio⟩] | none => cl.moves }

/-- A lane of a frontier goes to an address. -/
def sendLane (es : List Entry) (l pc prio : Nat) : List Entry :=
  mergeAll (dropLanes (laneMask l) es ++ [⟨pc, prio, laneMask l, none⟩])

/-- Lane `l`'s transaction aborts (R233, R239): the status is kept and written to its register, held stores are
dropped, and the lane goes to the abort point, at the end of the clause it runs or at once. In trap context it goes there from the
clause or the frontier that the trap kept, and the handler goes on without it until its clause's end (log 109). -/
def Team.abortTx (m : Team) (l code detail : Nat) : Team :=
  match m.tx l with
  | none => m
  | some x =>
    let o := m.stat l
    let st : TxStat := { code := code, detail := detail, tries := min 255 (o.tries + 1), senior := x.senior, first := o.first }
    let m := { m with txs := Tab.set none m.txs l none, txstat := Tab.set {} m.txstat l st }
    let m := m.setV x.reg l st.word
    match m.kept with
    | some k =>
      { m with
        clause := m.clause.map fun cl => if laneIn cl.mask l then cl.without l none else cl
        kept := some (if laneIn k.clause.mask l then { k with clause := k.clause.without l (some (x.abortPc, x.abortPrio)) }
          else { k with frontier := sendLane k.frontier l x.abortPc x.abortPrio }) }
    | none => match m.clause with
      | some cl =>
        if laneIn cl.mask l then { m with clause := some (cl.without l (some (x.abortPc, x.abortPrio))) }
        else { m with frontier := sendLane m.frontier l x.abortPc x.abortPrio }
      | none => { m with frontier := sendLane m.frontier l x.abortPc x.abortPrio }

/-- A transaction of the team has been open for 65,536 ticks: it aborts before the team does anything more (R235). -/
def Team.txOverdue (m : Team) (tick : Nat) : Bool :=
  m.txs.any fun e => match e.2 with | some x => decide (x.begun + Config.txTicks ≤ tick) | none => false

/-- The lanes of a mask abort. -/
def Team.abortLanes (m : Team) (mask : Half) (code detail : Nat) : Team :=
  (lanesOf mask).foldl (fun m l => m.abortTx l code detail) m

/-! ## Tags (02 R58, R59) -/

/-- The operand bytes an operand covers. -/
def Req.bytes (r : Req) : List Nat :=
  match r.o with
  | .v i => (List.range r.n).map (· + i.val)
  | .s i => (List.range r.n).map (· + (96 + i.val))
  | _ => []

/-- What a tag does to an operand: a flag tag is `HAZARD`, a token tag stalls a read and is `HAZARD` to a write. -/
inductive TagCheck where
  | free
  | hazard
  | wait
  deriving DecidableEq, Repr

/-- The check of one operand field (R59). A field that the instruction both reads and writes stalls on a token, as a read
does; a `d` field of its own is `HAZARD`, also where another field reads the same register (log 110). -/
def Team.checkReq (m : Team) (r : Req) : TagCheck :=
  if (Req.bytes r).any (fun k => match m.tag k with
      | some (.flag _) => true
      | some .token => r.role == .dst
      | none => false) then .hazard
  else if (Req.bytes r).any (fun k => (m.tag k).isSome) then .wait
  else .free

/-- The check of every operand of an instruction. -/
def Team.checkTags (m : Team) (i : Info) : TagCheck :=
  if i.shape.reqs.any (fun r => m.checkReq r == .hazard) then .hazard
  else if i.shape.reqs.any (fun r => m.checkReq r == .wait) then .wait
  else .free

def tagGuard (k : Issue) : M Unit :=
  match k.tm.checkTags k.info with
  | .free => pure ()
  | .hazard => trap .hazard
  | .wait => stallM

/-! ## One word -/

/-- The clause after its first instruction has issued. -/
def Clause.advance (cl : Clause) : Clause :=
  { cl with pc := cl.pc + 4 * wordsLen cl.words, words := cl.words.drop (wordsLen cl.words) }

/-- The instruction has issued: the next word, or the clause's end (R38). -/
def State.finish (s : State) (b t : Nat) : State :=
  match (s.team b t).clause with
  | none => s
  | some cl0 =>
    let s := s.modTeam b t fun m =>
      { m with prev := some ⟨cl0, m.frontier, m.joins, m.rejoinlost⟩, count := m.count + 1 }
    let cl := cl0.advance
    if cl.words.isEmpty then s.endClause b t cl
    else s.modTeam b t fun m => { m with clause := some cl }

/-- Where a handler that returns at once resumes (16 R411): at the instruction, or at the next for the software
traps. -/
def resumeOf (c : TrapCode) (k : Issue) : Nat :=
  match c with
  | .bkpt => k.nextWord
  | .swtrap => k.nextWord
  | .refused => k.nextWord
  | .ecc => k.nextWord
  | _ => k.pc

/-- The team begins to issue: it waits for nothing. -/
def Team.begin (m : Team) (tick : Nat) : Team := { m with stall := none, lastIssue := tick, waitedFrom := m.lastIssue }

/-- The instruction has not issued: the team tries it again, and has waited since its last issue (01 R15). -/
def Team.retry (m : Team) : Team := { m with stall := some .retry, lastIssue := m.waitedFrom }

/-- What follows a stop of a team's instruction. -/
def State.stopped (s : State) (k : Issue) : Stop → Result
  | .trap c addr _ => .next (s.takeTrap k.b k.t k.cl { code := c, pc := k.pc, addr := addr, resume := resumeOf c k })
  | .stall => .next (s.modTeam k.b k.t Team.retry)
  | .pageFault f => .next ((s.modTeam k.b k.t Team.retry).pageFault k.b { f with t := k.t, pc := k.pc })
  | .fault f => .fault f
  | .refuse r => .refused r

/-- The issue of an instruction by the team in focus. -/
def State.issueOf (s : State) (i : Info) (b t : Nat) (cl : Clause) : Issue :=
  { b := b, t := t, blk := s.block b, tm := s.team b t, cl := cl, act := cl.act, tick := s.tick, info := i }

/-- The team keeps its instruction: it waits for a unit or for its next try. A sleeping team has issued its `SLEEP`. -/
def Team.parked (m : Team) : Bool :=
  match m.stall with
  | none => false
  | some (.sleep _) => false
  | some _ => true

/-- One instruction of team `t` of block `b`: with an empty active set it only issues (R39); lanes inside a
transaction that may not perform it abort (R234), and so do lanes inside one whose condition would trap; else the
meaning runs, and its stop, if any, is taken. `TRET`, which changes the context, sets the next word itself. The fuel
bounds how often lanes abort. -/
def issueLoop : Nat → Info → (Issue → M Unit) → Nat → Nat → State → Result
  | 0, _, _, _, _, s => .next s
  | n + 1, i, body, b, t, s =>
    match (s.team b t).clause with
    | none => .fault .noIssuer
    | some cl =>
      let m := s.team b t
      let bad : Half := if i.tx then 0 else cl.act &&& m.openTx
      if bad != 0 then issueLoop n i body b t (s.modTeam b t (·.abortLanes bad 4 0))
      else if cl.act = 0 then .next (s.finish b t)
      else
        let k := s.issueOf i b t cl
        match (do tagGuard k; body k : M Unit) s with
        | .ok (_, s') =>
          if (s'.team b t).parked || (s'.team b t).context != m.context then .next s' else .next (s'.finish b t)
        | .error (.trap c addr ls) =>
          let hit := cl.act &&& ls &&& m.openTx
          if hit = 0 then s.stopped k (.trap c addr ls)
          else issueLoop n i body b t (s.modTeam b t (·.abortLanes hit 4 c.num))
        | .error e => s.stopped k e

/-- Run a meaning as the next word of the team in focus. -/
def issue (i : Info) (body : Issue → M Unit) (s : State) : Result :=
  match s.focus with
  | some (.team b t) =>
    issueLoop 18 i body b t (s.modTeam b t (·.begin s.tick))
  | _ => .fault .noIssuer

/-- A step of the device: it happens, or its conditions do not hold. -/
def deviceStep (body : M Unit) (s : State) : Result :=
  match body s with
  | .ok (_, s) => .next s
  | .error (.fault f) => .fault f
  | .error (.refuse r) => .refused r
  | .error _ => .fault .notEnabled

end Sys2Proof.Machine
end

