-- ==== Sys2Proof/Machine/StashRec.lean ====
section
/-! DEFINITION. Stash and global memory as the device's own agents reach them: records in stash, mapped lines
touched on the way (07 R183). -/
namespace Sys2Proof.Machine
open Sys2Proof

/-- The map entry that covers a stash line (07 R183). -/
def Block.mapOf (x : Block) (line : Nat) : Option (Nat × MapEntry) :=
  x.maps.find? fun e => decide (e.2.line ≤ line) && decide (line < e.2.line + e.2.count)

/-- The stash line of a mapping takes the home's data; the home records its holder (R183). -/
def State.fillLine (s : State) (h k l : Nat) : State :=
  match (s.block h).mapOf k with
  | none => s
  | some (i, m) =>
    let data := s.lineBytes l
    let s := match s.holder l with
      | some (h', _, k') => if h' = h ∧ k' = k then s else s.recall l
      | none => s
    s.modBlock h fun x => { x with
      stash := writeBytes x.stash (k * 128) data
      maps := Tab.put x.maps i { m with touched := addNew k m.touched, filled := Tab.put m.filled k l } }

/-- A line of block `b`'s stash is made ready: a mapped line not held is filled through its home. -/
def State.reachLine (s : State) (b k : Nat) (store : Bool) : Except Miss State :=
  let x := s.block b
  match x.mapOf k with
  | none => .ok s
  | some (i, m) =>
    let va := m.va + (k - m.line) * 128
    match s.translate x.core x.asid va (if store then .store else .load) with
    | (.ok pg, s) => match pg.place va with
      | .dev pa =>
        let l := pa / 128
        if s.holder l != some (b, i, k) && s.poisoned (l * 128) 128 then .error ⟨.poison, x.asid, va, store⟩ else
        let s := (s.leaseRead x.core l Config.lease).readBy x.asid l
        let s := if s.holder l == some (b, i, k) then s else s.fillLine b k l
        if store then
          let s := (s.stampWrite x.core l).setHomeLine l { (s.stampWrite x.core l).homeLine l with writer := x.asid }
          .ok (s.modBlock b fun x => { x with maps := x.maps.map fun (j, m) =>
            if j = i then (j, { m with dirty := addNew k m.dirty }) else (j, m) })
        else .ok s
      | _ => .error ⟨.prot, x.asid, va, store⟩
    | (r, _) => .error ⟨r, x.asid, va, store⟩

/-- The lines of a range. -/
def linesOf (off n : Nat) : List Nat := (List.range (ceilDiv (off % 128 + n) 128)).map (· + off / 128)

/-- `n` bytes of block `b`'s stash. -/
def State.stashGet (s : State) (b off n : Nat) : Except Miss (List Byte × State) := do
  let s ← (linesOf off n).foldlM (fun s k => s.reachLine b k false) s
  pure (readBytes (s.block b).stash off n, s)

/-- Bytes stored to block `b`'s stash. -/
def State.stashPut (s : State) (b off : Nat) (bytes : List Byte) : Except Miss State := do
  let s ← (linesOf off bytes.length).foldlM (fun s k => s.reachLine b k true) s
  pure (s.modBlock b fun x => { x with stash := writeBytes x.stash off bytes })

/-- A miss met by a team's instruction: a page fault holds it, anything else traps. -/
def Miss.stop (m : Miss) (b : Nat) : Stop :=
  match m.why with
  | .fault ro => .pageFault { asid := m.asid, va := m.va / 4096 * 4096, kind := b2n m.store, readOnly := ro, who := .block b, addr := m.va }
  | .fatal => .trap .pagefatal m.va 0xFFFF
  | .poison => .trap .ecc m.va 0xFFFF
  | _ => .trap .prot m.va 0xFFFF

/-! ## Program order with the team's accesses (08 R200) -/

/-- The operation is a global or stash access of the team (R195). -/
def Op.isAccess (o : Op) : Bool :=
  match o.kind with
  | .load => true
  | .store => true
  | .atomic .. => true
  | .unit _ => true
  | .binPush .. => true
  | _ => false
def Elem.isHost (e : Elem) : Bool := match e.place with | some (.host _) => true | _ => false
/-- Every element of the team's memory order has performed; of those before operation `since`, if one is named. -/
def Team.calm (m : Team) (since : Option Nat := none) : Bool :=
  m.ops.all fun o => !o.isAccess || (match since with | some n => decide (n ≤ o.id) | none => false) ||
    o.els.all fun e => e.done || e.isHost

/-- What the instruction reads comes after the team's earlier accesses: it waits for them. -/
def Issue.inOrder (k : Issue) : M Unit := if k.tm.calm then pure () else stallM

/-- A record in the block's own stash, read at issue: inside the declared stash, then aligned (10 R243). -/
def Issue.record (k : Issue) (off n align : Nat) : M (List Byte) := do
  trapIf (decide (off + n > k.blk.stashSize)) .prot off
  trapIf (decide (off % align ≠ 0)) .misalign off
  k.inOrder
  let s ← get
  match s.stashGet k.b off n with
  | .ok (bytes, s) => do set s; pure bytes
  | .error m => stop (m.stop k.b)

/-- Bytes an instruction stores to the block's own stash. -/
def Issue.putStash (k : Issue) (off : Nat) (bytes : List Byte) : M Unit := do
  let s ← get
  match s.stashPut k.b off bytes with
  | .ok s => set s
  | .error m => stop (m.stop k.b)

end Sys2Proof.Machine
end

