-- ==== Sys2Proof/Machine/Ring.lean ====
section
/-! DEFINITION. Slot rings (10 R258-R264): their headers in stash, acquisition and release. -/
namespace Sys2Proof.Machine
open Sys2Proof

/-- A ring header (R258). -/
structure RingHdr where
  slots : Nat
  mode : Nat
  share : Nat
  size : Nat
  wptr : Nat
  rptr : Nat
  free : Nat
  filled : Nat
  held : Nat
  deriving DecidableEq, Repr

def RingHdr.of (r : List Byte) : RingHdr :=
  { slots := field r 0 1, mode := field r 1 1 % 4, share := max 1 (field r 3 1), size := field r 4 4
    wptr := field r 8 4, rptr := field r 12 4, free := field r 16 4, filled := field r 20 4, held := field r 24 4 }

/-- The counters, as they stand from byte 8 on. -/
def RingHdr.counts (h : RingHdr) : List Byte :=
  [h.wptr, h.rptr, h.free, h.filled, h.held].flatMap fun x => leBytes 4 (x % 2 ^ 32)

def RingHdr.isFill (h : RingHdr) : Bool := decide (h.mode < 2)
/-- Stash offset of slot `i`. -/
def RingHdr.slotOff (h : RingHdr) (hdr i : Nat) : Nat := hdr + 32 + i * h.size

def Block.ring (x : Block) (hdr : Nat) : Option Ring := Tab.find x.rings hdr
def Block.setRing (x : Block) (hdr : Nat) (r : Ring) : Block := { x with rings := Tab.put x.rings hdr r }

/-- The header as it stands in stash. -/
def ringHdr (b hdr : Nat) : M RingHdr := do
  let s ← get
  match s.stashGet b hdr 32 with
  | .ok (bytes, s) => do set s; pure (RingHdr.of bytes)
  | .error m => stop (m.stop b)

def putHdr (b hdr : Nat) (h : RingHdr) : M Unit := do
  let s ← get
  match s.stashPut b (hdr + 8) h.counts with
  | .ok s => set s
  | .error m => stop (m.stop b)

/-- The ring of a header (R243, R259): inside the stash, aligned, with an entry. -/
def ringOf (b hdr : Nat) : M (Ring × RingHdr) := do
  let s ← get
  let x := s.block b
  trapIf (decide (hdr + 32 > x.stashSize)) .prot hdr
  trapIf (decide (hdr % 32 ≠ 0)) .misalign hdr
  match x.ring hdr with
  | none => trap .illegal hdr
  | some r => do let h ← ringHdr b hdr; pure (r, h)

/-- The side of the ring that may use it: teams, or the sequencer (R258, R261). -/
def sideGuard (h : RingHdr) (hdr : Nat) (seq : Bool) : M Unit :=
  trapIf (h.slots == 0 || decide (h.mode % 2 = 1) != seq) .illegal hdr

/-- Acquire a slot (R261): its stash offset, or nothing when none is ready. -/
def ringAcquire (b hdr : Nat) (seq : Bool) : M (Option Nat) := do
  let (r, h) ← ringOf b hdr
  sideGuard h hdr seq
  let again := match r.cur with
    | some (i, n) => if n < h.share then some (i, n) else none
    | none => none
  match again with
  | some (i, n) => do
    update (·.modBlock b (·.setRing hdr { r with cur := some (i, n + 1) }))
    pure (some (h.slotOff hdr i))
  | none =>
    let ready := if h.isFill then h.filled else h.free
    if ready = 0 then pure none
    else do
      let i := if h.isFill then h.rptr % h.slots else (h.wptr + h.held) % h.slots
      let h' := if h.isFill then { h with rptr := h.rptr + 1, filled := h.filled - 1, held := h.held + 1 }
        else { h with free := h.free - 1, held := h.held + 1 }
      update (·.modBlock b (·.setRing hdr { r with cur := some (i, 1), rel := Tab.set 0 r.rel i 0 }))
      putHdr b hdr h'
      pure (some (h.slotOff hdr i))

/-- The oldest held slot. -/
def RingHdr.oldest (h : RingHdr) : Nat :=
  if h.isFill then (h.rptr + h.slots - h.held % h.slots) % h.slots else h.wptr % h.slots

/-- Done slots leave in ring order (R262). -/
def ringSettle : Nat → Ring → RingHdr → Ring × RingHdr
  | 0, r, h => (r, h)
  | n + 1, r, h =>
    if h.held = 0 then (r, h)
    else
      let o := h.oldest
      if Tab.get 0 r.rel o < h.share then (r, h)
      else
        let r := { r with rel := Tab.set 0 r.rel o 0
                          cur := match r.cur with | some (i, c) => if i = o then none else some (i, c) | none => none }
        let h := if h.isFill then { h with held := h.held - 1, free := h.free + 1 }
          else { h with held := h.held - 1, wptr := h.wptr + 1, filled := h.filled + 1 }
        ringSettle n r h

/-- Release a slot (R262): one that is held, whichever side the ring is for. -/
def ringRelease (b hdr slot : Nat) : M Unit := do
  let (r, h) ← ringOf b hdr
  let i := (slot - hdr - 32) / h.size
  let held := (List.range (min h.held h.slots)).map fun j => (h.oldest + j) % h.slots
  trapIf (decide (h.size = 0) || decide (slot < hdr + 32) || decide ((slot - hdr - 32) % h.size ≠ 0) ||
    !held.contains i || decide (Tab.get 0 r.rel i ≥ h.share)) .illegal slot
  let (r, h) := ringSettle h.slots { r with rel := Tab.set 0 r.rel i (Tab.get 0 r.rel i + 1) } h
  update (·.modBlock b (·.setRing hdr r))
  putHdr b hdr h

/-- A stream job of the block that names the ring and has not ended. -/
def State.ringNamed (s : State) (b hdr : Nat) : Bool :=
  s.jobs.any fun (_, j) => j.owner == some b && (match j.kind with | .stream r => r.ring == hdr | _ => false)

/-- The status of `RINIT`, and the header it writes (R259). -/
def ringInit (b hdr : Nat) (cfg : Nat) : M Word := do
  let s ← get
  let x := s.block b
  let slots := bits cfg 6 0
  let size := bits cfg 23 12 * 32
  let share := max 1 (bits cfg 31 24)
  let bad := cfg != 0 && (slots == 0 || decide (slots > 64) || size == 0 || decide (size > 65536) ||
    bit cfg 7 || bits cfg 11 10 != 0)
  if bad then pure 0xFFFFFFFC
  else if decide (hdr % 32 ≠ 0) || (cfg != 0 && decide (hdr + 32 + slots * size > x.stashSize)) then pure 0xFFFFFFFD
  else do
    let held ← (match x.ring hdr with
      | some _ => do let h ← ringHdr b hdr; pure h.held
      | none => pure 0)
    if s.ringNamed b hdr || held != 0 then pure 0xFFFFFFFE
    else if cfg = 0 then do
      update (·.modBlock b fun x => { x with rings := Tab.erase x.rings hdr })
      pure 0
    else if (x.ring hdr).isNone && decide (x.rings.length ≥ 16) then pure 0xFFFFFFFB
    else do
      update (·.modBlock b (·.setRing hdr {}))
      let s ← get
      let bytes := leBytes 1 slots ++ leBytes 1 (bits cfg 9 8) ++ leBytes 1 0 ++ leBytes 1 share ++ leBytes 4 size ++
        leBytes 8 0 ++ leBytes 4 slots ++ leBytes 8 0 ++ leBytes 4 0
      match s.stashPut b hdr bytes with
      | .ok s => do set s; pure 0
      | .error m => stop (m.stop b)

end Sys2Proof.Machine
end

