-- ==== Sys2Proof/Machine/Channel.lean ====
section
/-! DEFINITION. Channel operands (02 R52, 10 R265, 13 R343): pop, push and peek on the ring or queue that the launch
bound. -/
namespace Sys2Proof.Machine
open Sys2Proof

/-! ## The order in which the ostler takes what teams ask (13 R343, R353) -/

/-- Two task instructions of one team that the ostler takes in their order. -/
def TaskOp.follows : TaskOp → TaskOp → Bool
  | .pop q .., .pop r .. => q == r
  | .push q .., .push r .. => q == r
  | .reserve q .., .reserve r .. => q == r
  | .invoke x .., .invoke y .. => bits x.toNat 5 0 == bits y.toNat 5 0
  | _, _ => false

/-- A remote invocation, which no earlier access of its team keeps back (R353). -/
def TaskOp.isInvoke : TaskOp → Bool
  | .invoke .. => true
  | _ => false

/-- The operation may reach the ostler: the team's earlier accesses have performed (08 R210), but for a remote invocation. -/
def Team.taskReady (m : Team) (o : Op) (x : TaskOp) : Bool :=
  (x.isInvoke || m.calm (some o.id)) && m.ops.all fun p => decide (o.id ≤ p.id) || (match p.kind with
    | .task y => !x.follows y
    | _ => true)

/-- The teams whose `QPOP` of queue `q` of suite `u` the ostler may serve now: their device-wide core and their issue slot. -/
def State.poppers (s : State) (u q : Nat) : List (Nat × Nat) :=
  s.blocks.flatMap fun (_, x) => if x.suite != u || x.saved.isSome then [] else
    x.teams.flatMap fun m => m.ops.filterMap fun o => match o.kind with
      | .task (.pop q' off nb) => if q' = q ∧ m.taskReady o (.pop q' off nb) ∧ !o.faulted then some (x.core, m.slot % 4) else none
      | _ => none

/-- Pops of one queue are served in ascending device-wide core index, then issue slot (R343). -/
def State.popsFirst (s : State) (u q core slot : Nat) : Bool :=
  (s.poppers u q).all fun e => !(decide (e.1 < core) || (e.1 == core && decide (e.2 < slot)))

/-! ## Rings and queues of a channel -/

def Block.chan (x : Block) (c : Nat) : Chan := Tab.get {} x.chans c
def setChan (k : Issue) (c : Nat) (f : Chan → Chan) : M Unit :=
  k.modB fun x => { x with chans := Tab.set {} x.chans c (f (x.chan c)) }

/-- The words of a 64-byte ring move, or of a 32-byte unit, lane `l` taking word `l` mod 8 (R343). -/
def wordsOf64 (r : List Byte) : List Word := lanes.map fun l => BitVec.ofNat 32 (field r (4 * l) 4)
def wordsOf32 (r : List Byte) : List Word := lanes.map fun l => BitVec.ofNat 32 (field r (4 * (l % 8)) 4)

/-- The words a push gives: those of active lanes; a lane that is not active gives a word no rule states. -/
def pushWords (mask : Half) (f : Nat → Word) : M (List Word) := do
  let s ← get
  if mask = 0xFFFF then pure (lanes.map f)
  else do
    set { s with free := s.free + 16 }
    pure (lanes.map fun l => if laneIn mask l then f l else Config.freeWord (s.free + l))

def wordBytes (ws : List Word) : List Byte := ws.flatMap fun w => leBytes 4 w.toNat

/-- The ring of a channel: a header without a ring entry is `ILLEGAL` wherever it lies (R259; 04 R130); `isFill` says which of the two
it must be (R265). -/
def chanRing (k : Issue) (hdr : Nat) (isFill : Bool) : M RingHdr := do
  let s ← get
  trapIf ((s.block k.b).ring hdr).isNone .illegal hdr
  let (_, h) ← ringOf k.b hdr
  sideGuard h hdr false
  trapIf (decide (h.size % 64 ≠ 0) || h.share != 1 || h.isFill != isFill) .illegal hdr
  pure h

/-- The slot held for the channel, acquired if there is none. -/
def chanSlot (k : Issue) (c hdr : Nat) : M (Nat × Nat) := do
  let s ← get
  let e := (s.block k.b).chan c
  match e.slot with
  | some o => pure (o, e.cursor)
  | none => match ← ringAcquire k.b hdr false with
    | none => stallM
    | some o => do setChan k c fun e => { e with slot := some o, cursor := 0 }; pure (o, 0)

/-- The cursor moves on; a slot moved whole is released. -/
def chanAdvance (k : Issue) (c hdr size off cur : Nat) : M Unit :=
  if cur + 64 ≥ size then do
    k.inOrder
    setChan k c fun e => { e with slot := none, cursor := 0 }
    ringRelease k.b hdr off
  else setChan k c fun e => { e with cursor := cur + 64 }

/-- The queue of a channel: kind 2 names it, kind 3 names a live handler (R343). -/
def chanQueue (k : Issue) (e : Chan) : M Nat := do
  if e.kind = 2 then pure e.target
  else do
    let s ← get
    match s.handlerOf k.blk.suite e.target with
    | (some q, s) => do set s; pure q
    | (none, _) => trap .illegal e.target

/-- Bytes of block stash that a channel moves. -/
def chanBytes (k : Issue) (off : Nat) : M (List Byte) := do
  let s ← get
  match s.stashGet k.b off 64 with
  | .ok (r, s) => do set s; pure r
  | .error m => stop (m.stop k.b)

def queuePop (k : Issue) (e : Chan) (take_ : Bool) : M (List Word) := do
  let q ← chanQueue k e
  let s ← get
  trapIf (!(s.queue k.blk.suite q).pops) .illegal q
  if take_ && !s.popsFirst k.blk.suite q k.blk.core (k.tm.slot % 4) then stallM
  else match s.unitPop k.blk.suite q take_ with
  | (some r, s) => do set s; pure (wordsOf32 r)
  | (none, _) => stallM

def chanPop (k : Issue) (c : Nat) : M (List Word) := do
  let s ← get
  let e := (s.block k.b).chan c
  match e.kind with
  | 0 => trap .illegal
  | 1 => do
    let h ← chanRing k e.target true
    let (o, cur) ← chanSlot k c e.target
    let r ← chanBytes k (o + cur)
    chanAdvance k c e.target h.size o cur
    pure (wordsOf64 r)
  | _ => queuePop k e true

def chanPeek (k : Issue) (c : Nat) : M (List Word) := do
  let s ← get
  let e := (s.block k.b).chan c
  match e.kind with
  | 0 => trap .illegal
  | 1 => do
    let h ← chanRing k e.target true
    let at_ ← (match e.slot with
      | some o => pure (o + e.cursor)
      | none => if h.filled = 0 then stallM else pure (h.slotOff e.target (h.rptr % h.slots)))
    let r ← chanBytes k at_
    pure (wordsOf64 r)
  | _ => queuePop k e false

def chanPush (k : Issue) (c : Nat) (mask : Half) (f : Nat → Word) : M Unit := do
  let s ← get
  let e := (s.block k.b).chan c
  match e.kind with
  | 0 => trap .illegal
  | 1 => do
    let h ← chanRing k e.target false
    let (o, cur) ← chanSlot k c e.target
    let ws ← pushWords mask f
    k.putStash (o + cur) (wordBytes ws)
    chanAdvance k c e.target h.size o cur
  | _ => do
    let q ← chanQueue k e
    let s ← get
    let x := s.queue k.blk.suite q
    trapIf (!x.accepts || x.kind != 2) .illegal q
    let ws ← pushWords (mask ||| 0xFF00) f
    let s ← get
    match s.enqueue k.blk.suite q (wordBytes (ws.take 8)) with
    | some s => set s
    | none => stallM

end Sys2Proof.Machine
end

