-- ==== Sys2Proof/Machine/Operands.lean ====
section
/-! DEFINITION. Operands (02 R44, R51-R55): reading and writing registers, pairs, predicates and channels, per lane
or once for a uniform form. -/
namespace Sys2Proof.Machine
open Sys2Proof

/-! ## Registers of a team -/

/-- `v`r of lane `l`; the table's key is r × 16 + l. -/
def Team.v (m : Team) (r l : Nat) : Word := Tab.get 0 m.vregs (r * 16 + l)
def Team.s (m : Team) (r : Nat) : Word := Tab.get 0 m.sregs r
def Team.setS (m : Team) (r : Nat) (x : Word) : Team := { m with sregs := Tab.set 0 m.sregs r x }
def Team.p (m : Team) (n : Nat) : Half := Tab.get 0 m.preds n
def Team.setP (m : Team) (n : Nat) (x : Half) : Team := { m with preds := Tab.set 0 m.preds n x }

/-- Lane `l`'s value of register `i` of the group an operand names; an s-register is broadcast (R54). -/
def Team.rd (m : Team) (o : Opnd) (l : Nat) (i : Nat := 0) : Word :=
  match o with
  | .v r => m.v (r.val + i) l
  | .s r => m.s (r.val + i)
  | _ => 0

/-- The pair an operand names, low word in the even register (R53). -/
def Team.rdPair (m : Team) (o : Opnd) (l : Nat) : DWord := m.rd o l 1 ++ m.rd o l 0

/-- The s-pair at an even index. -/
def Team.sPair (m : Team) (r : Nat) : DWord := m.s (r + 1) ++ m.s r

/-- Write register `i` of a group for the lanes of a mask, or once for an s-register, which takes lane 0's value, the word
of lane 0 also where a source is a pop or a peek (04 R109, 06 R154; log 111). -/
def Team.wr (m : Team) (o : Opnd) (act : Half) (f : Nat → Word) (i : Nat := 0) : Team :=
  match o with
  | .v r => (lanesOf act).foldl (fun m l => m.setV (r.val + i) l (f l)) m
  | .s r => m.setS (r.val + i) (f 0)
  | _ => m

/-! ## Operands of an instruction -/

/-- Lanes of a channel value: lane `l` takes word `l` (10 R265). -/
def laneOfList (ws : List Word) (l : Nat) : Word := ws.getD l 0

/-- `rdop` of a register or channel operand (02 R52, R70). -/
def Issue.read (k : Issue) (o : Opnd) : M (Nat → Word) :=
  match o with
  | .pop c => do let ws ← chanPop k c.val; pure (laneOfList ws)
  | .peek c => do let ws ← chanPeek k c.val; pure (laneOfList ws)
  | o => pure (fun l => k.tm.rd o l)

/-- `rdop` of a source that may be a literal (R44, R55). -/
def Issue.src (k : Issue) (x : Src) : M (Nat → Word) :=
  match x with
  | .lit w => pure (fun _ => w)
  | .reg o => k.read o

/-- A 64-bit integer source; a literal is sign-extended (R55). -/
def Issue.srcW (k : Issue) (x : Src) : Nat → DWord :=
  match x with
  | .lit w => fun _ => w.signExtend 64
  | .reg o => fun l => k.tm.rdPair o l

/-- A binary64 source; a literal is its upper word (R55). -/
def Issue.srcD (k : Issue) (x : Src) : Nat → DWord :=
  match x with
  | .lit w => fun _ => w ++ (0 : Word)
  | .reg o => fun l => k.tm.rdPair o l

/-- A uniform source: an s-register or a literal. -/
def Issue.uni (k : Issue) (x : Src) : Word :=
  match x with
  | .lit w => w
  | .reg o => k.tm.rd o 0

/-- `wrop`: each active lane's value, or once for an s-register, or a push (R70). -/
def Issue.write (k : Issue) (d : Opnd) (f : Nat → Word) : M Unit :=
  match d with
  | .pop c => chanPush k c.val k.act f
  | .peek _ => trap .illegal
  | d => k.mod fun m => m.wr d k.act f

/-- A pair is written, low word first. -/
def Issue.writePair (k : Issue) (d : Opnd) (f : Nat → DWord) : M Unit :=
  k.mod fun m => (m.wr d k.act (fun l => (f l).setWidth 32)).wr d k.act (fun l => ((f l) >>> 32).setWidth 32) 1

/-- The bits of active lanes of a predicate are written. -/
def Issue.writePred (k : Issue) (p : Nat) (f : Nat → Bool) : M Unit :=
  k.mod fun m => m.setP p ((m.p p &&& ~~~k.act) ||| (maskOf f &&& k.act))

/-- A predicate or its literal mask (03 R89). -/
def Issue.predSrc (k : Issue) (x : PSrc) : M (Nat → Bool) :=
  match x with
  | .p r => pure (fun l => laneIn (k.tm.p r.val) l)
  | .lit w => if w.toNat ≥ 65536 then trap .illegal else pure (fun l => w.getLsbD l)

/-! ## Tracked instructions (02 R40, R58) -/

/-- The operand bytes of a group of registers. -/
def groupBytes (o : Opnd) (n : Nat) : List Nat := Req.bytes ⟨o, n, .dst, false, .any, 1⟩

/-- The flag that tracks an instruction of this clause (R40). -/
def Issue.flag (k : Issue) : Option Nat :=
  match k.info.track with
  | .a => flagField k.cl.setA
  | .b => flagField k.cl.setB
  | .no => none

/-- A tracked instruction joins the team's outstanding ones; the registers it will write are tagged with its flag
(R58). -/
def Issue.start (k : Issue) (o : Op) : M Unit :=
  k.mod fun m =>
    let o := { o with id := m.nextOp, pc := k.pc, word := k.cl.words.headD 0, lit := k.cl.words.getD 1 0, act := k.act,
                        flag := k.flag, seq := k.tm.count + 1, issued := k.tick }
    let m := { m with ops := m.ops ++ [o], nextOp := m.nextOp + 1 }
    match o.flag with
    | some f => m.setTags o.dests (.flag f)
    | none => m

/-- The key of a register write owed: operand byte × 16 + lane; an s-register uses lane 0. -/
def writeKey (byte lane : Nat) : Nat := byte * 16 + lane

/-- The writes of `n` registers of a group for the active lanes, or once. -/
def Issue.writesOf (k : Issue) (d : Opnd) (n : Nat) (f : Nat → Nat → Word) : List (Nat × Word) :=
  (groupBytes d n).zipIdx.flatMap fun (byte, i) =>
    if byte < 96 then k.lanes.map fun l => (writeKey byte l, f l i) else [(writeKey byte 0, f 0 i)]

/-- A tracked instruction whose values are known at issue: they are written when it completes. -/
def Issue.startValue (k : Issue) (d : Opnd) (n : Nat) (f : Nat → Nat → Word) : M Unit :=
  k.start { kind := .value, writes := k.writesOf d n f, dests := groupBytes d n }

/-- One register write owed is made. -/
def Team.writeKeyed (m : Team) (key : Nat) (x : Word) : Team :=
  if key / 16 < 96 then m.setV (key / 16) (key % 16) x else m.setS (key / 16 - 96) x

end Sys2Proof.Machine
end

