-- ==== Sys2Proof/Machine/AluInt.lean ====
section
/-! DEFINITION. Integer, address and lane instructions (04): each meaning is one of the shapes below over a function
of `IntFns`. -/
namespace Sys2Proof.Machine
open Sys2Proof

/-- One source (R107). -/
def alu1 (k : Issue) (d : Opnd) (a : Src) (f : Word → Word) : M Unit := do
  let x ← k.src a
  k.write d (fun l => f (x l))

/-- Two sources, read in the order `a`, `b` (R52, R107). -/
def alu2 (k : Issue) (d a : Opnd) (b : Src) (f : Word → Word → Word) : M Unit := do
  let x ← k.read a
  let y ← k.src b
  k.write d (fun l => f (x l) (y l))

/-- Two sources and the old destination (R107). -/
def alu3 (k : Issue) (d a : Opnd) (b : Src) (f : Word → Word → Word → Word) : M Unit := do
  let x ← k.read a
  let y ← k.src b
  k.write d (fun l => f (x l) (y l) (k.tm.rd d l))

/-- Pair results (R112, R117). -/
def aluWWW (k : Issue) (d a : Opnd) (b : Src) (f : DWord → DWord → DWord) : M Unit :=
  k.writePair d (fun l => f (k.tm.rdPair a l) (k.srcW b l))
def aluWRR (k : Issue) (d a : Opnd) (b : Src) (f : Word → Word → DWord) : M Unit := do
  let x ← k.read a
  let y ← k.src b
  k.writePair d (fun l => f (x l) (y l))
def aluWWR (k : Issue) (d a : Opnd) (b : Src) (f : DWord → Word → DWord) : M Unit := do
  let y ← k.src b
  k.writePair d (fun l => f (k.tm.rdPair a l) (y l))

/-- A compare into a predicate (R115). -/
def cmp2 (k : Issue) (p : Fin 8) (a : Opnd) (b : Src) (f : Word → Word → Bool) : M Unit := do
  let x ← k.read a
  let y ← k.src b
  k.writePred p.val (fun l => f (x l) (y l))

/-- The lowest active lane. -/
def Issue.lowest (k : Issue) : Nat := k.lanes.headD 0

/-- `SEL` (R116): both sources are popped whatever the predicate; a uniform form reads the lowest active lane's bit. -/
def sel (k : Issue) (n : Fin 8) (d a : Opnd) (b : Src) : M Unit := do
  let x ← k.read a
  let y ← k.src b
  k.write d (fun l => if laneIn (k.tm.p n.val) (if isS d then k.lowest else l) then x l else y l)

/-- `SHFL` (R119): all reads first; a source lane out of range or inactive keeps the lane's own value. -/
def shfl (k : Issue) (d a : Opnd) (b : Src) (q : Nat → Word → Int) : M Unit := do
  let y ← k.src b
  let x := fun l => k.tm.rd a l
  k.write d (fun l => match laneOfInt (q l (y l)) with
    | some j => if laneIn k.act j then x j else x l
    | none => x l)

/-- A value computed across the active lanes, the same for each lane or by lane. -/
def across (k : Issue) (d a : Opnd) (f : (Nat → Word) → Nat → Word) : M Unit :=
  k.write d (f (fun l => k.tm.rd a l))

/-- The running sums of `SCAN.add` (R122). -/
def scanSum (x : Nat → Word) (ex : Bool) (ls : List Nat) (l : Nat) : Word :=
  (ls.filter (fun j => if ex then decide (j < l) else decide (j ≤ l))).foldl (fun a j => a + x j) 0

/-- The combination of `REDUCE` (R123). -/
def reduceLanes (f : Word → Word → Word) (x : Nat → Word) : List Nat → Word
  | [] => 0
  | l :: r => r.foldl (fun a j => f a (x j)) (x l)

/-- The drawing lane key: 16 for a uniform form (R126). -/
def laneKey (d : Opnd) (l : Nat) : Nat := if isS d then 16 else l

/-- NOP (R111). -/
def execNop (σ : State) : Result :=
  issue ⟨Shape.none, .no, false, true⟩ (fun _ => pure ()) σ

/-- MOV (R111). -/
def execMov (d : Opnd) (a : Src) (σ : State) : Result :=
  issue ⟨shOne d a, .no, false, true⟩ (fun k => alu1 k d a (fun x => x)) σ

/-- IADD (R111). -/
def execIadd (d : Opnd) (a : Opnd) (b : Src) (σ : State) : Result :=
  issue ⟨shTwo d a b, .no, false, true⟩ (fun k => alu2 k d a b (· + ·)) σ

/-- IADDS.i32 (R111). -/
def execIaddsI32 (d : Opnd) (a : Opnd) (b : Src) (σ : State) : Result :=
  issue ⟨shTwo d a b, .no, false, true⟩ (fun k => alu2 k d a b addsI) σ

/-- IADDS.n32 (R111). -/
def execIaddsN32 (d : Opnd) (a : Opnd) (b : Src) (σ : State) : Result :=
  issue ⟨shTwo d a b, .no, false, true⟩ (fun k => alu2 k d a b addsN) σ

/-- ISUB (R111). -/
def execIsub (d : Opnd) (a : Opnd) (b : Src) (σ : State) : Result :=
  issue ⟨shTwo d a b, .no, false, true⟩ (fun k => alu2 k d a b (· - ·)) σ

/-- ISUBS.i32 (R111). -/
def execIsubsI32 (d : Opnd) (a : Opnd) (b : Src) (σ : State) : Result :=
  issue ⟨shTwo d a b, .no, false, true⟩ (fun k => alu2 k d a b subsI) σ

/-- ISUBS.n32 (R111). -/
def execIsubsN32 (d : Opnd) (a : Opnd) (b : Src) (σ : State) : Result :=
  issue ⟨shTwo d a b, .no, false, true⟩ (fun k => alu2 k d a b subsN) σ

/-- IMUL (R111). -/
def execImul (d : Opnd) (a : Opnd) (b : Src) (σ : State) : Result :=
  issue ⟨shTwo d a b, .no, false, true⟩ (fun k => alu2 k d a b (· * ·)) σ

/-- IMULH.i32 (R111). -/
def execImulhI32 (d : Opnd) (a : Opnd) (b : Src) (σ : State) : Result :=
  issue ⟨shTwo d a b, .no, false, true⟩ (fun k => alu2 k d a b mulhI) σ

/-- IMULH.n32 (R111). -/
def execImulhN32 (d : Opnd) (a : Opnd) (b : Src) (σ : State) : Result :=
  issue ⟨shTwo d a b, .no, false, true⟩ (fun k => alu2 k d a b mulhN) σ

/-- IMIN.i32 (R111). -/
def execIminI32 (d : Opnd) (a : Opnd) (b : Src) (σ : State) : Result :=
  issue ⟨shTwo d a b, .no, false, true⟩ (fun k => alu2 k d a b minI) σ

/-- IMIN.n32 (R111). -/
def execIminN32 (d : Opnd) (a : Opnd) (b : Src) (σ : State) : Result :=
  issue ⟨shTwo d a b, .no, false, true⟩ (fun k => alu2 k d a b minN) σ

/-- IMAX.i32 (R111). -/
def execImaxI32 (d : Opnd) (a : Opnd) (b : Src) (σ : State) : Result :=
  issue ⟨shTwo d a b, .no, false, true⟩ (fun k => alu2 k d a b maxI) σ

/-- IMAX.n32 (R111). -/
def execImaxN32 (d : Opnd) (a : Opnd) (b : Src) (σ : State) : Result :=
  issue ⟨shTwo d a b, .no, false, true⟩ (fun k => alu2 k d a b maxN) σ

/-- AND (R113). -/
def execAnd (d : Opnd) (a : Opnd) (b : Src) (σ : State) : Result :=
  issue ⟨shTwo d a b, .no, false, true⟩ (fun k => alu2 k d a b (· &&& ·)) σ

/-- OR (R113). -/
def execOr (d : Opnd) (a : Opnd) (b : Src) (σ : State) : Result :=
  issue ⟨shTwo d a b, .no, false, true⟩ (fun k => alu2 k d a b (· ||| ·)) σ

/-- XOR (R113). -/
def execXor (d : Opnd) (a : Opnd) (b : Src) (σ : State) : Result :=
  issue ⟨shTwo d a b, .no, false, true⟩ (fun k => alu2 k d a b (· ^^^ ·)) σ

/-- ANDN (R113). -/
def execAndn (d : Opnd) (a : Opnd) (b : Src) (σ : State) : Result :=
  issue ⟨shTwo d a b, .no, false, true⟩ (fun k => alu2 k d a b (fun x y => x &&& ~~~y)) σ

/-- SHL (R113). -/
def execShl (d : Opnd) (a : Opnd) (b : Src) (σ : State) : Result :=
  issue ⟨shTwo d a b, .no, false, true⟩ (fun k => alu2 k d a b shl) σ

/-- SHRN (R113). -/
def execShrn (d : Opnd) (a : Opnd) (b : Src) (σ : State) : Result :=
  issue ⟨shTwo d a b, .no, false, true⟩ (fun k => alu2 k d a b shrn) σ

/-- SHRA (R113). -/
def execShra (d : Opnd) (a : Opnd) (b : Src) (σ : State) : Result :=
  issue ⟨shTwo d a b, .no, false, true⟩ (fun k => alu2 k d a b shra) σ

/-- ROTL (R113). -/
def execRotl (d : Opnd) (a : Opnd) (b : Src) (σ : State) : Result :=
  issue ⟨shTwo d a b, .no, false, true⟩ (fun k => alu2 k d a b rotl) σ

/-- BFX.n32 (R114). -/
def execBfxN32 (d : Opnd) (a : Opnd) (b : Src) (σ : State) : Result :=
  issue ⟨shTwo d a b, .no, false, true⟩ (fun k => alu2 k d a b bfxN) σ

/-- BFX.i32 (R114). -/
def execBfxI32 (d : Opnd) (a : Opnd) (b : Src) (σ : State) : Result :=
  issue ⟨shTwo d a b, .no, false, true⟩ (fun k => alu2 k d a b bfxI) σ

/-- MORTON (R118). -/
def execMorton (d : Opnd) (a : Opnd) (b : Src) (σ : State) : Result :=
  issue ⟨shTwo d a b, .no, false, true⟩ (fun k => alu2 k d a b morton) σ

/-- IMAD (R111). -/
def execImad (d : Opnd) (a : Opnd) (b : Src) (σ : State) : Result :=
  issue ⟨shAcc d a b, .no, false, true⟩ (fun k => alu3 k d a b (fun x y z => x * y + z)) σ

/-- BFI (R114). -/
def execBfi (d : Opnd) (a : Opnd) (b : Src) (σ : State) : Result :=
  issue ⟨shAcc d a b, .no, false, true⟩ (fun k => alu3 k d a b bfi) σ

/-- IABS (R111). -/
def execIabs (d : Opnd) (a : Src) (σ : State) : Result :=
  issue ⟨shOne d a, .no, false, true⟩ (fun k => alu1 k d a absW) σ

/-- INEG (R111). -/
def execIneg (d : Opnd) (a : Src) (σ : State) : Result :=
  issue ⟨shOne d a, .no, false, true⟩ (fun k => alu1 k d a (fun x => -x)) σ

/-- POPC (R113). -/
def execPopc (d : Opnd) (a : Src) (σ : State) : Result :=
  issue ⟨shOne d a, .no, false, true⟩ (fun k => alu1 k d a popc) σ

/-- CLZ (R113). -/
def execClz (d : Opnd) (a : Src) (σ : State) : Result :=
  issue ⟨shOne d a, .no, false, true⟩ (fun k => alu1 k d a clz) σ

/-- BREV (R113). -/
def execBrev (d : Opnd) (a : Src) (σ : State) : Result :=
  issue ⟨shOne d a, .no, false, true⟩ (fun k => alu1 k d a brev) σ

/-- ICMP.eq (R115). -/
def execIcmpEq (p : Fin 8) (a : Opnd) (b : Src) (σ : State) : Result :=
  issue ⟨shCmp a b, .no, false, true⟩ (fun k => cmp2 k p a b (fun x y => decide (x = y))) σ

/-- ICMP.ne (R115). -/
def execIcmpNe (p : Fin 8) (a : Opnd) (b : Src) (σ : State) : Result :=
  issue ⟨shCmp a b, .no, false, true⟩ (fun k => cmp2 k p a b (fun x y => decide (x ≠ y))) σ

/-- ICMP.lt.i32 (R115). -/
def execIcmpLtI32 (p : Fin 8) (a : Opnd) (b : Src) (σ : State) : Result :=
  issue ⟨shCmp a b, .no, false, true⟩ (fun k => cmp2 k p a b (fun x y => x.slt y)) σ

/-- ICMP.le.i32 (R115). -/
def execIcmpLeI32 (p : Fin 8) (a : Opnd) (b : Src) (σ : State) : Result :=
  issue ⟨shCmp a b, .no, false, true⟩ (fun k => cmp2 k p a b (fun x y => x.sle y)) σ

/-- ICMP.lt.n32 (R115). -/
def execIcmpLtN32 (p : Fin 8) (a : Opnd) (b : Src) (σ : State) : Result :=
  issue ⟨shCmp a b, .no, false, true⟩ (fun k => cmp2 k p a b (fun x y => x.ult y)) σ

/-- ICMP.le.n32 (R115). -/
def execIcmpLeN32 (p : Fin 8) (a : Opnd) (b : Src) (σ : State) : Result :=
  issue ⟨shCmp a b, .no, false, true⟩ (fun k => cmp2 k p a b (fun x y => x.ule y)) σ

/-- SEL.pN (R116). -/
def execSelP (n : Fin 8) (d : Opnd) (a : Opnd) (b : Src) (σ : State) : Result :=
  issue ⟨shTwo d a b, .no, false, true⟩ (fun k => sel k n d a b) σ

/-- IADD.w (R112). -/
def execIaddW (d : Opnd) (a : Opnd) (b : Src) (σ : State) : Result :=
  issue ⟨shWWW d a b, .no, false, true⟩ (fun k => aluWWW k d a b (· + ·)) σ

/-- ISUB.w (R112). -/
def execIsubW (d : Opnd) (a : Opnd) (b : Src) (σ : State) : Result :=
  issue ⟨shWWW d a b, .no, false, true⟩ (fun k => aluWWW k d a b (· - ·)) σ

/-- IMULW.n32 (R112). -/
def execImulwN32 (d : Opnd) (a : Opnd) (b : Src) (σ : State) : Result :=
  issue ⟨shWRR d a b, .no, false, true⟩ (fun k => aluWRR k d a b mulwN) σ

/-- IMULW.i32 (R112). -/
def execImulwI32 (d : Opnd) (a : Opnd) (b : Src) (σ : State) : Result :=
  issue ⟨shWRR d a b, .no, false, true⟩ (fun k => aluWRR k d a b mulwI) σ

/-- SHL.w (R112). -/
def execShlW (d : Opnd) (a : Opnd) (b : Src) (σ : State) : Result :=
  issue ⟨shWWR d a b, .no, false, true⟩ (fun k => aluWWR k d a b shlW) σ

/-- SHRN.w (R112). -/
def execShrnW (d : Opnd) (a : Opnd) (b : Src) (σ : State) : Result :=
  issue ⟨shWWR d a b, .no, false, true⟩ (fun k => aluWWR k d a b shrnW) σ

/-- LEA (R117). -/
def execLea (d : Opnd) (a : Opnd) (b : Src) (σ : State) : Result :=
  issue ⟨shWWR d a b, .no, false, true⟩ (fun k => aluWWR k d a b (lea 1)) σ

/-- LEA.x4 (R117). -/
def execLeaX4 (d : Opnd) (a : Opnd) (b : Src) (σ : State) : Result :=
  issue ⟨shWWR d a b, .no, false, true⟩ (fun k => aluWWR k d a b (lea 4)) σ

/-- LEA.x8 (R117). -/
def execLeaX8 (d : Opnd) (a : Opnd) (b : Src) (σ : State) : Result :=
  issue ⟨shWWR d a b, .no, false, true⟩ (fun k => aluWWR k d a b (lea 8)) σ

/-- UNMORTON (R118). -/
def execUnmorton (d : Opnd) (a : Src) (σ : State) : Result :=
  issue ⟨shUnm d a, .no, false, true⟩ (fun k => do let x ← k.src a; k.writePair d (fun l => unmorton (x l))) σ

/-- SHFL.idx (R119). -/
def execShflIdx (d : Opnd) (a : Opnd) (b : Src) (σ : State) : Result :=
  issue ⟨shShfl d a b, .no, false, true⟩ (fun k => shfl k d a b (fun _ y => (y.toNat : Int))) σ

/-- SHFL.xor (R119). -/
def execShflXor (d : Opnd) (a : Opnd) (b : Src) (σ : State) : Result :=
  issue ⟨shShfl d a b, .no, false, true⟩ (fun k => shfl k d a b (fun l y => ((l ^^^ y.toNat : Nat) : Int))) σ

/-- SHFL.up (R119). -/
def execShflUp (d : Opnd) (a : Opnd) (b : Src) (σ : State) : Result :=
  issue ⟨shShfl d a b, .no, false, true⟩ (fun k => shfl k d a b (fun l y => (l : Int) - (y.toNat : Int))) σ

/-- SHFL.down (R119). -/
def execShflDown (d : Opnd) (a : Opnd) (b : Src) (σ : State) : Result :=
  issue ⟨shShfl d a b, .no, false, true⟩ (fun k => shfl k d a b (fun l y => (l : Int) + (y.toNat : Int))) σ

/-- BALLOT (R120). -/
def execBallot (d : Opnd) (a : Opnd) (σ : State) : Result :=
  issue ⟨shLane d a, .no, false, true⟩ (fun k => across k d a (fun x _ => (maskOf (fun l => laneIn k.act l && decide (x l ≠ 0))).setWidth 32)) σ

/-- RDLANE (R121). -/
def execRdlane (d : Opnd) (a : Opnd) (b : Src) (σ : State) : Result :=
  issue ⟨shRdlane d a b, .no, false, true⟩ (fun k => k.write d (fun _ => k.tm.rd a ((k.uni b).toNat % 16))) σ

/-- SCAN.add (R122). -/
def execScanAdd (ex : Bool) (d : Opnd) (a : Opnd) (σ : State) : Result :=
  issue ⟨shLane d a, .no, false, true⟩ (fun k => across k d a (fun x l => scanSum x ex k.lanes l)) σ

/-- REDUCE.add (R123). -/
def execReduceAdd (d : Opnd) (a : Opnd) (σ : State) : Result :=
  issue ⟨shLane d a, .no, false, true⟩ (fun k => across k d a (fun x _ => reduceLanes (· + ·) x k.lanes)) σ

/-- REDUCE.min.i32 (R123). -/
def execReduceMinI32 (d : Opnd) (a : Opnd) (σ : State) : Result :=
  issue ⟨shLane d a, .no, false, true⟩ (fun k => across k d a (fun x _ => reduceLanes minI x k.lanes)) σ

/-- REDUCE.max.i32 (R123). -/
def execReduceMaxI32 (d : Opnd) (a : Opnd) (σ : State) : Result :=
  issue ⟨shLane d a, .no, false, true⟩ (fun k => across k d a (fun x _ => reduceLanes maxI x k.lanes)) σ

/-- MATCH (R124). -/
def execMatchV (d : Opnd) (a : Opnd) (σ : State) : Result :=
  issue ⟨shLane d a, .no, false, true⟩ (fun k => across k d a (fun x l => (maskOf (fun j => laneIn k.act j && decide (x j = x l))).setWidth 32)) σ

/-- RNG (R126). -/
def execRng (d : Opnd) (a : Src) (σ : State) : Result :=
  issue ⟨shOne d a, .no, false, true⟩ (fun k => do let x ← k.src a; k.write d (fun l => rngmix (x l) k.tm.rng (laneKey d l)); k.mod (fun m => { m with rng := m.rng + 1 })) σ

/-- MODESET (R129). -/
def execModeset (a : Src) (σ : State) : Result :=
  issue ⟨shS1 a, .no, false, true⟩ (fun k => k.mod (fun m => { m with fmode := fmodeOf (k.uni a) })) σ

/-- MODESET.rng (R129). -/
def execModesetRng (a : Src) (σ : State) : Result :=
  issue ⟨shS1 a, .no, false, true⟩ (fun k => k.mod (fun m => { m with rng := k.uni a })) σ

end Sys2Proof.Machine
end

