-- ==== Sys2Proof/Machine/AluFloat.lean ====
section
/-! DEFINITION. Conversion, packing, codebooks (05) and floating-point arithmetic (06): every result comes from one
exact value and one rounding. -/
namespace Sys2Proof.Machine
open Sys2Proof

/-- A lane's result: the word or pair, whether the reserved i4 code was read, how many random draws were made. -/
structure FRes where
  lo : Word
  hi : Word := 0
  invq : Bool := false
  draws : Nat := 0
  deriving DecidableEq, Repr

/-- `rng16(lane)` for draw `j` of the instruction (04 R127). -/
def Issue.rng16 (k : Issue) (key j : Nat) : Nat := (rngmix (BitVec.ofNat 32 (0xFFFF0000 + j)) k.tm.rng key).toNat / 65536

/-- The lanes for which an instruction with destination `d` computes: the active ones, or one for a uniform form. -/
def Issue.computing (k : Issue) (d : Opnd) : List Nat := if isS d then [0] else k.lanes

/-- What follows the results: `INVQ` is set by any lane that read the reserved code, the RNG counter advances by 1
when any lane drew (04 R127, 05 R137, 06 R158). -/
def Issue.after (k : Issue) (d : Opnd) (f : Nat → FRes) : M Unit :=
  k.mod fun m =>
    let m := if (k.computing d).any (fun l => (f l).invq) then m.setInvq else m
    if (k.computing d).any (fun l => (f l).draws != 0) then { m with rng := m.rng + 1 } else m

/-- 32-bit results. -/
def Issue.writeF (k : Issue) (d : Opnd) (f : Nat → FRes) : M Unit := do
  k.write d (fun l => (f l).lo)
  k.after d f
/-- 64-bit results. -/
def Issue.writeF2 (k : Issue) (d : Opnd) (f : Nat → FRes) : M Unit := do
  k.writePair d (fun l => (f l).hi ++ (f l).lo)
  k.after d f

/-- A source pattern as a value, after flushing (R155). -/
def Issue.fval (k : Issue) (f : FFmt) (x : Nat) : Val := f.val (f.ftz (fFtz k.tm.fmode) (x % 2 ^ f.width))
/-- The rounding of a result by `FMODE` with flushing (R155, R158). -/
def Issue.fround (k : Issue) (f : FFmt) (v : Val) (mode key j : Nat) : Nat × Nat :=
  let r := f.rnd v mode false (k.rng16 key j)
  (f.ftz (fFtz k.tm.fmode) r.bits, j + b2n r.drew)
def Issue.mode (k : Issue) : Nat := fRnd k.tm.fmode

/-- A binary32 result under `FMODE`. -/
def Issue.f32 (k : Issue) (v : Val) (key : Nat) : FRes :=
  let (b, j) := k.fround fmtF32 v k.mode key 0
  { lo := BitVec.ofNat 32 b, draws := j }

/-! ## Shapes -/

def flt2 (k : Issue) (d a : Opnd) (b : Src) (f : Val → Val → Val) : M Unit := do
  let x ← k.read a
  let y ← k.src b
  k.writeF d (fun l => k.f32 (f (k.fval fmtF32 (x l).toNat) (k.fval fmtF32 (y l).toNat)) (laneKey d l))
def flt3 (k : Issue) (d a : Opnd) (b : Src) (f : Val → Val → Val → Val) : M Unit := do
  let x ← k.read a
  let y ← k.src b
  k.writeF d (fun l => k.f32 (f (k.fval fmtF32 (x l).toNat) (k.fval fmtF32 (y l).toNat) (k.fval fmtF32 (k.tm.rd d l).toNat)) (laneKey d l))
/-- The smaller or larger operand, −0 below +0, a NaN giving way to the other (R160). -/
def minmax (k : Issue) (larger : Bool) (x y : Word) : Word :=
  let fx := fmtF32.ftz (fFtz k.tm.fmode) x.toNat
  let fy := fmtF32.ftz (fFtz k.tm.fmode) y.toNat
  let vx := fmtF32.val fx
  let vy := fmtF32.val fy
  let pick (b : Bool) : Word := BitVec.ofNat 32 (if b then fx else fy)
  if vx.isNan && vy.isNan then BitVec.ofNat 32 fmtF32.canon
  else if vx.isNan then pick false
  else if vy.isNan then pick true
  else
    let xBelow := vx.lt vy || (vx.eqv vy && vx.neg)
    pick (if larger then !xBelow else xBelow)
/-- A float compare into a predicate (R161, R164). -/
def fcmp (k : Issue) (p : Fin 8) (a : Opnd) (b : Src) (f : Val → Val → Bool) : M Unit := do
  let x ← k.read a
  let y ← k.src b
  k.writePred p.val (fun l => f (k.fval fmtF32 (x l).toNat) (k.fval fmtF32 (y l).toNat))
def dcmp (k : Issue) (p : Fin 8) (a : Opnd) (b : Src) (f : Val → Val → Bool) : M Unit :=
  k.writePred p.val (fun l => f (k.fval fmtF64 (k.tm.rdPair a l).toNat) (k.fval fmtF64 (k.srcD b l).toNat))
def fle (x y : Val) : Bool := x.lt y || x.eqv y

/-- Packed pairs of 16-bit values (R162): the low half rounds first. -/
def packed2 (k : Issue) (f : FFmt) (d a : Opnd) (b : Src) (g : Val → Val → Val → Val) : M Unit := do
  let x ← k.read a
  let y ← k.src b
  k.writeF d (fun l =>
    let half (w : Word) (h : Nat) : Val := k.fval f (w.toNat / 65536 ^ h % 65536)
    let z := k.tm.rd d l
    let key := laneKey d l
    let (lo, j) := k.fround f (g (half (x l) 0) (half (y l) 0) (half z 0)) k.mode key 0
    let (hi, j) := k.fround f (g (half (x l) 1) (half (y l) 1) (half z 1)) k.mode key j
    { lo := BitVec.ofNat 32 (lo + 65536 * hi), draws := j })

/-- Binary64 (R163). -/
def dbl (k : Issue) (d a : Opnd) (b : Src) (g : Val → Val → Val → Val) : M Unit :=
  k.writeF2 d (fun l =>
    let v (x : DWord) : Val := k.fval fmtF64 x.toNat
    let (r, j) := k.fround fmtF64 (g (v (k.tm.rdPair a l)) (v (k.srcD b l)) (v (k.tm.rdPair d l))) k.mode (laneKey d l) 0
    { lo := BitVec.ofNat 32 r, hi := BitVec.ofNat 32 (r / 2 ^ 32), draws := j })

/-- The value of a special function under RNE with flushing, never drawing (R165). -/
def Issue.special (k : Issue) (v : Val) : Word := BitVec.ofNat 32 (k.fround fmtF32 v 0 0 0).1

/-- A special function is tracked by `setA` (R165): its destination is tagged, and the values it computed at issue
are written when it completes. A channel destination is pushed at issue, and nothing is tracked then (log 113). -/
def startSpecial (k : Issue) (d : Opnd) (f : Nat → Val) : M Unit :=
  match d with
  | .pop c => chanPush k c.val k.act (fun l => k.special (f l))
  | d => k.startValue d 1 (fun l _ => k.special (f l))
def spec1 (k : Issue) (d : Opnd) (a : Src) (f : Val → Val) : M Unit := do
  let x ← k.src a
  startSpecial k d (fun l => f (k.fval fmtF32 (x l).toNat))

/-- `x` rounded to an integral binary32 by a fixed mode (R167). -/
def frnd (k : Issue) (mode : Nat) (x : Word) : Word :=
  match k.fval fmtF32 x.toNat with
  | .fin n m e =>
    let (i, _) := rndint n m e mode 0
    k.special (.fin n i.natAbs 0)
  | v => k.special v

/-- x − floor(x) under RD (R167). -/
def ffract (k : Issue) (x : Word) : Word :=
  match k.fval fmtF32 x.toNat with
  | .fin n m e =>
    let (i, _) := rndint n m e 2 0
    let v := sumVals 0 [.fin n m e, (intVal i).negate]
    match v with
    | .fin _ 0 _ => 0
    | v => BitVec.ofNat 32 (k.fround fmtF32 v 2 0 0).1
  | _ => BitVec.ofNat 32 fmtF32.canon

/-- clamp(x, +0, 1.0); NaN and −0 give +0 (R167). -/
def fsat (k : Issue) (x : Word) : Word :=
  let b := fmtF32.ftz (fFtz k.tm.fmode) x.toNat
  match fmtF32.val b with
  | .nan => 0
  | v => if v.neg || v.isZero then 0 else if (Val.fin false 1 0).lt v then 0x3F800000 else BitVec.ofNat 32 b

/-- Bytes multiplied and summed (R169). -/
def idot4 (x y z : Word) : Word :=
  wrap 32 ((List.range 4).foldl (fun a i => a + sext (x.toNat / 256 ^ i) 8 * sext (y.toNat / 256 ^ i) 8) (z.toNat : Int))

/-! ## Conversion (05) -/

/-- A codebook's sixteen entries. -/
def Block.book (x : Block) (c : Nat) : List Nat := (List.range 16).map fun i => (Tab.get 0 x.codebooks (c * 16 + i)).toNat
def Issue.book (k : Issue) : List Nat := k.blk.book (fCb k.tm.fmode)

/-- One conversion by `FMODE` (R142), its draw number `j`. -/
def Issue.conv1 (k : Issue) (x s d mode : Nat) (sat : Bool) (key j : Nat) : Conv :=
  conv x s d mode sat (fFtz k.tm.fmode) k.book (k.rng16 key j)

/-- `CVT` and its forms (R145, R146). -/
def cvt (k : Issue) (d : Opnd) (a : Src) (t s : Fin 16) (mode : Nat) (sat : Bool) : M Unit := do
  trapIf (t.val == 15 || s.val == 15) .fmtbad
  let x : Nat → Nat ← (if s.val = 14 then (pure (fun l => (k.srcD a l).toNat) : M (Nat → Nat))
    else do let f ← k.src a; pure (fun l => (f l).toNat))
  let f : Nat → FRes := fun l =>
    let c := k.conv1 (x l) s.val t.val mode sat (laneKey d l) 0
    if t.val = 14 then { lo := BitVec.ofNat 32 c.bits, hi := BitVec.ofNat 32 (c.bits / 2 ^ 32), invq := c.invq, draws := b2n c.drew }
    else { lo := placeReg t.val c.bits, invq := c.invq, draws := b2n c.drew }
  if t.val = 14 then k.writeF2 d f else k.writeF d f

/-- `PACK` (R148): elements in ascending order, each draw the next. -/
def packLane (k : Issue) (a : Opnd) (elem reg key l : Nat) : FRes :=
  let w := fmtWidth elem
  (List.range (packCount elem)).foldl (fun (r : FRes) i =>
    let c := k.conv1 (k.tm.rd a l i).toNat reg elem k.mode true key r.draws
    { r with lo := r.lo + BitVec.ofNat 32 (c.bits % 2 ^ w * 2 ^ (i * w)), invq := r.invq || c.invq, draws := r.draws + b2n c.drew }) { lo := 0 }
def pack (k : Issue) (d a : Opnd) (t s : Fin 16) : M Unit := do
  trapIf (t.val == 15 || s.val == 15) .fmtbad
  k.writeF d (fun l => packLane k a t.val s.val (laneKey d l) l)

/-- One element of `UNPACK` (R148); `e` draws before it. -/
def unpackElem (k : Issue) (x : Word) (reg elem key i j : Nat) : Conv :=
  let w := fmtWidth elem
  k.conv1 (x.toNat / 2 ^ (i * w) % 2 ^ w) elem reg k.mode false key j
/-- The elements of one lane with the draws each made. -/
def unpackLane (k : Issue) (x : Word) (reg elem key : Nat) : List Conv :=
  ((List.range (packCount elem)).foldl (fun (r : List Conv × Nat) i =>
    let c := unpackElem k x reg elem key i r.2
    (r.1 ++ [c], r.2 + b2n c.drew)) ([], 0)).1
def unpack (k : Issue) (d : Opnd) (a : Src) (t s : Fin 16) : M Unit := do
  trapIf (t.val == 15 || s.val == 15) .fmtbad
  let x ← k.src a
  let cs := fun l => unpackLane k (x l) t.val s.val (laneKey d l)
  k.mod fun m => (List.range (packCount s.val)).foldl (fun m i =>
    m.wr d k.act (fun l => placeReg t.val ((cs l).getD i ⟨0, false, false⟩).bits) i) m
  k.after d (fun l => { lo := 0, invq := (cs l).any (·.invq), draws := ((cs l).filter (·.drew)).length })

/-- FADD (R159). -/
def execFadd (d : Opnd) (a : Opnd) (b : Src) (σ : State) : Result :=
  issue ⟨shTwo d a b, .no, false, true⟩ (fun k => flt2 k d a b (fun x y => sumVals k.mode [x, y])) σ

/-- FSUB (R159). -/
def execFsub (d : Opnd) (a : Opnd) (b : Src) (σ : State) : Result :=
  issue ⟨shTwo d a b, .no, false, true⟩ (fun k => flt2 k d a b (fun x y => sumVals k.mode [x, y.negate])) σ

/-- FMUL (R159). -/
def execFmul (d : Opnd) (a : Opnd) (b : Src) (σ : State) : Result :=
  issue ⟨shTwo d a b, .no, false, true⟩ (fun k => flt2 k d a b Val.mul) σ

/-- FFMA (R159). -/
def execFfma (d : Opnd) (a : Opnd) (b : Src) (σ : State) : Result :=
  issue ⟨shAcc d a b, .no, false, true⟩ (fun k => flt3 k d a b (fun x y z => sumVals k.mode [x.mul y, z])) σ

/-- FMIN (R160). -/
def execFmin (d : Opnd) (a : Opnd) (b : Src) (σ : State) : Result :=
  issue ⟨shTwo d a b, .no, false, true⟩ (fun k => alu2 k d a b (minmax k false)) σ

/-- FMAX (R160). -/
def execFmax (d : Opnd) (a : Opnd) (b : Src) (σ : State) : Result :=
  issue ⟨shTwo d a b, .no, false, true⟩ (fun k => alu2 k d a b (minmax k true)) σ

/-- FCMP.eq (R161). -/
def execFcmpEq (p : Fin 8) (a : Opnd) (b : Src) (σ : State) : Result :=
  issue ⟨shCmp a b, .no, false, true⟩ (fun k => fcmp k p a b Val.eqv) σ

/-- FCMP.lt (R161). -/
def execFcmpLt (p : Fin 8) (a : Opnd) (b : Src) (σ : State) : Result :=
  issue ⟨shCmp a b, .no, false, true⟩ (fun k => fcmp k p a b Val.lt) σ

/-- FCMP.le (R161). -/
def execFcmpLe (p : Fin 8) (a : Opnd) (b : Src) (σ : State) : Result :=
  issue ⟨shCmp a b, .no, false, true⟩ (fun k => fcmp k p a b fle) σ

/-- FCMP.un (R161). -/
def execFcmpUn (p : Fin 8) (a : Opnd) (b : Src) (σ : State) : Result :=
  issue ⟨shCmp a b, .no, false, true⟩ (fun k => fcmp k p a b (fun x y => x.isNan || y.isNan)) σ

/-- HADD2.f16 (R162). -/
def execHadd2F16 (d : Opnd) (a : Opnd) (b : Src) (σ : State) : Result :=
  issue ⟨shTwo d a b, .no, false, true⟩ (fun k => packed2 k fmtF16 d a b (fun x y _ => sumVals k.mode [x, y])) σ

/-- HMUL2.f16 (R162). -/
def execHmul2F16 (d : Opnd) (a : Opnd) (b : Src) (σ : State) : Result :=
  issue ⟨shTwo d a b, .no, false, true⟩ (fun k => packed2 k fmtF16 d a b (fun x y _ => x.mul y)) σ

/-- HFMA2.f16 (R162). -/
def execHfma2F16 (d : Opnd) (a : Opnd) (b : Src) (σ : State) : Result :=
  issue ⟨shAcc d a b, .no, false, true⟩ (fun k => packed2 k fmtF16 d a b (fun x y z => sumVals k.mode [x.mul y, z])) σ

/-- HADD2.bf16 (R162). -/
def execHadd2Bf16 (d : Opnd) (a : Opnd) (b : Src) (σ : State) : Result :=
  issue ⟨shTwo d a b, .no, false, true⟩ (fun k => packed2 k fmtBf16 d a b (fun x y _ => sumVals k.mode [x, y])) σ

/-- HMUL2.bf16 (R162). -/
def execHmul2Bf16 (d : Opnd) (a : Opnd) (b : Src) (σ : State) : Result :=
  issue ⟨shTwo d a b, .no, false, true⟩ (fun k => packed2 k fmtBf16 d a b (fun x y _ => x.mul y)) σ

/-- HFMA2.bf16 (R162). -/
def execHfma2Bf16 (d : Opnd) (a : Opnd) (b : Src) (σ : State) : Result :=
  issue ⟨shAcc d a b, .no, false, true⟩ (fun k => packed2 k fmtBf16 d a b (fun x y z => sumVals k.mode [x.mul y, z])) σ

/-- DADD (R163). -/
def execDadd (d : Opnd) (a : Opnd) (b : Src) (σ : State) : Result :=
  issue ⟨shWWW d a b, .no, false, true⟩ (fun k => dbl k d a b (fun x y _ => sumVals k.mode [x, y])) σ

/-- DMUL (R163). -/
def execDmul (d : Opnd) (a : Opnd) (b : Src) (σ : State) : Result :=
  issue ⟨shWWW d a b, .no, false, true⟩ (fun k => dbl k d a b (fun x y _ => x.mul y)) σ

/-- DFMA (R163). -/
def execDfma (d : Opnd) (a : Opnd) (b : Src) (σ : State) : Result :=
  issue ⟨shWAcc d a b, .no, false, true⟩ (fun k => dbl k d a b (fun x y z => sumVals k.mode [x.mul y, z])) σ

/-- DCMP.lt (R164). -/
def execDcmpLt (p : Fin 8) (a : Opnd) (b : Src) (σ : State) : Result :=
  issue ⟨shCmpW a b, .no, false, true⟩ (fun k => dcmp k p a b Val.lt) σ

/-- DCMP.eq (R164). -/
def execDcmpEq (p : Fin 8) (a : Opnd) (b : Src) (σ : State) : Result :=
  issue ⟨shCmpW a b, .no, false, true⟩ (fun k => dcmp k p a b Val.eqv) σ

/-- FRCP (R166). -/
def execFrcp (d : Opnd) (a : Src) (σ : State) : Result :=
  issue ⟨shOne d a, .a, false, true⟩ (fun k => spec1 k d a (fun x => (Val.fin false 1 0).div x)) σ

/-- FRSQ (R166). -/
def execFrsq (d : Opnd) (a : Src) (σ : State) : Result :=
  issue ⟨shOne d a, .a, false, true⟩ (fun k => spec1 k d a Val.rsqrt) σ

/-- FSQRT (R166). -/
def execFsqrt (d : Opnd) (a : Src) (σ : State) : Result :=
  issue ⟨shOne d a, .a, false, true⟩ (fun k => spec1 k d a Val.sqrt) σ

/-- FEXP2 (R166). -/
def execFexp2 (d : Opnd) (a : Src) (σ : State) : Result :=
  issue ⟨shOne d a, .a, false, true⟩ (fun k => spec1 k d a Val.exp2) σ

/-- FLOG2 (R166). -/
def execFlog2 (d : Opnd) (a : Src) (σ : State) : Result :=
  issue ⟨shOne d a, .a, false, true⟩ (fun k => spec1 k d a Val.log2) σ

/-- FSIN (R166). -/
def execFsin (d : Opnd) (a : Src) (σ : State) : Result :=
  issue ⟨shOne d a, .a, false, true⟩ (fun k => spec1 k d a Val.sinTurns) σ

/-- FCOS (R166). -/
def execFcos (d : Opnd) (a : Src) (σ : State) : Result :=
  issue ⟨shOne d a, .a, false, true⟩ (fun k => spec1 k d a Val.cosTurns) σ

/-- FDIV (R166). -/
def execFdiv (d : Opnd) (a : Opnd) (b : Src) (σ : State) : Result :=
  issue ⟨shTwo d a b, .a, false, true⟩ (fun k => do let x ← k.read a; let y ← k.src b; startSpecial k d (fun l => (k.fval fmtF32 (x l).toNat).div (k.fval fmtF32 (y l).toNat))) σ

/-- FFRACT (R167). -/
def execFfract (d : Opnd) (a : Src) (σ : State) : Result :=
  issue ⟨shOne d a, .no, false, true⟩ (fun k => alu1 k d a (ffract k)) σ

/-- FRND.rn (R167). -/
def execFrndRn (d : Opnd) (a : Src) (σ : State) : Result :=
  issue ⟨shOne d a, .no, false, true⟩ (fun k => alu1 k d a (frnd k 0)) σ

/-- FRND.rz (R167). -/
def execFrndRz (d : Opnd) (a : Src) (σ : State) : Result :=
  issue ⟨shOne d a, .no, false, true⟩ (fun k => alu1 k d a (frnd k 1)) σ

/-- FRND.rd (R167). -/
def execFrndRd (d : Opnd) (a : Src) (σ : State) : Result :=
  issue ⟨shOne d a, .no, false, true⟩ (fun k => alu1 k d a (frnd k 2)) σ

/-- FRND.ru (R167). -/
def execFrndRu (d : Opnd) (a : Src) (σ : State) : Result :=
  issue ⟨shOne d a, .no, false, true⟩ (fun k => alu1 k d a (frnd k 3)) σ

/-- FSAT (R167). -/
def execFsat (d : Opnd) (a : Src) (σ : State) : Result :=
  issue ⟨shOne d a, .no, false, true⟩ (fun k => alu1 k d a (fsat k)) σ

/-- FDOT2.bf16 (R168). -/
def execFdot2Bf16 (d : Opnd) (a : Opnd) (b : Src) (σ : State) : Result :=
  issue ⟨shAcc d a b, .no, false, true⟩ (fun k => do
    let x ← k.read a
    let y ← k.src b
    k.writeF d (fun l =>
      let half (w : Word) (h : Nat) : Val := k.fval fmtBf16 (w.toNat / 65536 ^ h % 65536)
      k.f32 (sumVals k.mode [(half (x l) 0).mul (half (y l) 0), (half (x l) 1).mul (half (y l) 1), k.fval fmtF32 (k.tm.rd d l).toNat]) (laneKey d l))) σ

/-- IDOT4.i8 (R169). -/
def execIdot4I8 (d : Opnd) (a : Opnd) (b : Src) (σ : State) : Result :=
  issue ⟨shAcc d a b, .no, false, true⟩ (fun k => alu3 k d a b idot4) σ

/-- CVT (R146). -/
def execCvt (d : Opnd) (a : Src) (t : Fin 16) (s : Fin 16) (σ : State) : Result :=
  issue ⟨shCvt d a t s, .no, false, true⟩ (fun k => cvt k d a t s k.mode false) σ

/-- CVT.sat (R146). -/
def execCvtSat (d : Opnd) (a : Src) (t : Fin 16) (s : Fin 16) (σ : State) : Result :=
  issue ⟨shCvt d a t s, .no, false, true⟩ (fun k => cvt k d a t s k.mode true) σ

/-- CVT.sr (R146). -/
def execCvtSr (d : Opnd) (a : Src) (t : Fin 16) (s : Fin 16) (σ : State) : Result :=
  issue ⟨shCvt d a t s, .no, false, true⟩ (fun k => cvt k d a t s 5 true) σ

/-- PACK (R148). -/
def execPack (d : Opnd) (a : Opnd) (t : Fin 16) (s : Fin 16) (σ : State) : Result :=
  issue ⟨shPack d a t s, .no, false, true⟩ (fun k => pack k d a t s) σ

/-- UNPACK (R148). -/
def execUnpack (d : Opnd) (a : Src) (t : Fin 16) (s : Fin 16) (σ : State) : Result :=
  issue ⟨shUnpack d a t s, .no, false, true⟩ (fun k => unpack k d a t s) σ

/-- CBLOOK (R149). -/
def execCblook (c : Fin 8) (d : Opnd) (a : Src) (σ : State) : Result :=
  issue ⟨shOne d a, .no, false, true⟩ (fun k => alu1 k d a (fun x => (Tab.get 0 k.blk.codebooks (c.val * 16 + x.toNat % 16)).setWidth 32 <<< 16)) σ

/-- CBSET (R149). -/
def execCbset (c : Fin 8) (q : Fin 8) (a : Src) (σ : State) : Result :=
  issue ⟨shS1 a, .no, false, true⟩ (fun k => k.modB (fun x => { x with codebooks := Tab.set 0 (Tab.set 0 x.codebooks (c.val * 16 + 2 * q.val) ((k.uni a).setWidth 16)) (c.val * 16 + 2 * q.val + 1) ((k.uni a >>> 16).setWidth 16) })) σ

end Sys2Proof.Machine
end

