-- ==== Sys2Proof/Machine/LanePriv.lean ====
section
/-! DEFINITION. Lane-private space (07 R173, R174; 03 R80): its interleave, its bytes, the call stack's entries. -/
namespace Sys2Proof.Machine
open Sys2Proof

/-- Place of byte `o` of lane `l` within the team's area (R173). -/
def lpKey (o l : Nat) : Nat := o / 4 * 64 + l * 4 + o % 4

/-- The global address of lane-private offset `o` (R173). -/
def Block.lpAddr (x : Block) (t o l : Nat) : Nat := x.lpbase.toNat + t * 16 * x.lpsize + lpKey o l

/-- `n` bytes at offset `o` of lane `l`; bytes the lane has not written read 0 (R174). -/
def Team.lpRead (m : Team) (o l n : Nat) : List Byte :=
  (List.range n).map fun i => Tab.get 0 m.lpData (lpKey (o + i) l)

/-- The line of offset `o` of lane `l` is touched: it is filled with zeros the first time (R174). -/
def Team.lpTouch (m : Team) (o l : Nat) : Team := { m with lpTouched := addNew (lpKey o l / 128) m.lpTouched }

/-- Bytes stored at offset `o` of lane `l`; their lines count as touched (R174). -/
def Team.lpWrite (m : Team) (o l : Nat) (bytes : List Byte) : Team :=
  bytes.zipIdx.foldl (fun m (x, i) => { m.lpTouch (o + i) l with lpData := Tab.set 0 m.lpData (lpKey (o + i) l) x }) m

/-- Translation of a lane-private access that must not fail half way: a page fault holds the instruction, `PROT` and
a fatal entry trap at the lane (R193, R81). -/
def laneAccess (k : Issue) (l va : Nat) (a : Access) : M Unit := do
  let s ← get
  match s.translateLane k.b k.t l va a with
  | (.ok _, s) => set s
  | (.fault ro, _) => stop (.pageFault { asid := k.blk.asid, va := va / 4096 * 4096, kind := if a.writes then 1 else 0,
                                         readOnly := ro, who := .block k.b, addr := va })
  | (.fatal, _) => trapLane .pagefatal va l
  | _ => trapLane .prot va l

/-- Outstanding lane-private accesses of the team. -/
def Team.laneOps (m : Team) : Bool := m.ops.any (fun o => o.kind == .laneLoad || o.kind == .laneStore)

end Sys2Proof.Machine
end

