-- ==== Sys2Proof/Machine/Trace.lean ====
section
/-! DEFINITION. Trace records (16 R427, 17 R436). -/
namespace Sys2Proof.Machine
open Sys2Proof

/-- Trace is enabled for the suite. -/
def Suite.tracing (x : Suite) : Bool := x.trctl.getLsbD 63
/-- The buffer's size in bytes. -/
def Suite.traceSize (x : Suite) : Nat := bits x.trctl.toNat 47 32 * 4096
/-- Records that still fit. -/
def Suite.traceRoom (x : Suite) : Nat :=
  let n := x.traceSize
  if n = 0 then 0 else ((x.trtail.toNat % n + n - (x.trhead.toNat + 16) % n) % n) / 16

/-- The 16 bytes of a record (R427). -/
def traceBytes (tick core room slot kind blockid payload : Nat) : List Byte :=
  leBytes 16 (tick % 2 ^ 48 + core % 512 * 2 ^ 55 + room % 8 * 2 ^ 64 + slot % 256 * 2 ^ 67 + kind % 4 * 2 ^ 75 +
    blockid % 2 ^ 19 * 2 ^ 77 + payload % 2 ^ 32 * 2 ^ 96)

/-- A record at the buffer's head; a page that is not there drops it. -/
def State.traceWrite (s : State) (u : Nat) (r : List Byte) : State :=
  let x := s.suite u
  let s := match s.engWrite (ostCore u) (x.trctl.toNat % 8192) (x.trbase.toNat + x.trhead.toNat) r with
    | .ok s => s
    | .error _ => s
  s.modSuite u fun x => { x with trhead := BitVec.ofNat 64 ((x.trhead.toNat + 16) % x.traceSize) }

/-- A record of a suite; a full buffer drops and counts it, and the next one that fits follows a record of the
count. -/
def State.trace (s : State) (u kind blockid payload slot core : Nat) : State :=
  let x := s.suite u
  if !x.tracing then s
  else
    let lost := x.trlost.toNat
    let want := if lost = 0 then 1 else 2
    let room := roomOfCore core
    if x.traceRoom < want then
      s.modSuite u fun x => { x with trlost := BitVec.ofNat 32 (min (2 ^ 32 - 1) (lost + 1)) }
    else
      let s := if lost = 0 then s
        else (s.traceWrite u (traceBytes s.tick core room slot 2 0 lost)).modSuite u fun x => { x with trlost := 0 }
      let s := s.traceWrite u (traceBytes s.tick core room slot kind blockid payload)
      if (s.suite u).traceRoom = 0 then s.raiseCause u 3 else s

end Sys2Proof.Machine
end

