-- ==== Sys2Proof/Machine/Control.lean ====
section
/-! DEFINITION. Control instructions (03): branches, calls, rejoin masks, predicates, sleeping, barriers, hitches,
traps and marks. -/
namespace Sys2Proof.Machine
open Sys2Proof

/-! ## Transfers (R78-R83) -/

/-- The priority of a marked target; anything else stops the instruction before a lane moves (R78). -/
def targetPrio (k : Issue) (va l : Nat) : M Nat := do
  let s ← get
  match s.marked k.blk.core k.blk.asid va with
  | (.ok (some p), s) => do set s; pure p
  | (.ok none, _) => trapLane .badtarget va l
  | (.fault v, _) => stop (.pageFault { asid := k.blk.asid, va := v / 4096 * 4096, kind := 2, readOnly := false, who := .block k.b })
  | (.fatal v, _) => trapLane .pagefatal v l
  | (.prot v, _) => trapLane .prot v l

/-- Lanes move at the clause's end (R74). -/
def Issue.move (k : Issue) (ms : List Move) : M Unit :=
  k.mod fun m => { m with clause := m.clause.map fun cl => { cl with moves := cl.moves ++ ms } }

/-- The target of a Format B word (R46). -/
def branchTarget (pc : Nat) (o : BOff) : Nat :=
  wrapN ((pc : Int) + 4 * (match o with
    | .near v => v.toInt
    | .far w => w.toInt)) 64

/-- The lanes of a mask branch to one target (R78). -/
def branch (k : Issue) (taken : Half) (target : Nat) : M Unit :=
  if taken = 0 then pure ()
  else do
    let p ← targetPrio k target ((lanesOf taken).headD 0)
    k.move ((lanesOf taken).map fun l => ⟨l, target, p⟩)

/-- The addresses of `BRX` and `CALLX`, with the three checks of R79, each over all lanes. -/
def indirect (k : Issue) (a : Opnd) : M (List Move) := do
  let ts := k.lanes.map fun l => (l, (k.tm.rdPair a l).toNat)
  match ts.find? (fun e => decide (e.2 ≥ 2 ^ 56)) with
  | some e => trapLane .prot e.2 e.1
  | none => match ts.find? (fun e => e.2 % 4 != 0) with
    | some e => trapLane .misalign e.2 e.1
    | none => ts.mapM fun e => do
        let p ← targetPrio k e.2 e.1
        pure ⟨e.1, e.2, p⟩

/-- The offset of call-stack entry `i` (R80). -/
def callSlot (lpsize i : Nat) : Nat := lpsize - 16 * (i + 1)

/-- The pushes of a call (R81): checked, translated for every lane, then written; then the lanes move. -/
def pushAll (k : Issue) (ms : List Move) : M Unit := do
  if k.tm.laneOps then stallM else
  let sz := k.blk.lpsize
  let depth (l : Nat) : Nat := Tab.get 0 k.tm.depth l
  match k.lanes.find? (fun l => depth l == 64 || decide (sz < 16 * (depth l + 1))) with
  | some l => trapLane .prot (wrapN (k.blk.lpAddr k.t 0 l + (((sz : Int) - 16 * (depth l + 1)) / 4) * 64) 64) l
  | none =>
    let _ ← k.lanes.mapM fun l => do
      laneAccess k l (k.blk.lpAddr k.t (callSlot sz (depth l)) l) .laneStore
      laneAccess k l (k.blk.lpAddr k.t (callSlot sz (depth l) + 12) l) .laneStore
    k.mod fun m => k.lanes.foldl (fun m l =>
      { (m.lpWrite (callSlot sz (depth l)) l (leBytes 8 (k.nextClause % 2 ^ 56) ++ leBytes 8 k.cl.prio)) with
        depth := Tab.set 0 m.depth l (depth l + 1) }) m
    k.move ms

/-- `RET` (R82). -/
def ret (k : Issue) : M Unit := do
  if k.tm.laneOps then stallM else
  let sz := k.blk.lpsize
  let depth (l : Nat) : Nat := Tab.get 0 k.tm.depth l
  let deep := k.lanes.filter (fun l => depth l != 0)
  let _ ← deep.mapM fun l => do
    laneAccess k l (k.blk.lpAddr k.t (callSlot sz (depth l - 1)) l) .laneLoad
    laneAccess k l (k.blk.lpAddr k.t (callSlot sz (depth l - 1) + 12) l) .laneLoad
  let top (l : Nat) : List Byte := k.tm.lpRead (callSlot sz (depth l - 1)) l 16
  let rpc (l : Nat) : Nat := field (top l) 0 8
  match deep.find? (fun l => decide (rpc l ≥ 2 ^ 56)) with
  | some l => trapLane .prot (rpc l) l
  | none => match deep.find? (fun l => rpc l % 4 != 0) with
    | some l => trapLane .misalign (rpc l) l
    | none => do
      k.mod fun m => deep.foldl (fun m l =>
        let o := callSlot sz (depth l - 1)
        { (m.lpTouch o l).lpTouch (o + 12) l with depth := Tab.set 0 m.depth l (depth l - 1) }) m
      k.move (deep.map fun l => ⟨l, rpc l, field (top l) 8 8 % 4096⟩)
      k.mod fun m => m.retireLanes (maskOf fun l => laneIn k.act l && depth l == 0)

/-! ## Rejoin masks (R85-R87) -/

def jset (k : Issue) (n : Nat) (w : Word) : M Unit := do
  let held (es : List Entry) : Bool := es.any (fun e => e.held == some n)
  trapIf (held k.tm.frontier || (match k.tm.kept with | some q => held q.frontier | none => false)) .barbusy
  k.mod fun m => m.setJoin n ⟨w.setWidth 16, 0⟩

def arrive (k : Issue) (n : Nat) : M Unit :=
  k.mod fun m => let j := m.join n; m.setJoin n { j with arrived := j.arrived ||| (k.act &&& j.expect) }

def waitj (k : Issue) (n : Nat) : M Unit := do
  let h := k.act &&& (k.tm.join n).expect
  arrive k n
  if h = 0 then pure () else
    k.mod fun m => { m with clause := m.clause.map fun cl => { cl with hold := some (n, h) } }

/-! ## Sleeping (R91) -/

def sleep (k : Issue) (w : Word) : M Unit :=
  let n := min w.toNat (2 ^ 24)
  if n = 0 then pure () else k.park (.sleep (k.tick + n))

/-! ## Barriers (R92-R99): the instruction goes to the barrier unit and waits for it -/

/-- The count operand (R77). -/
def countOf (k : Issue) : Count → Nat
  | .one => 1
  | .reg r => (k.tm.s r.val).toNat
  | .lit w => w.toNat

/-- An operation is on its way to the unit: it reaches it `lat` ticks from now (R94; a tick is 2 core clocks). -/
def Block.sendBar (x : Block) (tick lat : Nat) (o : BarOp) : Block := { x with barOps := x.barOps ++ [⟨tick + lat, o⟩] }

/-- Send an operation to the unit; the team issues nothing until it is applied (R94). -/
def toUnit (k : Issue) (n : Nat) (o : BarOp) : M Unit := do
  k.modB fun x => x.sendBar k.tick 1 o
  k.park (.unit n)

def counted (k : Issue) (n c : Nat) (o : BarOp) : M Unit := do
  trapIf (c == 0 || decide (c > 4095)) .illegal
  toUnit k n o

/-! ## Hitches (R101-R104) -/

/-- The member of a block's hitch in a slot. -/
def State.member (s : State) (b slot : Nat) : Option Nat :=
  match (s.block b).hitch with
  | none => none
  | some (key, _) =>
    (s.blocks.find? fun (_, x) => x.suite == (s.block b).suite && postOfCore x.core == postOfCore (s.block b).core &&
      x.hitch == some (key, slot)).map Prod.fst

def joinHitch (k : Issue) (d : Opnd) (key : Word) : M Unit := do
  let s ← get
  match k.blk.hitch with
  | some _ => k.write d (fun _ => 0xFFFFFFFE)
  | none =>
    let taken := s.blocks.filterMap fun (_, x) =>
      if x.suite == k.blk.suite && postOfCore x.core == postOfCore k.blk.core then
        (match x.hitch with | some (q, n) => if q = key then some n else none | none => none) else none
    match (List.range 8).find? (fun n => !taken.contains n) with
    | none => k.write d (fun _ => 0xFFFFFFFF)
    | some n => do
      k.modB fun x => { x with hitch := some (key, n) }
      k.write d (fun _ => BitVec.ofNat 32 n)

/-- `HMAP` (R102); a slot above 7, which no hitch has, is answered as a free one (log 99). -/
def hmap (k : Issue) (d : Opnd) (w : Word) : M Unit := do
  let s ← get
  let n := w.toNat
  let bad := match k.blk.hitch with
    | none => true
    | some (_, own) => decide (n > 7) || own == n || (s.member k.b n).isNone
  if bad then k.write d (fun _ => 0xFFFFFFFF) else do
    k.modB fun x => { x with windows := if x.windows.contains n then x.windows else x.windows ++ [n] }
    k.write d (fun _ => BitVec.ofNat 32 (Config.windowBase * (n + 1)))

/-- `BARRIVE.peer` (R104): tracked by `setB`; it lands at the peer's barrier unit. A slot above 7, which no hitch has, is answered
as a free one (log 99). -/
def peerArrive (k : Issue) (n : Nat) (w : Word) : M Unit := do
  let s ← get
  let slot := w.toNat
  match k.blk.hitch with
  | none => trap .prot
  | some (_, own) =>
    if own = slot then trap .prot else
    match s.member k.b slot with
    | none => trap .prot
    | some p => do
      k.start { kind := .deferred, aux := [p, n],
                els := [{ lane := 0, va := 0, n := 0 }] }
      update (·.modBlock p fun x => x.sendBar k.tick 20 (.peer n own k.b k.t k.tm.nextOp))

/-- Accesses through windows, and peer arrivals, that the block issued have not completed. -/
def Block.peersOwed (x : Block) (b : Nat) : Bool := x.teams.any fun m => m.ops.any fun o =>
  (o.kind == .deferred && o.els.any fun e => !e.done) ||
  o.els.any fun e => !e.done && (match e.place with | some (.stash h _) => h != b | _ => match e.via with | some (h, _) => h != b | none => false)

/-- `UNHITCH` (R103): what the block issued to its peers before completes first. -/
def unhitchIns (k : Issue) : M Unit := do
  let s ← get
  if (s.block k.b).hitch.isSome && (s.block k.b).peersOwed k.b then stallM else update (·.unhitch k.b)

/-- BRA (R78). -/
def execBra (neg : Bool) (p : Fin 8) (o : BOff) (σ : State) : Result :=
  issue ⟨Shape.none, .no, true, true⟩ (fun k => branch k (k.act &&& (if neg then ~~~(k.tm.p p.val) else k.tm.p p.val)) (branchTarget k.pc o)) σ

/-- BRU (R78). -/
def execBru (o : BOff) (σ : State) : Result :=
  issue ⟨Shape.none, .no, true, true⟩ (fun k => branch k k.act (branchTarget k.pc o)) σ

/-- BRX (R79). -/
def execBrx (a : Opnd) (σ : State) : Result :=
  issue ⟨shBrx a, .no, true, false⟩ (fun k => do let ms ← indirect k a; k.move ms) σ

/-- CALL (R81). -/
def execCall (o : BOff) (σ : State) : Result :=
  issue ⟨Shape.none, .no, true, false⟩ (fun k => do
    let target := branchTarget k.pc o
    let p ← targetPrio k target k.lowest
    pushAll k (k.lanes.map fun l => ⟨l, target, p⟩)) σ

/-- CALLX (R81). -/
def execCallx (a : Opnd) (σ : State) : Result :=
  issue ⟨shBrx a, .no, true, false⟩ (fun k => do let ms ← indirect k a; pushAll k ms) σ

/-- RET (R82). -/
def execRet (σ : State) : Result :=
  issue ⟨Shape.none, .no, true, false⟩ (fun k => ret k) σ

/-- EXIT (R83). -/
def execExit (σ : State) : Result :=
  issue ⟨Shape.none, .no, true, false⟩ (fun k => k.mod (fun m => m.retireLanes k.act)) σ

/-- JSET (R85). -/
def execJset (i : Fin 8) (a : Src) (σ : State) : Result :=
  issue ⟨shS1 a, .no, false, false⟩ (fun k => jset k i.val (k.uni a)) σ

/-- ARRIVE (R86). -/
def execArrive (i : Fin 8) (σ : State) : Result :=
  issue ⟨Shape.none, .no, false, false⟩ (fun k => arrive k i.val) σ

/-- WAITJ (R87). -/
def execWaitj (i : Fin 8) (σ : State) : Result :=
  issue ⟨Shape.none, .no, true, false⟩ (fun k => waitj k i.val) σ

/-- PAND (R89). -/
def execPand (d : Fin 8) (a : Fin 8) (b : PSrc) (σ : State) : Result :=
  issue ⟨Shape.none, .no, false, true⟩ (fun k => do let y ← k.predSrc b; let x ← k.predSrc (.p a); k.writePred d.val (fun l => x l && y l)) σ

/-- POR (R89). -/
def execPor (d : Fin 8) (a : Fin 8) (b : PSrc) (σ : State) : Result :=
  issue ⟨Shape.none, .no, false, true⟩ (fun k => do let y ← k.predSrc b; let x ← k.predSrc (.p a); k.writePred d.val (fun l => x l || y l)) σ

/-- PXOR (R89). -/
def execPxor (d : Fin 8) (a : Fin 8) (b : PSrc) (σ : State) : Result :=
  issue ⟨Shape.none, .no, false, true⟩ (fun k => do let y ← k.predSrc b; let x ← k.predSrc (.p a); k.writePred d.val (fun l => xor (x l) (y l))) σ

/-- PNOT (R89). -/
def execPnot (d : Fin 8) (a : Fin 8) (σ : State) : Result :=
  issue ⟨Shape.none, .no, false, true⟩ (fun k => k.writePred d.val (fun l => !laneIn (k.tm.p a.val) l)) σ

/-- PMOV (R89). -/
def execPmov (d : Fin 8) (a : PSrc) (σ : State) : Result :=
  issue ⟨Shape.none, .no, false, true⟩ (fun k => do let x ← k.predSrc a; k.writePred d.val x) σ

/-- YIELD (R90). -/
def execYield (σ : State) : Result :=
  issue ⟨Shape.none, .no, true, false⟩ (fun _ => pure ()) σ

/-- SLEEP (R91). -/
def execSleep (a : Src) (σ : State) : Result :=
  issue ⟨shS1 a, .no, true, false⟩ (fun k => sleep k (k.uni a)) σ

/-- BINIT (R95). -/
def execBinit (i : Fin 16) (a : Src) (σ : State) : Result :=
  issue ⟨shS1 a, .no, false, false⟩ (fun k => counted k i.val (k.uni a).toNat (.init k.t i.val (k.uni a).toNat)) σ

/-- BARRIVE (R96). -/
def execBarrive (i : Fin 16) (a : Count) (σ : State) : Result :=
  issue ⟨shCount a, .no, false, false⟩ (fun k => counted k i.val (countOf k a) (.arrive k.t i.val (countOf k a) false)) σ

/-- BINVAL (R98). -/
def execBinval (i : Fin 16) (σ : State) : Result :=
  issue ⟨Shape.none, .no, false, false⟩ (fun k => toUnit k i.val (.inval k.t i.val)) σ

/-- BTEST (R99). -/
def execBtest (i : Fin 16) (a : Opnd) (σ : State) : Result :=
  issue ⟨shSDst a, .no, false, false⟩ (fun k => toUnit k i.val (.test k.t i.val (byteOfOpnd a))) σ

/-- BARRIVE.peer (R104). -/
def execBarrivePeer (i : Fin 16) (a : Opnd) (σ : State) : Result :=
  issue ⟨shSSrc a, .b, false, false⟩ (fun k => peerArrive k i.val (k.tm.rd a 0)) σ

/-- HITCH (R101). -/
def execHitch (d : Opnd) (a : Src) (σ : State) : Result :=
  issue ⟨shSS d a, .no, false, false⟩ (fun k => joinHitch k d (k.uni a)) σ

/-- UNHITCH (R103). -/
def execUnhitch (σ : State) : Result :=
  issue ⟨Shape.none, .no, false, false⟩ unhitchIns σ

/-- HMAP (R102). -/
def execHmap (d : Opnd) (a : Src) (σ : State) : Result :=
  issue ⟨shSS d a, .no, false, false⟩ (fun k => hmap k d (k.uni a)) σ

/-- TRAP (R105). -/
def execTrap (a : Src) (σ : State) : Result :=
  issue ⟨shS1 a, .no, true, false⟩ (fun k => trap .swtrap (k.uni a).toNat) σ

/-- BKPT (R105). -/
def execBkpt (σ : State) : Result :=
  issue ⟨Shape.none, .no, false, false⟩ (fun _ => trap .bkpt) σ

/-- TMARK (R105). -/
def execTmark (a : Src) (σ : State) : Result :=
  issue ⟨shS1 a, .no, false, false⟩ (fun k => update (fun s => s.trace k.blk.suite 1 0 (k.uni a).toNat k.tm.slot k.blk.core)) σ

end Sys2Proof.Machine
end

