-- ==== Sys2Proof/Machine/MemOps.lean ====
section
/-! DEFINITION. What memory instructions share: addresses (07 R176), checks (R178), stash and windows (R102, R175,
R183), banks (R189), watchpoints (16 R418), the pieces of an access, accesses inside a transaction (09 R233-R236). -/
namespace Sys2Proof.Machine
open Sys2Proof

/-! ## Addresses (R176) -/

/-- The access is uniform: `a` an s-pair, the offset an s-register or a literal. -/
def uniOff (a : Opnd) : MOff → Bool
  | .reg o => isS a && isS o
  | .lit _ _ => isS a

/-- `off` of R176. -/
def Issue.off (k : Issue) (b : MOff) (l : Nat) : Int :=
  match b with
  | .reg o => sext (k.tm.rd o l).toNat 32
  | .lit w _ => sext w.toNat 32

/-- `addr` of R176 for a lane. -/
def Issue.addr (k : Issue) (a : Opnd) (b : MOff) (l : Nat) : Nat :=
  wrapN ((k.tm.rdPair a l).toNat + k.off b l) 64

/-- The lanes for which an access is made: every active lane, or the lowest one for a uniform access. -/
def Issue.accLanes (k : Issue) (uni : Bool) : List Nat := if uni then k.lanes.take 1 else k.lanes

/-- A lane and its address. -/
abbrev LaneAddr := Nat × Nat

/-! ## Checks (R178) -/

/-- The first address of which `p` holds traps at its lane. -/
def checkEach (as : List LaneAddr) (f : LaneAddr → Option (TrapCode × Nat)) : M Unit :=
  match firstOf (fun x => (f x).map fun r => (x.1, r)) as with
  | none => pure ()
  | some (l, c, v) => trapLane c v l

/-- Global addresses: every byte below 2^56, then alignment. -/
def globalCheck (n align : Nat) (x : LaneAddr) : Option (TrapCode × Nat) :=
  if x.2 + n > 2 ^ 56 then some (.prot, x.2)
  else if x.2 % align ≠ 0 then some (.misalign, x.2) else none

/-- Lane-private offsets: every byte below LPSIZE, then a multiple of 4. -/
def laneCheck (lpsize n : Nat) (x : LaneAddr) : Option (TrapCode × Nat) :=
  if x.2 + n > lpsize then some (.prot, x.2)
  else if x.2 % 4 ≠ 0 then some (.misalign, x.2) else none

/-- Where a stash offset lands: the block's own stash, or a hitch peer's through a window (R102, R175). -/
def State.stashAt (s : State) (b off n : Nat) : Option (Nat × Nat) :=
  let x := s.block b
  if off + n ≤ x.stashSize then some (b, off)
  else if off < Config.windowBase then none
  else
    let w := off / Config.windowBase - 1
    let o := off % Config.windowBase
    if x.windows.contains w then
      match s.member b w with
      | some p => if o + n ≤ (s.block p).stashSize then some (p, o) else none
      | none => none
    else none

def stashCheck (s : State) (b n align : Nat) (x : LaneAddr) : Option (TrapCode × Nat) :=
  if (s.stashAt b x.2 n).isNone then some (.prot, x.2)
  else if x.2 % align ≠ 0 then some (.misalign, x.2) else none

/-! ## Mapped stash (R183) -/

/-- The piece of a stash access: a byte of unmapped stash, or a global address of the holder's mapping. -/
def State.stashElem (s : State) (b l off n data : Nat) : Elem :=
  match s.stashAt b off n with
  | none => { lane := l, va := off, n := n, data := data, place := some (.stash b off) }
  | some (h, o) => match (s.block h).mapOf (o / 128) with
    | some (_, m) => { lane := l, va := m.va + (o - m.line * 128), n := n, data := data, via := some (h, o / 128) }
    | none => { lane := l, va := off, n := n, data := data, place := some (.stash h o) }

/-! ## Stash banks (R189) -/

def bankOf (hash : Word) (w : Nat) : Nat :=
  bits w 4 0 ^^^ (bits hash.toNat 4 0 &&& bits w 9 5) ^^^ (bits hash.toNat 9 5 &&& bits w 14 10)

/-- The distinct words of a team's stash access. -/
def State.stashWords (s : State) (b n : Nat) (offs : List Nat) : List (Nat × Nat) :=
  (offs.flatMap fun off => match s.stashAt b off n with
    | some (h, o) => (List.range (ceilDiv (o % 4 + n) 4)).map fun i => (h, o / 4 + i)
    | none => []).eraseDups

/-- The extra passes of bank `i`: distinct words beyond the first of each stash. -/
def State.extraPasses (s : State) (ws : List (Nat × Nat)) (i : Nat) : Nat :=
  let mine := ws.filter fun (h, w) => bankOf (s.block h).stashhash w == i
  mine.length - (mine.map Prod.fst).eraseDups.length

/-- Entries of the replay queue in use: one leaves it each core clock (01 R14; a tick is 2 of them). -/
def State.replayUsed (s : State) (c : Nat) : Nat := (s.core c).replay - 2 * (s.tick - (s.core c).replayAt)

/-- The conflict counters grow, saturating (16 R416), and each pass beyond the first takes an entry of the core's replay queue; a
full one stalls the access at issue (R189). -/
def countBanks (k : Issue) (n : Nat) (offs : List Nat) : M Unit := do
  let s ← get
  let ws := s.stashWords k.b n offs
  let more := (List.range 32).foldl (fun a i => max a (s.extraPasses ws i)) 0
  let used := s.replayUsed k.blk.core
  if used ≥ Config.replayMax then stallM else pure ()
  set (s.modCore k.blk.core fun q => if more = 0 then q else { q with replay := used + more, replayAt := s.tick })
  k.modB fun x => { x with banks := (List.range 32).foldl (fun t i =>
    Tab.set 0 t i (BitVec.ofNat 32 (min (2 ^ 32 - 1) ((Tab.get 0 t i).toNat + s.extraPasses ws i)))) x.banks }

/-! ## Watchpoints (16 R418) -/

/-- The range a watch covers. -/
def Block.watchRange (x : Block) (one : Bool) : Nat × Nat :=
  let f := if one then bits x.watchctl.toNat 25 21 else bits x.watchctl.toNat 20 16
  let z := if 2 ≤ f ∧ f ≤ 20 then f else 2
  let base := (if one then x.watch1 else x.watch0).toNat
  (base / 2 ^ z * 2 ^ z, 2 ^ z)

/-- An access of `n` bytes at `va` meets an enabled watch. -/
def Block.watched (x : Block) (ld st : Bool) (va n : Nat) : Bool :=
  let c := x.watchctl.toNat
  let on (one : Bool) : Bool := if one then (st && bit c 3) || (ld && bit c 2) else (st && bit c 1) || (ld && bit c 0)
  let meets (one : Bool) : Bool :=
    let r := x.watchRange one
    decide (r.1 < va + n) && decide (va < r.1 + r.2)
  (on false && meets false) || (on true && meets true)

def watchCheck (k : Issue) (ld st : Bool) (n : Nat) (as : List LaneAddr) : M Unit :=
  checkEach as fun x => if k.blk.watched ld st x.2 n then some (.watch, x.2) else none

/-! ## Accesses inside a transaction (09 R234-R236) -/

/-- A lane's transaction aborts, and the lane does nothing more in this clause. -/
def Issue.abort (k : Issue) (l code detail : Nat) : M Unit := k.mod (·.abortTx l code detail)

/-- A page fault that holds nothing but a retry is recorded (R235, 07 R477). -/
def State.noteFault (s : State) (f : PFault) : State := { s with faults := s.faults ++ [f] }

/-- Translation for a transaction: a page fault aborts with `PAGE`, a fatal entry, `PROT` and a host page with
`ILLEGAL`. -/
def txPlace (k : Issue) (l va : Nat) (st : Bool) : M (Option Nat) := do
  let s ← get
  match s.translateLane k.b k.t l va (if st then .store else .load) with
  | (.ok pg, s) => do
    set s
    match pg.place va with
    | .dev pa => pure (some pa)
    | _ => do k.abort l 4 0; pure none
  | (.fault ro, s) => do
    set (s.noteFault { asid := k.blk.asid, va := va / 4096 * 4096, kind := b2n st, readOnly := ro, who := .retry })
    k.abort l 5 0
    pure none
  | (.fatal, _) => do k.abort l 4 TrapCode.pagefatal.num; pure none
  | _ => do k.abort l 4 TrapCode.prot.num; pure none

/-- The transaction of a lane as it stands. -/
def Issue.txNow (k : Issue) (l : Nat) : M (Option Tx) := do
  let s ← get
  pure ((s.team k.b k.t).tx l)

def Issue.setTx (k : Issue) (l : Nat) (x : Tx) : M Unit := k.mod fun m => { m with txs := Tab.set none m.txs l (some x) }

/-- A provisional store of another core is held on the line: loads and atomics of it stall (08 R205). -/
def State.provisionalOn (s : State) (c l : Nat) : Bool :=
  s.blocks.any fun (_, x) => x.core != c && x.teams.any fun m => m.ops.any fun o => o.prov && o.els.any fun e =>
    !e.done && (match e.place with | some (.dev pa) => pa / 128 == l | _ => false)

/-- What a transaction reads of `n` bytes at `pa`: its own stores, what it read before, else memory. -/
def State.txBytes (s : State) (x : Tx) (pa n : Nat) : List Byte :=
  (s.devRead pa n).zipIdx.map fun (v, i) => (Tab.find x.writes (pa + i)).getD ((Tab.find x.reads (pa + i)).getD v)

/-- A load of a lane in a transaction: its value, unless the transaction aborts. -/
def txLoad (k : Issue) (l va n : Nat) : M (Option Nat) := do
  match ← txPlace k l va false with
  | none => pure none
  | some pa => match ← k.txNow l with
    | none => pure none
    | some x => do
      let s ← get
      let rl := addNew (pa / 128) x.rlines
      if rl.length > 8 then do k.abort l 3 0; pure none
      else if s.provisionalOn k.blk.core (pa / 128) then stallM
      else if s.poisoned pa n then do k.abort l 4 TrapCode.ecc.num; pure none
      else do
        let bs := s.txBytes x pa n
        let new := bs.zipIdx.foldl (fun t (v, i) =>
          if (Tab.find x.writes (pa + i)).isSome then t else Tab.put t (pa + i) v) x.reads
        set ((s.leaseRead k.blk.core (pa / 128) Config.lease).readBy k.blk.asid (pa / 128))
        k.setTx l { x with reads := new, rlines := rl }
        pure (some (ofLe bs))

/-- A store of a lane in a transaction is held in the core. -/
def txStore (k : Issue) (l va n data : Nat) : M Unit := do
  match ← txPlace k l va true with
  | none => pure ()
  | some pa => match ← k.txNow l with
    | none => pure ()
    | some x => do
      let wl := addNew (pa / 128) x.wlines
      if wl.length > 4 then k.abort l 3 0
      else
        k.setTx l { x with
          writes := (leBytes n data).zipIdx.foldl (fun t (v, i) => Tab.put t (pa + i) v) x.writes
          wlines := wl }

/-! ## Starting an access (R179-R182, R195) -/

/-- The words a value of `n` bytes fills, sign-extended when narrow and signed. -/
def wordsOf (n : Nat) (sgn : Bool) (x : Nat) : List Word :=
  if n < 4 then [if sgn then BitVec.ofInt 32 (sext x (8 * n)) else BitVec.ofNat 32 x]
  else (List.range (n / 4)).map fun i => BitVec.ofNat 32 (x / 2 ^ (32 * i))

/-- The writes of one lane's words to a destination: a v-register of that lane, or the s-registers. -/
def laneWrites (dests : List Nat) (l : Nat) (ws : List Word) : List (Nat × Word) :=
  (dests.zip ws).map fun (byte, w) => (writeKey byte (if byte < 96 then l else 0), w)

/-- The data a lane stores: the low `n` bytes of the registers of `d`. -/
def Issue.dataOf (k : Issue) (d : Opnd) (n l : Nat) : Nat :=
  ((List.range (ceilDiv n 4)).foldl (fun a i => a + (k.tm.rd d l i).toNat * 2 ^ (32 * i)) 0) % 2 ^ (8 * n)

/-- The lanes of an access inside a transaction, and the pieces of the others. -/
def Issue.split (k : Issue) (uni : Bool) (as : List LaneAddr) : List LaneAddr × List LaneAddr :=
  let tx := k.act &&& k.tm.openTx
  if uni then
    ((lanesOf tx).flatMap fun l => (as.take 1).map fun x => (l, x.2),
     if k.act &&& ~~~tx = 0 then [] else as)
  else (as.filter fun x => laneIn tx x.1, as.filter fun x => !laneIn tx x.1)

/-- The hint of an access with a literal offset (R177); 0 without one. -/
def hintOf : MOff → Nat
  | .lit _ m => bits m.toNat 1 0
  | .reg _ => 0

/-- The device line that a lane's address leads to now, if it is translated to one. -/
def State.lineOf (s : State) (b t : Nat) (x : LaneAddr) : Option Nat :=
  match (s.translateLane b t x.1 x.2 .load).1 with
  | .ok pg => match pg.place x.2 with
    | .dev pa => some (pa / 128)
    | _ => none
  | _ => none

/-- A request that would open an entry of a full collector stalls its instruction at issue (R188). -/
def collectorRoom (k : Issue) (as : List LaneAddr) : M Unit := do
  let s ← get
  let es := (s.core k.blk.core).collector
  if decide (es.length ≥ Config.collectorEntries) && as.any (fun x => match s.lineOf k.b k.t x with
      | some l => es.all (·.line != l)
      | none => false) then stallM else pure ()

/-- A global load. -/
def startLoad (k : Issue) (d : Opnd) (n : Nat) (sgn const uni : Bool) (as : List LaneAddr)
    (zero : List (Nat × Word)) (hint : Nat := 0) (gather : Bool := false) : M Unit := do
  watchCheck k true false n as
  collectorRoom k as
  let dests := groupBytes d (ceilDiv n 4)
  let (tx, plain) := k.split uni as
  let got ← tx.mapM fun x => do
    let r ← txLoad k x.1 x.2 n
    pure (match r with | some v => laneWrites dests x.1 (wordsOf n sgn v) | none => [])
  k.start { kind := .load, dests := dests, uni := uni, sgn := sgn, const := const, hint := hint, gather := gather,
            writes := zero ++ got.flatten,
            els := plain.map fun x => { lane := x.1, va := x.2, n := n } }

/-- A global store; its data is read at issue. -/
def startStore (k : Issue) (d : Opnd) (n : Nat) (uni : Bool) (as : List LaneAddr) : M Unit := do
  watchCheck k false true n as
  let (tx, plain) := k.split uni as
  let _ ← tx.mapM fun x => txStore k x.1 x.2 n (k.dataOf d n x.1)
  k.start { kind := .store, uni := uni,
            els := plain.map fun x => { lane := x.1, va := x.2, n := n, data := k.dataOf d n x.1 } }

/-- Addresses of an access by base and offset. -/
def Issue.addrs (k : Issue) (a : Opnd) (b : MOff) : List LaneAddr :=
  (k.accLanes (uniOff a b)).map fun l => (l, k.addr a b l)

/-- Stash and lane-private offsets: the low word of the address (R176). -/
def Issue.offs (k : Issue) (a : Opnd) (b : MOff) : List LaneAddr := (k.addrs a b).map fun x => (x.1, x.2 % 2 ^ 32)

/-- `LDG`, `LDGC`. -/
def loadGlobal (k : Issue) (n : Nat) (sgn const : Bool) (d a : Opnd) (b : MOff) : M Unit := do
  let as := k.addrs a b
  checkEach as (globalCheck n n)
  startLoad k d n sgn const (uniOff a b) as [] (hintOf b)

/-- `STG`. -/
def storeGlobal (k : Issue) (n : Nat) (d a : Opnd) (b : MOff) : M Unit := do
  let as := k.addrs a b
  checkEach as (globalCheck n n)
  startStore k d n (uniOff a b) as

/-- The null index (R182). -/
def nullIndex : Word := 0x80000000

/-- The addresses of `GATHER` and `SCATTER`, null lanes left out. -/
def Issue.indexed (k : Issue) (n : Nat) (a b : Opnd) : List LaneAddr :=
  ((k.accLanes (isS a && isS b)).filter fun l => k.tm.rd b l != nullIndex).map fun l =>
    (l, wrapN ((k.tm.rdPair a l).toNat + sext (k.tm.rd b l).toNat 32 * n) 64)

def gather (k : Issue) (n : Nat) (d a b : Opnd) : M Unit := do
  let as := k.indexed n a b
  checkEach as (globalCheck n n)
  let uni := isS a && isS b
  let dests := groupBytes d (n / 4)
  let nulls := if uni then (if as.isEmpty then k.lanes else []) else k.lanes.filter fun l => k.tm.rd b l == nullIndex
  startLoad k d n false false uni as (nulls.flatMap fun l => laneWrites dests l (fill (n / 4) 0)) 0 true

def scatter (k : Issue) (n : Nat) (d a b : Opnd) : M Unit := do
  let as := k.indexed n a b
  checkEach as (globalCheck n n)
  startStore k d n (isS a && isS b) as

/-- The stash pieces of an instruction that the watchpoints see: those of mapped lines. -/
def watchStash (k : Issue) (ld st : Bool) (n : Nat) (els : List Elem) : M Unit :=
  watchCheck k ld st n ((els.filter (·.place.isNone)).map fun e => (e.lane, e.va))

/-- `LDS`. -/
def loadStash (k : Issue) (n : Nat) (sgn : Bool) (d a : Opnd) (b : MOff) : M Unit := do
  let s ← get
  let as := k.offs a b
  checkEach as (stashCheck s k.b n n)
  let els := as.map fun x => s.stashElem k.b x.1 x.2 n 0
  watchStash k true false n els
  collectorRoom k ((els.filter fun e => match e.via with | some (h, _) => h == k.b | none => false).map fun e => (e.lane, e.va))
  countBanks k n (as.map Prod.snd)
  k.start { kind := .load, dests := groupBytes d (ceilDiv n 4), uni := uniOff a b, sgn := sgn, els := els }

/-- `STS`. -/
def storeStash (k : Issue) (n : Nat) (d a : Opnd) (b : MOff) : M Unit := do
  let s ← get
  let as := k.offs a b
  checkEach as (stashCheck s k.b n n)
  let els := as.map fun x => s.stashElem k.b x.1 x.2 n (k.dataOf d n x.1)
  watchStash k false true n els
  countBanks k n (as.map Prod.snd)
  k.start { kind := .store, uni := uniOff a b, els := els }

/-- The words of a lane-private access, each a piece of its own (R173). -/
def laneElems (k : Issue) (x : LaneAddr) (n data : Nat) : List Elem :=
  (List.range (n / 4)).map fun i =>
    { lane := x.1, va := k.blk.lpAddr k.t (x.2 + 4 * i) x.1, n := 4, data := data / 2 ^ (32 * i) % 2 ^ 32, reg := i,
      data2 := x.2 + 4 * i }

/-- `LDL`. -/
def loadLane (k : Issue) (n : Nat) (d a : Opnd) (b : MOff) : M Unit := do
  let as := k.offs a b
  checkEach as (laneCheck k.blk.lpsize n)
  k.start { kind := .laneLoad, dests := groupBytes d (n / 4), uni := uniOff a b, els := as.flatMap fun x => laneElems k x n 0 }

/-- `STL`. -/
def storeLane (k : Issue) (n : Nat) (d a : Opnd) (b : MOff) : M Unit := do
  let as := k.offs a b
  checkEach as (laneCheck k.blk.lpsize n)
  k.start { kind := .laneStore, uni := uniOff a b, els := as.flatMap fun x => laneElems k x n (k.dataOf d n x.1) }

/-- `PREF` (R187): its lines come through the collector, as its hint says. -/
def prefetch (k : Issue) (a : Opnd) (b : MOff) : M Unit := do
  let as := k.addrs a b
  checkEach as fun x => if x.2 + 4 > 2 ^ 56 then some (.prot, x.2) else none
  k.start { kind := .prefetch, uni := uniOff a b, hint := hintOf b, els := as.map fun x => { lane := x.1, va := x.2, n := 4 } }

/-! ## Map instructions (R184-R186) -/

/-- Some team has an access to lines `lo` to `hi` − 1 of block `b`'s stash that has not performed. -/
def State.stashPending (s : State) (b lo hi : Nat) : Bool :=
  s.blocks.any fun (_, x) => x.teams.any fun m => m.ops.any fun o => o.els.any fun e =>
    !e.done && (match e.place, e.via with
      | some (.stash h o), _ => h == b && decide (lo * 128 ≤ o) && decide (o < hi * 128)
      | _, some (h, l) => h == b && decide (lo ≤ l) && decide (l < hi)
      | _, none => false)

/-- `SMAP` (R185): the status and, when the range is mapped, the slot's binding. -/
def smap (k : Issue) (d a : Opnd) (b : Src) : M Unit := do
  let s ← get
  let va := (k.tm.rdPair a 0).toNat
  let desc := (k.uni b).toNat
  let line := bits desc 10 0
  let n := bits desc 22 11
  let status (w : Word) : M Unit := k.write d fun _ => w
  if bits desc 31 23 != 0 || n == 0 || va % 128 != 0 then status 0xFFFFFFFC
  else do
    trapIf (decide (va + n * 128 > 2 ^ 56)) .prot va
    if (line + n) * 128 > k.blk.stashSize then status 0xFFFFFFFD
    else if k.blk.maps.any (fun (_, m) =>
        (decide (m.line < line + n) && decide (line < m.line + m.count)) ||
        (decide (m.va < va + n * 128) && decide (va < m.va + m.count * 128))) then status 0xFFFFFFFE
    else match (List.range 16).find? fun i => (Tab.find k.blk.maps i).isNone with
      | none => status 0xFFFFFFFF
      | some i =>
        if s.stashPending k.b line (line + n) then stallM else do
          k.modB fun x => { x with
            maps := Tab.put x.maps i { va := va, line := line, count := n }
            stash := writeBytes x.stash (line * 128) (fill (n * 128) 0) }
          status (BitVec.ofNat 32 i)

/-- The dirty lines of a slot go back to memory. -/
def State.flushSlot (s : State) (b i : Nat) : State :=
  match Tab.find (s.block b).maps i with
  | none => s
  | some m => m.dirty.foldl (fun s l => s.writeBack b i l) s

/-- `SUNMAP` (R186): it waits for the block's accesses to the slot's lines, writes back, frees the slot. -/
def sunmap (k : Issue) (a : Src) : M Unit := do
  let s ← get
  let i := (k.uni a).toNat
  match Tab.find k.blk.maps i with
  | some m => if s.stashPending k.b m.line (m.line + m.count) then stallM else do
      set (s.flushSlot k.b i)
      k.modB fun x => { x with maps := Tab.erase x.maps i }
  | none => pure ()
  k.start { kind := .value }

/-- `SFLUSH` (R186). -/
def sflush (k : Issue) (a : Src) : M Unit := do
  let i := (k.uni a).toNat
  if i = 2 ^ 32 - 1 then update fun s => (List.range 16).foldl (fun s i => s.flushSlot k.b i) s
  else update fun s => s.flushSlot k.b i
  k.start { kind := .value }

end Sys2Proof.Machine
end

