-- ==== Sys2Proof/Machine/MemSteps.lean ====
section
/-! DEFINITION. How an issued memory access goes on (07 R188, R193-R196; 08 R203-R207, R218; 09 R220-R228): its
translation, its places in the memory order, the request collector, the atomic unit of a home, completion. -/
namespace Sys2Proof.Machine
open Sys2Proof

/-! ## Operations of a team -/

def Team.op (m : Team) (id : Nat) : Option Op := m.ops.find? (·.id == id)
def Team.before (m : Team) (id : Nat) : List Op := m.ops.takeWhile (·.id != id)
def Team.from (m : Team) (id : Nat) : List Op := m.ops.dropWhile (·.id != id)
def Team.modOp (m : Team) (id : Nat) (f : Op → Op) : Team :=
  { m with ops := m.ops.map fun o => if o.id = id then f o else o }
def State.modOp (s : State) (b t id : Nat) (f : Op → Op) : State := s.modTeam b t (·.modOp id f)
def Op.setEl (o : Op) (i : Nat) (e : Elem) : Op := { o with els := setAt o.els i e }

def Op.isLaneAccess (o : Op) : Bool := o.kind == .laneLoad || o.kind == .laneStore
/-- A walk of the traversal unit: its records are lane-private accesses (15 R399). -/
def Op.isWalk (o : Op) : Bool := match o.kind with | .walk _ => true | _ => false
/-- An instruction of the graphics class that reads or writes memory as one. -/
def Op.isUnit (o : Op) : Bool :=
  match o.kind with
  | .unit _ => true
  | .binPush .. => true
  | .walk _ => true
  | _ => false
/-- A store for R205: reductions and atomics are never provisional (09 R226). -/
def Op.isStore (o : Op) : Bool := o.kind == .store

def Elem.isStash (e : Elem) : Bool := match e.place with | some (.stash ..) => true | _ => false
/-- Every piece has its translation. -/
def Op.translated (o : Op) : Bool := o.els.all (·.place.isSome)
def Op.performed (o : Op) : Bool := o.els.all (·.done)

/-- The pieces of an operation in order, with their indices. -/
def Op.indexed (o : Op) : List (Nat × Elem) := o.els.zipIdx.map fun (e, i) => (i, e)
/-- The first piece that has not performed, of those `p` names. -/
def Op.first (o : Op) (p : Elem → Bool) : Option (Nat × Elem) := o.indexed.find? fun x => !x.2.done && p x.2

/-- Every earlier access of the team has been translated (R195, 09 R226). -/
def Team.earlierTranslated (m : Team) (id : Nat) : Bool :=
  (m.before id).all fun o => !(o.isAccess || o.isLaneAccess) || o.translated
/-- Every earlier element of the team has performed; an access to a host page is none (R211). -/
def Team.earlierDone (m : Team) (id : Nat) : Bool :=
  (m.before id).all fun o => !o.isAccess || o.els.all fun e => e.done || e.isHost
/-- The lanes in whose program order a piece stands (R200): its own; every active one where it serves more than one, as a uniform access
(20 R462), a histogram's element (log 120) and a graphics instruction's do. -/
def Op.lanes (o : Op) (e : Elem) : Half :=
  if o.uni || o.isUnit || (match o.kind with | .atomic .. => o.dests.isEmpty && (e.isStash || e.via.isSome) | _ => false) then o.act
  else laneMask e.lane
/-- Every element that comes earlier in the program order of one of the lanes has performed (R200); one of a host page is none
(R211). -/
def Team.earlierFor (m : Team) (id : Nat) (ls : Half) : Bool :=
  (m.before id).all fun o => !o.isAccess || o.els.all fun e => e.done || e.isHost || o.lanes e &&& ls == 0
/-- Earlier host writes of the team, all or those to one 128-byte line, have performed (R211). -/
def Team.hostClear (m : Team) (id : Nat) (line : Option Nat) : Bool :=
  (m.before id).all fun o => o.kind == .load || o.els.all fun e => e.done || (match e.place with
    | some (.host ba) => (match line with | some l => ba / 128 != l | none => false)
    | _ => true)

/-! ## Translation (R193, R195, R196) -/

def Op.access (o : Op) : Access :=
  match o.kind with
  | .store => .store
  | .atomic .. => .store
  | .laneLoad => .laneLoad
  | .laneStore => .laneStore
  | _ => .load

/-- The ASID an access is made in: the block's, or that of the block whose mapping it reached (R183). -/
def State.accessAsid (s : State) (b : Nat) (e : Elem) : Nat :=
  match e.via with
  | some (h, _) => (s.block h).asid
  | none => (s.block b).asid

/-- An atomic on a host page is `PROT` but for the `.sys` forms PCI Express has, all of which return a value (09 R221, R241), where
the root port routes them (17 R434). -/
def Op.hostOk (o : Op) (routed : Bool) : Bool :=
  match o.kind with
  | .atomic a sys => routed && sys && !o.dests.isEmpty && (match a with
      | .add => true | .addW => true | .xchg => true | .cas => true | .casW => true | _ => false)
  | _ => true

/-- Where a translated piece lands. -/
def Op.placeOf (o : Op) (pg : Page) (e : Elem) : Place :=
  if o.isLaneAccess then .lane (lpKey e.data2 e.lane) (match pg.place e.va with | .dev pa => pa | .host ba => ba | _ => 0)
  else pg.place e.va

/-- Translation of one piece. -/
def State.translateElem (s : State) (b t : Nat) (o : Op) (e : Elem) : Trans × State :=
  let r := match e.via with
    | some (h, _) => s.translate (s.block b).core (s.block h).asid e.va o.access
    | none => s.translateLane b t e.lane e.va o.access
  match r with
  | (.ok pg, s) => if pg.h && (!o.hostOk s.atomicRouting || e.via.isSome) then (.prot, s) else (.ok pg, s)
  | r => r

/-- The lane's last-page register holds the page of an address (07 R192). -/
def State.lastPageHit (s : State) (b t : Nat) (e : Elem) : Bool :=
  match Tab.get none (s.team b t).lanePages e.lane with
  | some pg => e.via.isNone && pg.covers (s.block b).asid e.va
  | none => false

/-- The next piece of operation `o` may be translated: the team's earlier accesses have been, but for stores that a store whose
lane hits its last-page register need not wait for (R195; 08 R205). -/
def State.mayTranslate (s : State) (b t : Nat) (o : Op) (e : Elem) : Bool :=
  ((s.team b t).before o.id).all fun p => !(p.isAccess || p.isLaneAccess || p.kind == .prefetch) || p.translated ||
    (o.isStore && p.isStore && s.lastPageHit b t e)

/-- The accesses of a team from `id` on that have not performed are discarded: their flags and tags clear (R196). -/
def Team.discardFrom (m : Team) (id : Nat) : Team :=
  let gone (o : Op) : Bool := decide (id ≤ o.id) && (o.isAccess || o.isLaneAccess) && !o.performed
  let bytes := (m.ops.filter gone).flatMap (·.dests)
  { m with ops := m.ops.filter (fun o => !gone o), tags := m.tags.filter (fun e => !bytes.contains e.1) }.freed

/-- They are cancelled, to be issued again at restore: their translations and provisional stores are undone (R206). -/
def Team.cancelFrom (m : Team) (id : Nat) : Team :=
  { m with ops := m.ops.map fun o =>
      if decide (id ≤ o.id) && (o.isAccess || o.isLaneAccess) && !o.performed then
        { o with prov := false, faulted := true
                 els := o.els.map fun e => if e.done || e.isStash then e else { e with place := none } }
      else o }

/-- A trap for the team before its next instruction (R196). -/
def Team.delay (m : Team) (c : TrapCode) (pc va : Nat) : Team :=
  { m with delayed := m.delayed ++ [{ code := c, pc := pc, addr := va }] }

/-- `PROT` at translation: precise when the team has issued nothing since, else delayed (R193). -/
def State.protAt (s : State) (b t : Nat) (o : Op) (va : Nat) : State :=
  let m := s.team b t
  match m.prev with
  | some p =>
    if m.count = o.seq then
      (s.modTeam b t fun m =>
        { m.discardFrom o.id with frontier := p.frontier, joins := p.joins, rejoinlost := p.rejoinlost, stall := none,
                                  done := false }).takeTrap b t p.clause
        { code := .prot, pc := o.pc, addr := va, resume := o.pc }
    else s.modTeam b t fun m => (m.discardFrom o.id).delay .prot o.pc va
  | none => s.modTeam b t fun m => (m.discardFrom o.id).delay .prot o.pc va

/-- A translated prefetch of a device line is on its way; one to host memory brings nothing (07 R187). -/
def Op.arrived (o : Op) (pg : Page) : Bool := o.kind == .prefetch && pg.h

/-- `TRANSLATION_COMPLETE`: the first piece of an operation that waits for its translation gets it. -/
def translateOp (b t id : Nat) : M Unit := do
  let s ← get
  let m := s.team b t
  match m.op id with
  | none => stop (.fault .notEnabled)
  | some o =>
    need ((o.isAccess || o.isLaneAccess || o.kind == .prefetch) && !o.faulted && !o.isUnit && (s.block b).saved.isNone) .notEnabled
    match o.indexed.find? fun x => x.2.place.isNone with
    | none => stop (.fault .notEnabled)
    | some (i, e) => do
      need (s.mayTranslate b t o e) .notEnabled
      let setEl (s : State) (e : Elem) : State := s.modOp b t id (·.setEl i e)
      match s.translateElem b t o e with
      | (.ok pg, s) => set (setEl s { e with place := some (o.placeOf pg e), done := o.arrived pg })
      | (r, s) =>
        if o.kind == .prefetch then set (setEl s { e with place := some (.dev 0), done := true })
        else match r with
        | .fault ro =>
          set ((s.modTeam b t (·.cancelFrom id)).pageFault b
            { asid := s.accessAsid b e, va := e.va / 4096 * 4096, kind := b2n o.access.writes, readOnly := ro, who := .block b,
              t := t, pc := o.pc, addr := e.va, op := some id })
        | .fatal => set (s.modTeam b t fun m => (m.discardFrom id).delay .pagefatal o.pc e.va)
        | _ => set (s.protAt b t o e.va)

/-! ## Performing (08 R203) -/

/-- Poison met by a piece: its destination is not written, and `ECC` is delivered (08 R218). -/
def State.eccAt (s : State) (b t : Nat) (o : Op) (e : Elem) : State :=
  s.modTeam b t fun m => (m.modOp o.id fun o => { o with ecc := true }).delay .ecc o.pc e.va

/-- The piece has performed, with what it read. -/
def State.doneEl (s : State) (b t id i got : Nat) : State :=
  s.modOp b t id fun o => match o.els[i]? with
    | some e => o.setEl i { e with done := true, got := got }
    | none => o

/-- The stash of block `h` can be reached: a saved owner holds the access until it is restored (09 R220). -/
def State.stashUp (s : State) (h : Nat) : Bool := (s.block h).saved.isNone
/-- So it does one that reaches a mapped line through the owner's window (09 R220). -/
def State.viaUp (s : State) (e : Elem) : Bool := match e.via with | some (h, _) => s.stashUp h | none => true

/-- The stash of block `h` serves the core of block `b`: both cores stand at one time (08 R207). -/
def State.meetAt (s : State) (b h : Nat) : State :=
  if (s.block b).core = (s.block h).core then s else s.meetClocks (s.block b).core (s.block h).core

/-- The home takes a store of a team's piece: in memory, or in the stash that holds the line for the mapping it was
reached through (R183). -/
def State.storePiece (s : State) (b : Nat) (e : Elem) : State :=
  let c := (s.block b).core
  let bytes := leBytes e.n e.data
  match e.place, e.via with
  | some (.host ba), _ => { s with hostMem := writeBytes s.hostMem ba bytes }
  | some (.stash h o), _ => (s.meetAt b h).modBlock h fun x => { x with stash := writeBytes x.stash o bytes }
  | some (.dev pa), some (h, k) =>
    let s := s.stampWrite c (pa / 128)
    let s := s.setHomeLine (pa / 128) { s.homeLine (pa / 128) with writer := (s.block h).asid }
    s.modBlock h fun x => { x with
      stash := writeBytes x.stash (k * 128 + pa % 128) bytes
      maps := x.maps.map fun (i, m) =>
        if decide (m.line ≤ k) && decide (k < m.line + m.count) then (i, { m with dirty := addNew k m.dirty }) else (i, m) }
  | some (.dev pa), none => (s.stampWrite c (pa / 128)).devWrite pa bytes (s.block b).asid
  | _, _ => s

/-- The pieces of a store that have performed write every byte of a sector. -/
def Op.covers (o : Op) (k : Nat) : Bool := (List.range 32).all fun j => o.els.any fun e => e.done && (match e.place with
  | some (.dev pa) => decide (pa ≤ k * 32 + j) && decide (k * 32 + j < pa + e.n)
  | _ => false)

/-- A store that has written all of a sector clears its poison (08 R218). -/
def State.clearStored (s : State) (b t id : Nat) : State :=
  if s.poison.isEmpty then s
  else match (s.team b t).op id with
    | some o => { s with poison := s.poison.filter fun k => !o.covers k }
    | none => s

/-- One piece of a store performs. -/
def State.storeEl (s : State) (b t id i : Nat) (e : Elem) : State :=
  ((s.storePiece b e).doneEl b t id i 0).clearStored b t id

/-- The home of a piece's line may serve the core now (08 R202). -/
def State.elServed (s : State) (c : Nat) (e : Elem) : Bool :=
  match e.place with
  | some (.dev pa) => s.mayServe (pa / 128) c
  | _ => true

/-- A mapped piece's line is held in its stash. -/
def State.lineHeld (s : State) (e : Elem) : Bool :=
  match e.place, e.via with
  | some (.dev pa), some (h, k) => (match s.holder (pa / 128) with
      | some (h', _, k') => h' == h && k' == k
      | none => false)
  | _, _ => true

/-- The first piece of a store that may perform now: an element of the memory order, or a host write. -/
def Team.nextStore (m : Team) (o : Op) : Option (Nat × Elem) :=
  if !(o.translated && m.earlierTranslated o.id) then none
  else match o.first (fun e => !e.isHost) with
    | some (i, e) => if e.place.isSome && !e.isStash && m.earlierFor o.id (o.lanes e) then some (i, e) else none
    | none => match o.first Elem.isHost with
      | some (i, e) => if m.hostClear o.id none then some (i, e) else none
      | none => none

/-- Provisional stores a core holds (R205). -/
def State.provisional (s : State) (c : Nat) : Nat :=
  s.blocks.foldl (fun a e => if e.2.core = c then
    e.2.teams.foldl (fun a m => a + (m.ops.filter (·.prov)).length) a else a) 0

/-- `HOME_STORE`: one piece of a store performs at its home; or the store leaves its core as a provisional one,
because an earlier store of its team is not yet translated. -/
def homeStore (b t id : Nat) : M Unit := do
  let s ← get
  let m := s.team b t
  match m.op id with
  | none => stop (.fault .notEnabled)
  | some o =>
    need (o.isStore && !o.prov && !o.faulted && (s.block b).saved.isNone) .notEnabled
    match m.nextStore o with
    | some (i, e) => do
      need (s.lineHeld e && s.viaUp e && s.elServed (s.block b).core e) .notEnabled
      set (s.storeEl b t id i e)
    | none => do
      need (o.translated && !o.els.isEmpty && o.els.all (fun e => !e.isHost && !e.isStash && e.via.isNone) &&
        (m.before id).any (fun x => x.isStore && !x.translated) &&
        decide (s.provisional (s.block b).core < Config.provisionalMax)) .notEnabled
      set (s.modOp b t id fun o => { o with prov := true })

/-- `PROVISIONAL_COMMIT`: every earlier store is committed; the store takes its logical time and becomes visible. -/
def commitStore (b t id : Nat) : M Unit := do
  let s ← get
  let m := s.team b t
  match m.op id with
  | none => stop (.fault .notEnabled)
  | some o => match o.prov, m.nextStore o with
    | true, some (i, e) => do
      need (s.elServed (s.block b).core e) .notEnabled
      set ((s.storeEl b t id i e).modOp b t id fun o => { o with prov := !o.performed })
    | _, _ => stop (.fault .notEnabled)

/-! ## The request collector (07 R188) -/

/-- The piece lies in a device line. -/
def Elem.onLine (e : Elem) (l : Nat) : Bool := match e.place with | some (.dev pa) => pa / 128 == l | _ => false

/-- The next elements of a team on a line: of each access those that need the line, in lane order up to the first that does not or
that must come after an earlier element; and what its prefetches bring. -/
def State.teamReqs (s : State) (b t l : Nat) : List LoadReq :=
  let m := s.team b t
  let mine (o : Op) (xs : List (Nat × Elem)) : List LoadReq := xs.map fun x => ⟨b, t, o.id, x.1⟩
  let next := m.ops.flatMap fun o =>
    if !(o.isAccess && o.translated && m.earlierTranslated o.id) then []
    else
      let rest := (o.indexed.filter fun x => !x.2.done && !x.2.isHost).takeWhile fun x =>
        x.2.onLine l && s.viaUp x.2 && m.earlierFor o.id (o.lanes x.2)
      match o.kind with
      | .load => mine o rest
      | .store => mine o (rest.filter fun x => !s.lineHeld x.2)
      | _ => []
  next ++ (m.ops.filter (·.kind == .prefetch)).flatMap fun o => mine o (o.indexed.filter fun x => !x.2.done && x.2.onLine l)

/-- The requests of a core for a line. -/
def State.coreReqs (s : State) (c l : Nat) : List LoadReq :=
  s.blocks.flatMap fun (b, x) =>
    if x.core = c ∧ x.saved.isNone then (List.range x.teams.length).flatMap fun t => s.teamReqs b t l else []

/-- The piece a request is for. -/
def State.reqEl (s : State) (q : LoadReq) : Option (Op × Elem) :=
  match (s.team q.b q.t).op q.op with
  | none => none
  | some o => (o.els[q.i]?).map fun e => (o, e)

/-- A request fills a mapped stash line (R183). -/
def State.isFill (s : State) (q : LoadReq) : Bool := (s.reqEl q).any fun x => x.2.via.isSome
/-- A request's instruction has a property. -/
def State.reqIs (s : State) (p : Op → Bool) (q : LoadReq) : Bool := (s.reqEl q).any fun x => p x.1

/-- The line of an entry is live in L1 and serves its requests there (08 R203): a mapped line fills through its home. -/
def State.liveLine (s : State) (c l : Nat) (reqs : List LoadReq) : Option L1Line :=
  match Tab.find (s.core c).l1 l with
  | some x => if decide (s.pts c ≤ x.rts) && !(reqs.any s.isFill) then some x else none
  | none => none

/-- An entry goes to L1 with the requests that have joined it: a line that is live there serves them, else the request goes on to
the home. -/
def State.leave (s : State) (c : Nat) (e : CollEntry) : CollEntry :=
  let reqs := s.coreReqs c e.line
  { e with reqs := reqs, const := reqs.any (s.reqIs (·.const))
           state := match s.liveLine c e.line reqs with | some x => .homed x.data [] x.wts x.rts | none => .sent }

/-- An entry need not be held: its line is live in L1, or the device is in sector mode (R188, R197). -/
def State.atOnce (s : State) (c l : Nat) (reqs : List LoadReq) : Bool := s.sectorMode || (s.liveLine c l reqs).isSome

/-- `COLLECTOR_SEND`: requests for a line without an entry open one; an entry leaves 16 core clocks after it opened, 32 if a gather
opened it, or at once (R188). -/
def collectorSend (c l : Nat) : M Unit := do
  let s ← get
  let k := s.core c
  let reqs := s.coreReqs c l
  match k.collector.find? (·.line == l) with
  | none => do
    need (!reqs.isEmpty && decide (k.collector.length < Config.collectorEntries)) .notEnabled
    let e : CollEntry := { line := l, const := reqs.any (s.reqIs (·.const)), reqs := reqs, opened := s.tick
                           gather := (reqs.take 1).any (s.reqIs (·.gather)) }
    set (s.modCore c fun k => { k with collector := k.collector ++ [if s.atOnce c l reqs then s.leave c e else e] })
  | some e => do
    need (e.state == .held &&
      (s.atOnce c l reqs || decide (e.opened + (if e.gather then Config.gatherTicks else Config.holdTicks) ≤ s.tick))) .notEnabled
    set (s.modCore c fun k => { k with collector := k.collector.map fun x => if x.line = l then s.leave c x else x })

/-- `HOME_LOAD`: the home extends its lease and answers every request that has joined the entry with the line (R203); a fill makes
the core its holder. The core's lease of the line ends with the ticks of R204 (log 108). -/
def homeLoad (c l : Nat) : M Unit := do
  let s ← get
  match (s.core c).collector.find? fun e => e.line == l && e.state == .sent with
  | none => stop (.fault .notEnabled)
  | some _ =>
    need (!s.provisionalOn c l && s.mayServe l c) .notEnabled
    let reqs := s.coreReqs c l
    let const := reqs.any (s.reqIs (·.const))
    let len := if const then Config.constLease else Config.lease
    let s := s.leaseRead c l len
    let s := match reqs with | q :: _ => s.readBy (s.block q.b).asid l | [] => s
    let fills := (reqs.filterMap fun q => (s.reqEl q).bind fun x => x.2.via).eraseDups
    let bad := (List.range 4).filter fun i => s.poison.contains (l * 4 + i)
    let s := if bad.isEmpty then fills.foldl (fun s (h, k) => s.fillLine h k l) s else s
    let home := s.homeLine l
    let st := CollState.homed (s.lineBytes l) bad home.wts (min home.rts (s.pts c + len - 1))
    set (s.modCore c fun k => { k with collector := k.collector.map fun x =>
      if x.line = l then { x with state := st, reqs := reqs, const := const } else x })

/-- One request is served from the line: poison in what it reads, or anywhere in a line that fills a mapping, is consumed (08
R218). -/
def State.serve (s : State) (l : Nat) (data : List Byte) (bad : List Nat) (q : LoadReq) : State :=
  match s.reqEl q with
  | none => s
  | some (o, e) =>
    if e.done || !e.onLine l then s
    else match e.place with
    | some (.dev pa) =>
      let off := pa % 128
      let hurt := bad.any fun i => e.via.isSome || (decide (i * 32 < off + e.n) && decide (off < i * 32 + 32))
      if o.kind == .prefetch then s.doneEl q.b q.t q.op q.i 0
      else if o.isStore then (if hurt then (s.doneEl q.b q.t q.op q.i 0).eccAt q.b q.t o e else s)
      else
        let s := s.doneEl q.b q.t q.op q.i (field data off e.n)
        if hurt then s.eccAt q.b q.t o e else s
    | _ => s

/-! ## L1 (01 R14; 07 R177, R181) -/

/-- The rank in which a request wants its line kept; `none` where it is not to enter L1. -/
def Op.l1Rank (o : Op) : Option Nat :=
  if o.hint = 3 then none else if o.const || o.hint = 2 then some 2 else if o.hint = 1 then some 0 else some 1

/-- The highest rank that one of an entry's requests wants. -/
def State.entryRank (s : State) (reqs : List LoadReq) : Option Nat :=
  reqs.foldl (fun a q => match (s.reqEl q).bind fun x => x.1.l1Rank with
    | some r => some (max r (a.getD 0))
    | none => a) none

/-- Lines that the L1 of a core holds: what the stash of its blocks leaves. -/
def State.l1Lines (s : State) (c : Nat) : Nat :=
  (Config.l1Bytes - s.blocks.foldl (fun a e => if e.2.core = c ∧ e.2.saved.isNone then a + e.2.stashSize else a) 0) / 128

/-- `x` is evicted before `y`: the lower rank, then the older. -/
def L1Line.goesBefore (x y : L1Line) : Bool := decide (x.rank < y.rank) || (x.rank == y.rank && decide (x.since < y.since))

/-- The line that is evicted next. -/
def l1Victim : Tab L1Line → Option (Nat × L1Line)
  | [] => none
  | e :: r => match l1Victim r with
    | none => some e
    | some f => if f.2.goesBefore e.2 then some f else some e

/-- Lines leave until at most `n` are left. -/
def l1Trim : Nat → Nat → Tab L1Line → Tab L1Line
  | 0, _, t => t
  | f + 1, n, t => if t.length ≤ n then t else match l1Victim t with
    | some e => l1Trim f n (Tab.erase t e.1)
    | none => t

/-- L1 holds no more lines than its room (which of equal rank goes: log 7). -/
def State.trimL1 (s : State) (c : Nat) : State :=
  s.modCore c fun k => { k with l1 := l1Trim k.l1.length (s.l1Lines c) k.l1 }

/-- A line enters L1 in a rank. -/
def State.fillL1 (s : State) (c l : Nat) (data : List Byte) (wts rts rank : Nat) : State :=
  (s.modCore c fun k => { k with l1 := Tab.put k.l1 l ⟨data, wts, rts, rank, s.tick⟩ }).trimL1 c

/-- `COLLECTOR_LINE_RETURN`: the line enters L1, as its requests' hints say, and every request of the entry is served. -/
def collectorReturn (c l : Nat) : M Unit := do
  let s ← get
  match (s.core c).collector.find? fun e => e.line == l with
  | some { state := .homed data bad wts rts, reqs := reqs, .. } =>
    let s := s.modCore c fun k => { k with
      collector := k.collector.filter (·.line != l)
      l1 := if bad.isEmpty then k.l1 else Tab.erase k.l1 l }
    let s := match s.entryRank reqs with
      | some r => if bad.isEmpty then s.fillL1 c l data wts rts r else s
      | none => s
    set (reqs.foldl (fun s q => s.serve l data bad q) s)
  | _ => stop (.fault .notEnabled)

/-! ## Atomics at the home (09 R220-R231) -/

def s32 (x : Nat) : Int := sext x 32

/-- What an atomic leaves at its address (R223). -/
def AtomOp.new (a : AtomOp) (o x y : Nat) : Nat :=
  match a with
  | .add => (o + x) % 2 ^ 32
  | .addF => (fmtF32.rnd (sumVals 0 [fmtF32.val o, fmtF32.val x]) 0 false 0).bits
  | .minI => if s32 x < s32 o then x else o
  | .maxI => if s32 x > s32 o then x else o
  | .minN => min o x
  | .maxN => max o x
  | .and => o &&& x
  | .or => o ||| x
  | .xor => o ^^^ x
  | .xchg => x
  | .cas => if o = x then y else o
  | .inc => if o ≥ x then 0 else o + 1
  | .addW => (o + x) % 2 ^ 64
  | .minW => min o x
  | .casW => if o = x then y else o
  | .stage => o

/-- A draw from a stage counter (R231): the index drawn from, the count, what remains. -/
def stageDraw (rec : Nat) : Nat × Nat × Nat :=
  let next := bits rec 63 0
  let last := bits rec 127 64
  let div := max 1 (bits rec 223 192)
  let hi := max 1 (bits rec 191 160)
  let lo := min hi (max 1 (bits rec 159 128))
  let rem := if next < last then last - next else 0
  let c := if rem = 0 then 0 else min (clampN (ceilDiv rem div) lo hi) rem
  (next, c, min (rem - c) 0xFFFFFFFF)

/-- What one atomic element returns, and the bytes it writes: all of its width, or `next` alone for `STAGE` (R230). -/
def atomicStep (a : AtomOp) (n old x y : Nat) : Nat × List Byte :=
  match a with
  | .stage =>
    let (next, c, rem) := stageDraw old
    (next + c * 2 ^ 64 + rem * 2 ^ 96, leBytes 8 ((next + c) % 2 ^ 64))
  | a => (old, leBytes n (a.new old x y))

/-- One element of an atomic at its home: it reads and writes at one logical time (R220, R226); poison on its line stops it
(R227). -/
def State.atomicPiece (s : State) (b t : Nat) (o : Op) (a : AtomOp) (i : Nat) (e : Elem) : State × Nat :=
  match e.place with
  | some (.dev pa) =>
    if s.poisoned (pa / 128 * 128) 128 then ((s.doneEl b t o.id i 0).eccAt b t o e, 0)
    else
      let (got, out) := atomicStep a e.n (ofLe (s.devRead pa e.n)) e.data e.data2
      let s := (s.stampWrite (s.block b).core (pa / 128)).devWrite pa out (s.block b).asid
      (s.doneEl b t o.id i got, got)
  | some (.host ba) =>
    let (got, out) := atomicStep a e.n (ofLe (readBytes s.hostMem ba e.n)) e.data e.data2
    ({ s with hostMem := writeBytes s.hostMem ba out }.doneEl b t o.id i got, got)
  | some (.stash h off) =>
    let (got, out) := atomicStep a e.n (ofLe (readBytes (s.block h).stash off e.n)) e.data e.data2
    (((s.meetAt b h).modBlock h fun x => { x with stash := writeBytes x.stash off out }).doneEl b t o.id i got, got)
  | _ => (s, 0)

/-- The key of the pair of a home and a source core. -/
def pairKey (h c : Nat) : Nat := h * 512 + c

/-- A packet whose reply has come is acknowledged with the core's next packet (R228); no operation is left that would wait for
one. -/
def State.acked (s : State) (q : AtomPacket) : Bool := q.replied || ((s.team q.b q.t).op q.op).isNone

/-- The replies to the packets of an operation reach its core. -/
def State.replied (s : State) (b t op : Nat) : State :=
  s.modCore (s.block b).core fun k => { k with
    unacked := k.unacked.map fun (h, qs) => (h, qs.map fun q => if q.b = b ∧ q.t = t ∧ q.op = op then { q with replied := true } else q) }

/-- The core's acknowledgements reach the home, which frees their entries. -/
def State.release (s : State) (c h : Nat) : State :=
  let un := Tab.get [] (s.core c).unacked h
  let gone := (un.filter s.acked).map (·.seq)
  let s := s.modCore c fun k => { k with unacked := Tab.set [] k.unacked h (un.filter fun q => !gone.contains q.seq) }
  let kept := (Tab.get [] s.replies (pairKey h c)).filter fun r => !gone.contains r.seq
  { s with replies := Tab.set [] s.replies (pairKey h c) kept }

/-- The home performs a packet and keeps its reply (R228). -/
def State.packetDone (s : State) (c h b t op : Nat) (idx values : List Nat) : State :=
  let n := Tab.get 0 (s.core c).seqs h
  let s := s.modCore c fun k => { k with
    seqs := Tab.set 0 k.seqs h ((n + 1) % 1024)
    unacked := Tab.set [] k.unacked h (Tab.get [] k.unacked h ++ [⟨n, b, t, op, idx, false⟩]) }
  let kept := Tab.get [] s.replies (pairKey h c) ++ [⟨n, values⟩]
  { s with replies := Tab.set [] s.replies (pairKey h c) kept }

/-- How many of the first pieces perform together: those of the first piece's line make one packet, and so do those of every line
that has a piece among them (R225; 08 R200). -/
def atomGroup (lines : List Nat) : Nat → Nat → Nat
  | 0, n => n
  | f + 1, n =>
    let mine := lines.take n
    let n' := lines.zipIdx.foldl (fun a (l, i) => if mine.contains l then i + 1 else a) n
    if n' = n then n else atomGroup lines f n'

/-- `HOME_ATOMIC`: the packet of one line, its lanes ascending, at the atomic unit of the line's home (R225), with the packets whose
lanes stand between them (log 27); or the next host atomic (R221). -/
def homeAtomic (b t id : Nat) : M Unit := do
  let s ← get
  let m := s.team b t
  match m.op id with
  | none => stop (.fault .notEnabled)
  | some o => match o.kind with
    | .atomic a _ => do
      need (!o.faulted && o.translated && m.earlierTranslated id && (s.block b).saved.isNone) .notEnabled
      match o.first (fun e => !e.isHost) with
      | some (_, { place := some (.dev _), .. }) => do
        let c := (s.block b).core
        let rest := o.indexed.filterMap fun x => if x.2.done then none else match x.2.place with
          | some (.dev pa) => some (x.1, x.2, pa / 128)
          | _ => none
        let mine := rest.take (atomGroup (rest.map fun x => x.2.2) rest.length 1)
        let lines := (mine.map fun x => x.2.2).eraseDups
        need (lines.all (fun l => !s.provisionalOn c l && s.mayServe l c) &&
          mine.all fun x => s.viaUp x.2.1 && m.earlierFor id (o.lanes x.2.1)) .notEnabled
        let homes := lines.map fun l => homeOfPa (l * 128)
        let s := homes.foldl (fun s h => s.release c h) s
        need (homes.all fun h => decide ((Tab.get [] (s.core c).unacked h).length + (homes.filter (· == h)).length ≤ Config.unackedMax)) .notEnabled
        let s := lines.foldl (fun s l => s.readBy (s.block b).asid l) s
        let (s, vals) := mine.foldl (fun (s, vs) (i, e, l) =>
          let (s, v) := s.atomicPiece b t o a i e
          (s, vs ++ [(l, i, v)])) (s, [])
        set (lines.foldl (fun s l =>
          let vs := vals.filter fun v => v.1 == l
          s.packetDone c (homeOfPa (l * 128)) b t id (vs.map fun v => v.2.1) (vs.map fun v => v.2.2)) s)
      | some _ => stop (.fault .notEnabled)
      | none => match o.first Elem.isHost with
        | some (i, e) => do
          need (m.hostClear id none) .notEnabled
          set (s.atomicPiece b t o a i e).1
        | none => stop (.fault .notEnabled)
    | _ => stop (.fault .notEnabled)

/-- `ATOMIC_RESEND`: the oldest packet without a valid reply is sent again with its number; the home answers from its
cache and performs nothing (R228). -/
def atomicResend (c h : Nat) : M Unit := do
  let s ← get
  match (Tab.get [] (s.core c).unacked h).find? fun q => !s.acked q with
  | none => stop (.fault .notEnabled)
  | some q => match (Tab.get [] s.replies (pairKey h c)).find? (·.seq == q.seq) with
    | none => stop (.fault .notEnabled)
    | some r => set ((q.idx.zip r.values).foldl (fun s (i, v) => s.doneEl q.b q.t q.op i v) s)

/-! ## Completion (02 R40) -/

/-- The next piece of an access that performs at a stash or is a host read, if it may. -/
def State.nextLocal (s : State) (b t : Nat) (o : Op) : Option (Nat × Elem) :=
  let m := s.team b t
  if o.isLaneAccess then
    if o.translated && m.earlierTranslated o.id && (m.before o.id).all (fun x => !x.isWalk && (!x.isLaneAccess || x.performed)) then o.first (fun _ => true) else none
  else if !(o.isAccess && o.translated && m.earlierTranslated o.id) then none
  else
    let stash := match o.first (fun e => !e.isHost) with
      | some (i, e) => (match e.place with
        | some (.stash h _) => if s.stashUp h && m.earlierFor o.id (o.lanes e) then some (i, e) else none
        | _ => none)
      | none => none
    match stash with
    | some x => some x
    | none => if o.kind == .load then
        o.indexed.find? fun x => !x.2.done && (match x.2.place with
          | some (.host ba) => m.hostClear o.id (some (ba / 128))
          | _ => false)
      else none

/-- A local piece performs. -/
def State.performLocal (s : State) (b t : Nat) (o : Op) (i : Nat) (e : Elem) : State :=
  match o.kind, e.place with
  | .laneLoad, some (.lane ..) =>
    (s.modTeam b t (·.lpTouch e.data2 e.lane)).doneEl b t o.id i (ofLe ((s.team b t).lpRead e.data2 e.lane e.n))
  | .laneStore, some (.lane ..) => (s.modTeam b t (·.lpWrite e.data2 e.lane (leBytes e.n e.data))).doneEl b t o.id i 0
  | .load, some (.stash h off) => (s.meetAt b h).doneEl b t o.id i (ofLe (readBytes (s.block h).stash off e.n))
  | .load, some (.host ba) => s.doneEl b t o.id i (ofLe (readBytes s.hostMem ba e.n))
  | .store, _ => s.storeEl b t o.id i e
  | .atomic a _, _ => (s.atomicPiece b t o a i e).1
  | _, _ => s

/-- The register writes of an operation that has performed. -/
def Op.results (o : Op) : List (Nat × Word) :=
  if o.ecc then [] else
    o.writes ++ o.els.flatMap fun e =>
      let ws := wordsOf e.n o.sgn e.got
      let ds := o.dests.drop e.reg
      if o.uni then (lanesOf o.act).flatMap fun l => laneWrites ds l ws else laneWrites ds e.lane ws

/-- A tracked operation writes its results and is outstanding no longer: its flag can clear. -/
def Team.retireOp (m : Team) (o : Op) : Team :=
  let m := o.results.foldl (fun m w => m.writeKeyed w.1 w.2) m
  { m with ops := m.ops.filter (·.id != o.id) }.freed

/-- `LONG_LATENCY_COMPLETE` of a memory access or a value: its next local piece performs, and the operation completes when
all have. -/
def completeAccess (b t id : Nat) : M Unit := do
  let s ← get
  need (s.block b).saved.isNone .notEnabled
  match (s.team b t).op id with
  | none => stop (.fault .notEnabled)
  | some o => do
    need (!o.isUnit) .notEnabled
    let s' := match s.nextLocal b t o with
      | some (i, e) => s.performLocal b t o i e
      | none => s
    let s' := match o.kind with | .atomic .. => s'.replied b t id | _ => s'
    match (s'.team b t).op id with
    | none => stop (.fault .notEnabled)
    | some o' =>
      if o'.performed then set (s'.modTeam b t (·.retireOp o'))
      else if o' != o || s' != s then set s'
      else stop (.fault .notEnabled)

/-! ## Atomic instructions (R222, R229, R231) -/

/-- The data of an atomic: its operand, and the second one of a compare and swap. -/
def Issue.atomData (k : Issue) (a : AtomOp) (d : Opnd) (l : Nat) : Nat × Nat :=
  let w (i : Nat) : Nat := (k.tm.rd d l i).toNat
  match a with
  | .addW => (w 0 + w 1 * 2 ^ 32, 0)
  | .minW => (w 0 + w 1 * 2 ^ 32, 0)
  | .casW => (w 0 + w 1 * 2 ^ 32, w 2 + w 3 * 2 ^ 32)
  | .cas => (w 0, w 1)
  | .stage => (0, 0)
  | _ => (w 0, 0)

def AtomOp.width : AtomOp → Nat
  | .addW => 8 | .minW => 8 | .casW => 8 | .stage => 32 | _ => 4

/-- The lanes of an atomic: once per active lane for a v-register, once for an s-register. -/
def Issue.atomLanes (k : Issue) (d : Opnd) : List Nat := if isS d then k.lanes.take 1 else k.lanes

/-- The modifier names the system scope (R221). -/
def sysScope : MOff → Bool
  | .lit _ m => m.toNat == 20
  | .reg _ => false

/-- `ATOM`, `RED`, `STAGE`: `ret` registers receive what was read. -/
def atomGlobal (k : Issue) (op : AtomOp) (ret : Nat) (d a : Opnd) (b : MOff) : M Unit := do
  let as := (k.atomLanes d).map fun l => (l, k.addr a b l)
  checkEach as (globalCheck op.width op.width)
  watchCheck k (ret != 0 && op != .stage) true op.width as
  k.start { kind := .atomic op (sysScope b), dests := groupBytes d ret, uni := isS d
            els := as.map fun x =>
              let y := k.atomData op d x.1
              { lane := x.1, va := x.2, n := op.width, data := y.1, data2 := y.2 } }

/-- `SATOM`. -/
def atomStash (k : Issue) (op : AtomOp) (d a : Opnd) (b : MOff) : M Unit := do
  let s ← get
  let as := (k.atomLanes d).map fun l => (l, k.addr a b l % 2 ^ 32)
  checkEach as (stashCheck s k.b 4 4)
  let els := as.map fun x =>
    let y := k.atomData op d x.1
    { s.stashElem k.b x.1 x.2 4 y.1 with data2 := y.2 }
  watchStash k true true 4 els
  countBanks k 4 (as.map Prod.snd)
  k.start { kind := .atomic op false, dests := groupBytes d 1, uni := isS d, els := els }

/-- `RHIST` (R229): one element per distinct offset, at its lowest lane. -/
def rhist (k : Issue) (d a b : Opnd) : M Unit := do
  let s ← get
  let as := (k.lanes.filter fun l => k.tm.rd b l != nullIndex).map fun l =>
    (l, wrapN ((k.tm.rdPair a l).toNat + 4 * sext (k.tm.rd b l).toNat 32) 32)
  checkEach as (stashCheck s k.b 4 4)
  let offs := (as.map Prod.snd).eraseDups
  let els := offs.filterMap fun off => (as.find? fun x => x.2 == off).map fun x =>
    s.stashElem k.b x.1 off 4 (((as.filter fun y => y.2 == off).foldl (fun n y => n + (k.tm.rd d y.1).toNat) 0) % 2 ^ 32)
  watchStash k true true 4 els
  countBanks k 4 offs
  k.start { kind := .atomic .add false, els := els }

end Sys2Proof.Machine
end

