-- ==== Sys2Proof/Machine/Jobs.lean ====
section
/-! DEFINITION. Engine jobs (10 R243-R257, R266-R273; 08 R208, R209): their queue, footprints and edges, units,
tokens and completion; tensor layouts; stream tiles; tile stamps. -/
namespace Sys2Proof.Machine
open Sys2Proof

/-! ## Job tables -/

def State.job (s : State) (j : Nat) : Option Job := Tab.find s.jobs j
def State.putJob (s : State) (j : Nat) (x : Job) : State := { s with jobs := Tab.put s.jobs j x }
def State.modJob (s : State) (j : Nat) (f : Job → Job) : State :=
  match s.job j with
  | some x => s.putJob j (f x)
  | none => s

/-- Entries of a core's engine job queue in use (R243). -/
def State.entries (s : State) (c : Nat) : Nat := (s.jobs.filter fun (_, j) => j.entry && j.core == c &&
  (match j.owner with | some b => (s.block b).saved.isNone | none => true)).length

/-- The queue of the core holds 32 entries; a full one stalls the team (R243). -/
def Issue.entryFree (k : Issue) : M Unit := do
  let s ← get
  if s.entries k.blk.core ≥ 32 then stallM else pure ()

/-- The snapshot of R246. -/
def Issue.snap (k : Issue) : Snap := { fmt := k.blk.fmtWord, fmode := k.tm.fmode, books := k.blk.codebooks }

/-- The number of a token register. -/
def tokenReg : Opnd → Option Nat
  | .s r => some r.val
  | _ => none

/-- The issuing team's part in a job; its token register carries a token tag from now on (02 R59). -/
def Issue.addTok (k : Issue) (j : Nat) (d : Option Opnd) : M Unit := do
  let reg := d.bind tokenReg
  update (·.modJob j fun x => { x with toks := x.toks ++ [⟨k.t, reg, k.tm.jobs + 1, k.tm.nextOp⟩] })
  k.mod fun m =>
    let m := { m with jobs := m.jobs + 1 }
    match reg with
    | some r => m.setTags [96 + r] .token
    | none => m

/-- A job of the issuing block. -/
def Issue.newJob (k : Issue) (kind : JobKind) (bar : Option Nat) (foot : List Foot) (entry : Bool) (raw : List Byte := []) : M Nat := do
  let s ← get
  let j := s.nextJob
  let x : Job := { owner := some k.b, suite := k.blk.suite, core := k.blk.core, asid := k.blk.asid, kind := kind,
                   issuer := some (k.t, k.tm.nextOp), bar := bar, snap := k.snap, foot := foot, entry := entry
                   raw := raw, word := k.cl.words.headD 0 }
  set { (s.putJob j x) with nextJob := j + 1 }
  pure j

/-- A job is issued: it takes an entry, its token register is tagged, `setB` is busy until the engine has it. -/
def Issue.submit (k : Issue) (d : Opnd) (kind : JobKind) (bar : Option Nat) (foot : List Foot)
    (raw : List Byte := []) : M Unit := do
  k.entryFree
  let j ← k.newJob kind bar foot true raw
  k.addTok j (some d)
  k.start { kind := .value }

/-! ## Tensor layouts (R255-R257) -/

def dimsOf (r : List Byte) : Nat := field r 9 1

/-- The byte offset of the first field of a layout record that fails, if one does. -/
def layoutBad (r : List Byte) : Option Nat :=
  let esz := field r 8 1
  let dims := dimsOf r
  let order := field r 10 1
  let ext (i : Nat) : Nat := field r (12 + 4 * i) 4
  let box (i : Nat) : Nat := field r (48 + 2 * i) 2
  let used := List.range (min dims 5)
  let prod := used.foldl (fun a i => a * box i) 1
  if field r 0 8 ≥ 2 ^ 56 then some 0
  else if esz > 4 then some 8
  else if dims = 0 ∨ dims > 5 then some 9
  else if order / 4 ≠ 0 ∨ (order ≠ 0 ∧ dims < 2) then some 10
  else if field r 11 1 ≠ 0 then some 11
  else match used.find? (fun i => ext i == 0 || (decide (i < 2) && order % 2 == 1 && decide (ext i > 65536))) with
    | some i => some (12 + 4 * i)
    | none => match used.find? (fun i => box i == 0) with
      | some i => some (48 + 2 * i)
      | none => if prod * 2 ^ esz > 65536 then some 48 else if field r 58 6 ≠ 0 then some 58 else none

/-- The layout of a good record; unused dimensions have extent and box 1. -/
def Layout.of (r : List Byte) : Layout :=
  let n := dimsOf r
  let at_ (o w i : Nat) : Nat := if i < n then field r (o + w * i) w else 1
  { base := field r 0 8, esz := field r 8 1, dims := n, order := field r 10 1
    ext := (List.range 5).map (at_ 12 4)
    stride := 1 :: (List.range 4).map (fun i => if i + 1 < n then field r (32 + 4 * i) 4 else 0)
    box := (List.range 5).map (at_ 48 2) }

/-- `MORTON` of two coordinates below 2^16 (04 R118). -/
def morton2 (x y : Nat) : Nat :=
  (List.range 16).foldl (fun a i => a + b2n (bit x i) * 2 ^ (2 * i) + b2n (bit y i) * 2 ^ (2 * i + 1)) 0

def Layout.extAt (l : Layout) (i : Nat) : Nat := l.ext.getD i 1
def Layout.boxAt (l : Layout) (i : Nat) : Nat := l.box.getD i 1
def Layout.strideAt (l : Layout) (i : Nat) : Nat := l.stride.getD i 0
/-- Tiles along a dimension. -/
def Layout.grid (l : Layout) (i : Nat) : Nat := ceilDiv (l.extAt i) (l.boxAt i)
def Layout.tiles (l : Layout) : Nat := (List.range 5).foldl (fun a i => a * l.grid i) 1
def Layout.elems (l : Layout) : Nat := (List.range 5).foldl (fun a i => a * l.boxAt i) 1
def Layout.bytes (l : Layout) : Nat := l.elems * 2 ^ l.esz

/-- The digits of `t` in mixed radix, dimension 0 fastest. -/
def digits (t : Nat) : List Nat → List Nat
  | [] => []
  | g :: r => t % g :: digits (t / g) r

/-- Tile coordinates (R256). -/
def Layout.coords (l : Layout) (t : Nat) : List Nat :=
  if bit l.order 1 then
    let g0 := l.grid 0
    let g1 := l.grid 1
    let side := max g0 g1
    let codes := (List.range (2 ^ (2 * bitLen (side - 1)))).filterMap fun c =>
      let x := (List.range 16).foldl (fun a i => a + b2n (bit c (2 * i)) * 2 ^ i) 0
      let y := (List.range 16).foldl (fun a i => a + b2n (bit c (2 * i + 1)) * 2 ^ i) 0
      if x < g0 ∧ y < g1 then some (x, y) else none
    let u := codes.getD (t % (g0 * g1)) (0, 0)
    u.1 :: u.2 :: digits (t / (g0 * g1)) [l.grid 2, l.grid 3, l.grid 4]
  else digits t [l.grid 0, l.grid 1, l.grid 2, l.grid 3, l.grid 4]

/-- Element number of coordinates (R256). -/
def Layout.index (l : Layout) (c : List Nat) : Nat :=
  let at_ (i : Nat) : Nat := c.getD i 0
  let low := if bit l.order 0 then morton2 (at_ 0) (at_ 1) else at_ 0 + at_ 1 * l.strideAt 1
  low + at_ 2 * l.strideAt 2 + at_ 3 * l.strideAt 3 + at_ 4 * l.strideAt 4

/-- The address of element `i` of a tile, if it is in range (R256). -/
def Layout.elemAddr (l : Layout) (u : List Nat) (i : Nat) : Option Nat :=
  let d := digits i [l.boxAt 0, l.boxAt 1, l.boxAt 2, l.boxAt 3, l.boxAt 4]
  let c := (List.range 5).map fun k => u.getD k 0 * l.boxAt k + d.getD k 0
  if (List.range 5).all fun k => decide (c.getD k 0 < l.extAt k)
  then some ((l.base + l.index c * 2 ^ l.esz) % 2 ^ 64) else none

/-- `base` to the last in-range element's end (R269). -/
def Layout.span (l : Layout) : Nat := (l.index (l.ext.map (· - 1)) + 1) * 2 ^ l.esz

/-! ## Footprints and edges (08 R209; R269) -/

def Foot.meets (x y : Foot) : Bool :=
  x.stash == y.stash && decide (x.lo < y.lo + y.len) && decide (y.lo < x.lo + x.len) && (x.wr && (y.rd || y.wr) || x.rd && y.wr)

/-- A `LAYOUT` of the slot, issued before job `j`, that has not completed (R257). -/
def State.layoutOwed (s : State) (b j slot : Nat) : Bool :=
  s.jobs.any fun (i, x) => decide (i < j) && x.owner == some b && (match x.kind with | .layout _ n _ => n == slot | _ => false)

/-- A stream's footprint, once its layout is known (R269). -/
def State.streamFoot (s : State) (b j : Nat) (r : StreamRec) : Option (List Foot) :=
  let lay := if r.started then some r.lay
    else if s.layoutOwed b j r.lslot then none else some (Tab.get none (s.block b).layouts r.lslot)
  lay.map fun l =>
    let drain := bit r.ctl 0
    let h := RingHdr.of (readBytes (s.block b).stash r.ring 32)
    let ring : Foot := { lo := r.ring + 32, len := h.slots * h.size, stash := true, rd := drain, wr := !drain }
    match l with
    | some l => [ring, { lo := l.base, len := l.span, stash := false, rd := !drain, wr := drain }]
    | none => [ring]

/-- A job's footprint; `none` while it is not known. -/
def State.footOf (s : State) (j : Nat) (x : Job) : Option (List Foot) :=
  match x.kind, x.owner with
  | .stream r, some b => s.streamFoot b j r
  | _, _ => some x.foot

/-- A stash range names the global bytes of the mapped lines in it too (07 R183). -/
def Block.footAll (x : Block) (f : Foot) : List Foot :=
  f :: (if !f.stash then [] else x.maps.filterMap fun (_, m) =>
    let lo := max f.lo (m.line * 128)
    let hi := min (f.lo + f.len) ((m.line + m.count) * 128)
    if lo < hi then some { f with lo := m.va + (lo - m.line * 128), len := hi - lo, stash := false } else none)

/-- Two puts of one team to one peer: the later follows the earlier (08 R211). -/
def Job.putBehind (y x : Job) : Bool :=
  match y.kind, x.kind with
  | .remote r, .remote q => r.put && q.put && r.peer == q.peer && y.toks.any fun k => x.toks.any fun n => k.t == n.t
  | _, _ => false

/-- A put follows the team's earlier invocations of its peer, which have been sent (08 R211). -/
def State.putFollows (s : State) (b : Nat) (x : Job) : Bool :=
  match x.kind with
  | .remote r => !r.put || x.toks.all fun k => (s.team b k.t).ops.all fun o => decide (k.since ≤ o.id) || (match o.kind with
      | .task (.invoke rt _ _ _ _ since) => since.isSome || bits rt.toNat 5 0 != r.peer
      | _ => true)
  | _ => true

/-- An invocation follows the team's earlier puts to its peer (08 R211). -/
def State.putsOwed (s : State) (b t id peer : Nat) : Bool :=
  s.jobs.any fun (_, y) => y.owner == some b && y.ended.isNone && (match y.kind with
    | .remote r => r.put && r.peer == peer && y.toks.any fun k => k.t == t && decide (k.since ≤ id)
    | _ => false)

/-- Some earlier job of the block holds this one back. -/
def State.jobBlocked (s : State) (j : Nat) (x : Job) : Bool :=
  s.jobs.any fun (i, y) => decide (i < j) && x.owner.isSome && y.owner == x.owner && y.ended.isNone &&
    (y.putBehind x || (match s.footOf i y, s.footOf j x with
      | some f, some g =>
        let all (fs : List Foot) : List Foot := fs.flatMap (s.block (x.owner.getD 0)).footAll
        (all f).any fun a => (all g).any fun c => a.meets c
      | _, _ => true))

/-- Every access that the issuing teams issued before the job has performed (08 R208). -/
def State.jobFollows (s : State) (x : Job) : Bool :=
  match x.owner with
  | none => true
  | some b => s.putFollows b x && (x.toks.all fun k => (s.team b k.t).calm (some k.since)) &&
      (match x.issuer with | some (t, n) => (s.team b t).calm (some n) | none => true)

/-- The job may work: its block is resident, its page is present, its earlier accesses and jobs are done. -/
def State.jobRuns (s : State) (j : Nat) (x : Job) : Bool :=
  !x.held && x.ended.isNone && (match x.owner with | some b => (s.block b).saved.isNone | none => true) &&
    s.jobFollows x && !s.jobBlocked j x

/-! ## Units (08 R208; R247) -/

/-- Why a job stops at a unit. -/
inductive JobStop where
  | page (m : Miss)
  | ends (code detail : Nat)
  deriving DecidableEq, Repr

def Miss.jobStop (m : Miss) : JobStop :=
  match m.why with
  | .fault _ => .page m
  | .fatal => .ends 2 0x12
  | .poison => .ends 3 0
  | _ => .ends 2 0x07

/-- A request of an engine for a line at collector `key` (07 R188): the line may be read now (`some none`), or the request enters, or it
must wait (`none`). Where the collector is full, lines that have been asked for long enough make room; else the request waits in its
engine. -/
def State.collectAt (s : State) (key l : Nat) : Option (Option State) :=
  let es := Tab.get [] s.engColl key
  let ripe (e : Nat × Nat) : Bool := s.sectorMode || decide (e.2 + Config.holdTicks ≤ s.tick)
  match es.find? (·.1 == l) with
  | some e => if ripe e then some none else none
  | none =>
    let es := if es.length < Config.collectorEntries then es else es.filter fun e => !ripe e
    if es.length < Config.collectorEntries then some (some { s with engColl := Tab.set [] s.engColl key (es ++ [(l, s.tick)]) })
    else none

/-- A line has come: its entry in collector `key` is free. -/
def State.leaves (s : State) (key l : Nat) : State :=
  { s with engColl := Tab.set [] s.engColl key ((Tab.get [] s.engColl key).filter (·.1 != l)) }

/-- A request of an engine for the line of an address: `true` once its line may be read. -/
def collect (key c asid va : Nat) : M Bool := do
  let s ← get
  match s.translate c asid va .load with
  | (.ok pg, _) => match pg.place va with
    | .dev pa => match s.collectAt key (pa / 128) with
      | some none => pure true
      | some (some s) => do set s; pure false
      | none => stop (.fault .notEnabled)
    | _ => pure true
  | _ => pure true

/-- The line of an address has come. -/
def State.collected (s : State) (key c asid va : Nat) : State :=
  match s.translate c asid va .load with
  | (.ok pg, _) => match pg.place va with
    | .dev pa => s.leaves key (pa / 128)
    | _ => s
  | _ => s

/-- Bytes a job reads. -/
def State.jobRead (s : State) (x : Job) (stash : Bool) (a n : Nat) : Except JobStop (List Byte × State) :=
  if stash then
    match x.owner with
    | none => .error (.ends 2 0x07)
    | some b =>
      if a + n > (s.block b).stashSize then .error (.ends 2 0x07)
      else match s.stashGet b a n with
        | .ok (r, s) => .ok (r, s)
        | .error m => .error m.jobStop
  else if a + n > 2 ^ 56 then .error (.ends 2 0x07)
  else match s.engRead x.core x.asid a n with
    | .ok (.ok bs, s) => .ok (bs, s)
    | .ok (.poison, _) => .error (.ends 3 0)
    | .error m => .error m.jobStop

/-- Bytes a job writes. -/
def State.jobWrite (s : State) (x : Job) (stash : Bool) (a : Nat) (bytes : List Byte) : Except JobStop State :=
  if stash then
    match x.owner with
    | none => .error (.ends 2 0x07)
    | some b =>
      if a + bytes.length > (s.block b).stashSize then .error (.ends 2 0x07)
      else match (s.seeAgents x.core).stashPut b a bytes with
        | .ok s => .ok s
        | .error m => .error m.jobStop
  else if a + bytes.length > 2 ^ 56 then .error (.ends 2 0x07)
  else match s.engWrite x.core x.asid a bytes with
    | .ok s => .ok s
    | .error m => .error m.jobStop

/-- The end of the 32-byte unit that holds `a`, capped at `hi`. -/
def unitEnd (a hi : Nat) : Nat := min hi (a / 32 * 32 + 32)

/-- A slice's unit at byte `p` of it: its length. -/
def Slice.unit (z : Slice) (p : Nat) : Nat := unitEnd (z.dst + p) (z.dst + z.len) - (z.dst + p)

/-- The slice and the byte in it at which position `p` of the whole copy stands. -/
def sliceAt (p : Nat) : List Slice → Option (Slice × Nat)
  | [] => none
  | z :: r => if p < z.len then some (z, p) else sliceAt (p - z.len) r

/-- The unit at byte `p` of ranges that are read one after another: the number that stands with its range, its address and its
length. -/
def unitAt (p : Nat) : List (Nat × Nat × Nat) → Option (Nat × Nat × Nat)
  | [] => none
  | (r, a, len) :: rest => if p < len then some (r, a + p, unitEnd (a + p) (a + len) - (a + p)) else unitAt (p - len) rest

/-- The next unit of a slice copy: read in full, then written. -/
def State.copyUnit (s : State) (x : Job) (zs : List Slice) : Except JobStop (Option (Nat × State)) :=
  match sliceAt x.pos zs with
  | none => .ok none
  | some (z, p) => do
    let n := z.unit p
    let (bs, s) ← s.jobRead x z.srcStash (z.src + p) n
    let s ← s.jobWrite x z.dstStash (z.dst + p) bs
    pure (some (x.pos + n, s))

/-- The next unit of a fill. -/
def State.fillUnit (s : State) (x : Job) (dst len : Nat) (pat : Word) (stash : Bool) :
    Except JobStop (Option (Nat × State)) :=
  if x.pos ≥ len then .ok none
  else do
    let n := unitEnd (dst + x.pos) (dst + len) - (dst + x.pos)
    let p := leBytes 4 pat.toNat
    let bs := (List.range n).map fun i => p.getD ((x.pos + i) % 4) 0
    let s ← s.jobWrite x stash (dst + x.pos) bs
    pure (some (x.pos + n, s))

/-- The next unit of a write of bytes at hand. -/
def State.writeUnit (s : State) (x : Job) (addr : Nat) (data : List Byte) : Except JobStop (Option (Nat × State)) :=
  if x.pos ≥ data.length then .ok none
  else do
    let n := unitEnd (addr + x.pos) (addr + data.length) - (addr + x.pos)
    let s ← s.jobWrite x false (addr + x.pos) ((data.drop x.pos).take n)
    pure (some (x.pos + n, s))

/-! ## Remote copies (R254) -/

/-- Some suite of this device has the number. -/
def State.suiteExists (s : State) (u : Nat) : Bool := decide (u < 8) && !(s.roomsOf u).isEmpty

/-- The port a packet for a peer leaves by (17 R444): its route's primary, else its alternate, whichever is up. -/
def State.portTo (s : State) (peer : Nat) : Option Nat :=
  let (a, c) := Tab.get (0, 1) s.routes peer
  if (Tab.get {} s.ports a).up then some a else if (Tab.get {} s.ports c).up then some c else none

/-- A flit leaves by a port, and stays in its replay buffer until it is acknowledged (17 R444). -/
def State.sendFlit (s : State) (p dst : Nat) (f : FlitBody) : State :=
  let x : Port := Tab.get {} s.ports p
  { s with ports := Tab.set {} s.ports p { x with seq := (x.seq + 1) % 4096, replay := x.replay ++ [(x.seq, dst, f)] } }

/-- A unit of a remote copy goes to its peer. -/
def State.request (s : State) (peer : Nat) (q : FabricReq) : State :=
  let s := { s with fabricOut := s.fabricOut ++ [q] }
  match s.portTo peer with
  | some p => s.sendFlit p peer (.copy q)
  | none => s

/-- How a copy with another device ends, when it does not move data here: without the peer or with every link down, as
R254 says; else what the peer answers, which no rule of this device fixes. -/
def State.remoteEnd (s : State) (r : Remote) : Option (Nat × Nat) :=
  if !s.peers.contains r.peer then some (5, 0)
  else if (s.portTo r.peer).isNone then some (4, 0)
  else match (Config.freeWord s.free).toNat % 6 with
    | 1 => some (2, 0x07)
    | 2 => some (2, 0x12)
    | 3 => some (4, 0)
    | 4 => some (5, 0)
    | 5 => some (3, 0)
    | _ => none

/-- The next unit of a remote copy: with this device itself in the suite's space (log 23), with a peer through the
route. -/
def State.remoteUnit (s : State) (x : Job) (r : Remote) : Except JobStop (Option (Nat × State)) :=
  if (if r.peer = s.device then !s.suiteExists r.suite else !s.peers.contains r.peer) then .error (.ends 5 0)
  else if x.pos ≥ r.len then .ok none
  else
    let la := r.laddr + x.pos
    let ra := r.raddr + x.pos
    let n := unitEnd ra (r.raddr + r.len) - ra
    if r.peer = s.device then
      let far : Job := { x with owner := none, core := ostCore r.suite, asid := ostAsid r.suite }
      if r.put then do
        let (bs, s) ← s.jobRead x r.stash la n
        let s ← s.jobWrite far false ra bs
        pure (some (x.pos + n, s))
      else do
        let (bs, s) ← s.jobRead far false ra n
        let s ← s.jobWrite x r.stash la bs
        pure (some (x.pos + n, s))
    else match s.remoteEnd r with
      | some (c, d) => .error (.ends c d)
      | none =>
        let s0 := { s with free := s.free + n + 1 }
        if r.put then do
          let (bs, s) ← s0.jobRead x r.stash la n
          let s := s.request r.peer (FabricReq.mk true r.suite ra n bs s.device s.free)
          pure (some (x.pos + n, s))
        else do
          let s1 := s0.request r.peer (FabricReq.mk false r.suite ra n [] s0.device s0.free)
          let s ← s1.jobWrite x r.stash la ((List.range n).map fun i => Config.freeByte (s.free + 1 + i))
          pure (some (x.pos + n, s))

/-! ## Completion (R245) -/

/-- The token status word. -/
def tokenWord (code detail : Nat) (disc : Bool) : Word :=
  BitVec.ofNat 32 (0x80000000 + b2n disc * 0x800000 + detail * 256 + code)

/-- A token is written, and the register's tag clears (02 R59). -/
def Team.token (m : Team) (r : Nat) (w : Word) : Team :=
  { m with sregs := Tab.set 0 m.sregs r w, tags := m.tags.filter fun e => !(e.1 == 96 + r && e.2 == .token) }

/-- A job is over: its tokens are written, a `LAYOUT`'s slot takes its record, a forked program's end is kept, an
engine waybill's successors are released (13 R337); its entry is free. -/
def State.finishJob (s : State) (j : Nat) (disc : Bool) : State :=
  match s.job j with
  | none => s
  | some x =>
    let (code, detail) := x.ended.getD (0, 0)
    let w := tokenWord code detail disc
    let s := { s with jobs := Tab.erase s.jobs j, nearQueue := s.nearQueue.filter (·.2.2 != j) }
    let s := match x.owner with
      | none => s
      | some b =>
        let s := x.toks.foldl (fun s k => s.modTeam b k.t fun m => match k.reg with
          | some r => m.token r w
          | none => m) s
        match x.kind with
        | .layout _ slot (some l) => s.modBlock b fun y => { y with layouts := Tab.set none y.layouts slot l }
        | .stream r => match r.prog with
          | some i => s.modBlock b fun y => { y with forkRun := y.forkRun.map fun f =>
              { f with codes := setAt f.codes i (some w) } }
          | none => s
        | _ => s
    match x.waybill with
    | some wb => s.doneHandles x.suite (handlesOf wb)
    | none => s

/-- A job that has ended goes on to its barrier, or is over. -/
def State.settleJob (s : State) (j : Nat) : State :=
  match s.job j with
  | none => s
  | some x => match x.bar, x.owner with
    | some n, some b =>
      (s.modJob j fun x => { x with arriving := true }).modBlock b fun y => y.sendBar s.tick 4 (.jobArrive n j)
    | _, _ => s.finishJob j false

/-- The slot's engine work is over: filled or free as it should be, or given back as free. -/
def State.slotDone (s : State) (b hdr : Nat) (filled : Bool) : Except Miss State := do
  let (bytes, s) ← s.stashGet b hdr 32
  let h := RingHdr.of bytes
  let h := if filled then { h with wptr := h.wptr + 1, filled := h.filled + 1 } else { h with free := h.free + 1 }
  let s := match (s.block b).ring hdr with
    | some r => s.modBlock b (·.setRing hdr { r with work := r.work - 1 })
    | none => s
  (s.seeAgents (s.block b).core).stashPut b (hdr + 8) h.counts

/-- A stream job that ends in the middle of a tile gives back the slot it had taken as free (R267). -/
def State.giveSlot (s : State) (j : Nat) : State :=
  match s.job j with
  | some { kind := .stream r, owner := some b, .. } =>
    if r.slot.isNone then s
    else
      let s := match s.slotDone b r.ring false with
        | .ok s => s
        | .error _ => s
      s.modJob j fun x => { x with kind := .stream { r with slot := none } }
  | _ => s

/-- The core that a job works for stands from its end on at the time of the job's accesses (08 R208: what observes the completion
follows them; log 106). -/
def State.seeJob (s : State) (j : Nat) : State :=
  match s.job j with
  | some x => if x.owner.isSome then s.seeAgents x.core else s
  | none => s

def State.endJob (s : State) (j code detail : Nat) : State :=
  (((s.giveSlot j).seeJob j).modJob j fun x => { x with ended := some (code, detail) }).settleJob j

/-- A job stops at a unit: for a page, which the ostler makes present without a save (R247), or for good. -/
def State.stopJob (s : State) (j : Nat) (m : JobStop) : State :=
  match m with
  | .ends c d => s.endJob j c d
  | .page m => match m.why with
    | .fault ro => { (s.modJob j fun x => { x with held := true }) with
        faults := s.faults ++ [{ asid := m.asid, va := m.va / 4096 * 4096, kind := 3, readOnly := ro, who := .job j }] }
    | .fatal => s.endJob j 2 TrapCode.pagefatal.num
    | .poison => s.endJob j 3 0
    | _ => s.endJob j 2 TrapCode.prot.num

/-- One unit, or the end. -/
def State.unitStep (s : State) (j : Nat) (r : Except JobStop (Option (Nat × State))) : State :=
  match r with
  | .error m => s.stopJob j m
  | .ok none => s.endJob j 0 0
  | .ok (some (p, s)) => s.modJob j fun x => { x with pos := p }

/-- `JOB_COMPLETE`: a job whose next unit may perform performs it; one with none left completes. -/
def jobComplete (j : Nat) : M Unit := do
  let s ← get
  match s.job j with
  | none => stop (.fault .notEnabled)
  | some x => do
    need (s.jobRuns j x) .notEnabled
    match x.kind with
    | .copy zs want => do
      need (decide (zs.length ≥ want)) .notEnabled
      set (s.unitStep j (s.copyUnit x zs))
    | .fill dst len pat st => set (s.unitStep j (s.fillUnit x dst len pat st))
    | .remote r => set (s.unitStep j (s.remoteUnit x r))
    | .write a bytes => set (s.unitStep j (s.writeUnit x a bytes))
    | .bad d => set (s.endJob j 1 d)
    | .layout a slot _ => match unitAt x.buf.length [(0, a, 64)] with
      | some (_, u, n) => match s.jobRead x false u n with
        | .error m => set (s.stopJob j m)
        | .ok (bs, s) => set (s.modJob j fun x => { x with buf := x.buf ++ bs })
      | none =>
        let r := x.buf
        let got := match layoutBad r with | some _ => none | none => some (Layout.of r)
        let s := s.modJob j fun x => { x with kind := .layout a slot (some got) }
        set (match layoutBad r with | some o => s.endJob j 1 o | none => s.endJob j 0 0)
    | .stream r => do
      need (r.started && r.slot.isNone && decide (r.tile ≥ r.last)) .notEnabled
      set (s.endJob j 0 0)
    | .near .. => stop (.fault .notEnabled)
    | .batch .. => stop (.fault .notEnabled)

/-! ## Stamps (R271, R272) -/

def Block.stampAt (x : Block) (n : Nat) : Option Stamp := Tab.get none x.stamps n

/-- Event `e` of a slot: an event already stamped keeps its tick. -/
def Block.stampEvent (x : Block) (n e tick : Nat) : Block :=
  match x.stampAt n with
  | none => x
  | some z => if (Tab.find z.events e).isSome then x
      else { x with stamps := Tab.set none x.stamps n (some { z with events := Tab.put z.events e tick }) }

/-- The record's bytes. -/
def Stamp.bytes (z : Stamp) (core tick : Nat) : List Byte :=
  leBytes 4 z.tile.toNat ++ leBytes 2 core ++ leBytes 1 (z.events.foldl (fun a e => a + 2 ^ e.1) 0) ++ leBytes 1 0 ++
    (List.range 6).flatMap (fun e => leBytes 8 ((Tab.find z.events e).getD 0)) ++ leBytes 8 tick

/-- A slot is retired: its record is written as a job, with the snapshot of what retires it (R246). -/
def State.stampRetire (s : State) (b n : Nat) (entry : Bool) (snap : Snap) (issuer : Option (Nat × Nat)) : Option Nat × State :=
  let x := s.block b
  match x.stampAt n with
  | none => (none, s)
  | some z =>
    let j := s.nextJob
    let job : Job := { owner := some b, issuer := issuer, suite := x.suite, core := x.core, asid := x.asid, entry := entry, snap := snap, word := 0x0D000020
                       kind := .write z.addr (z.bytes x.core s.tick)
                       foot := [{ lo := z.addr, len := 64, stash := false, rd := false, wr := true }] }
    let s := (s.putJob j job).modBlock b fun x => { x with stamps := Tab.set none x.stamps n none }
    (some j, { s with nextJob := j + 1 })

/-! ## Stream jobs (R266, R267) -/

/-- The byte offset of the record's field that fails the start's checks. -/
def State.streamBad (s : State) (b : Nat) (r : StreamRec) (lay : Option Layout) : Option Nat :=
  let h := RingHdr.of (readBytes (s.block b).stash r.ring 32)
  match lay with
  | none => some 0
  | some l =>
    if ((s.block b).ring r.ring).isNone || h.slots == 0 then some 8
    else if bit r.ctl 0 == h.isFill then some 1
    else if l.bytes > h.size then some 8
    else if r.first ≥ l.tiles then some 12
    else r.bad

/-- An earlier stream job of the block on the ring has not ended. -/
def State.ringBusy (s : State) (b j ring : Nat) : Bool :=
  s.jobs.any fun (i, x) => decide (i < j) && x.owner == some b && x.ended.isNone &&
    (match x.kind with | .stream r => r.ring == ring | _ => false)

/-- The job's block is resident and its earlier accesses are done: what the checks of a stream wait for. -/
def State.jobStarts (s : State) (x : Job) : Bool :=
  !x.held && x.ended.isNone && (match x.owner with | some b => (s.block b).saved.isNone | none => true) && s.jobFollows x

/-- `STREAM_JOB_START`: the layout is captured and the record checked, before any wait for the ring. -/
def streamStart (j : Nat) : M Unit := do
  let s ← get
  match s.job j with
  | none => stop (.fault .notEnabled)
  | some x => match x.kind, x.owner with
    | .stream r, some b => do
      need (!r.started && !s.layoutOwed b j r.lslot && s.jobStarts x) .notEnabled
      let lay := if r.lslot < 8 then Tab.get none (s.block b).layouts r.lslot else none
      match s.streamBad b r lay with
      | some o => set (s.endJob j 1 o)
      | none =>
        let n := match lay with | some l => l.tiles | none => 0
        let last := if r.count = 0 then n else min n (r.first + r.count)
        set (s.modJob j fun x => { x with kind := .stream { r with started := true, lay := lay, tile := r.first, last := last } })
    | _, _ => stop (.fault .notEnabled)

/-- The 32-byte units of memory that the in-range elements of the tile at coordinates `u` lie in, in order of first use: each is
requested once (R256, R267). -/
def Layout.tileUnits (l : Layout) (u : List Nat) : List Nat :=
  (List.range l.elems).foldl (fun us i => match l.elemAddr u i with
    | some a => (List.range ((a + 2 ^ l.esz - 1) / 32 + 1 - a / 32)).foldl (fun us k => addNew (a / 32 + k) us) us
    | none => us) []

/-- The parts of a tile's elements that lie in memory unit `m`, in ascending element: the address, the byte of the tile, the length. -/
def Layout.unitParts (l : Layout) (u : List Nat) (m : Nat) : List (Nat × Nat × Nat) :=
  let n := 2 ^ l.esz
  (List.range l.elems).filterMap fun i => (l.elemAddr u i).bind fun a =>
    let lo := max a (32 * m)
    let hi := min (a + n) (32 * m + 32)
    if lo < hi then some (lo, i * n + (lo - a), hi - lo) else none

/-- One unit of a tile moves: a fill reads it once, a drain writes what its elements say. -/
def State.moveUnit (s : State) (x : Job) (l : Layout) (drain : Bool) (slot t m : Nat) : Except JobStop State :=
  let parts := l.unitParts (l.coords t) m
  if drain then parts.foldlM (fun s (a, o, n) => do
    let (bs, s) ← s.jobRead x true (slot + o) n
    s.jobWrite x false a bs) s
  else do
    let (bs, s) ← s.jobRead x false (32 * m) 32
    parts.foldlM (fun s (a, o, n) => s.jobWrite x true (slot + o) ((bs.drop (a - 32 * m)).take n)) s

/-- The elements of a fill's tile that are out of range arrive as zero (R256). -/
def State.zeroRest (s : State) (x : Job) (l : Layout) (slot t : Nat) : Except JobStop State :=
  let n := 2 ^ l.esz
  ((List.range l.elems).filter fun i => (l.elemAddr (l.coords t) i).isNone).foldlM (fun s i => s.jobWrite x true (slot + i * n) (fill n 0)) s

/-- Tiles that the stream engines of a core work on. -/
def State.tilesBusy (s : State) (c : Nat) : Nat :=
  (s.jobs.filter fun (_, x) => x.core == c && (match x.kind with | .stream r => r.slot.isSome | _ => false)).length

/-- Stream jobs whose record asks for stamps stamp an event of each tile. -/
def State.streamStamp (s : State) (b : Nat) (r : StreamRec) (e : Nat) : State :=
  if bit r.stamp 7 then s.modBlock b fun x => x.stampEvent (r.stamp % 4) e s.tick else s

/-- The stream job may take a slot for its next tile: its ring is its own and has one ready (R260, R267). -/
def State.streamReady (s : State) (j : Nat) (x : Job) : Bool :=
  match x.kind, x.owner with
  | .stream r, some b =>
    r.started && r.slot.isNone && decide (r.tile < r.last) && s.jobRuns j x && !s.ringBusy b j r.ring &&
      (match s.stashGet b r.ring 32 with
        | .ok (bytes, _) => let h := RingHdr.of bytes; decide ((if bit r.ctl 0 then h.filled else h.free) > 0)
        | .error _ => true)
  | _, _ => false

/-- The engines of a core serve its ready stream jobs in the order in which they were issued (R267). -/
def State.streamTurn (s : State) (j : Nat) (x : Job) : Bool :=
  s.streamReady j x && decide (s.tilesBusy x.core < 2) &&
    s.jobs.all fun (i, y) => decide (j ≤ i) || y.core != x.core || !s.streamReady i y

/-- `STREAM_TILE`: an engine takes a free or filled slot for the next tile, or moves the next unit of the tile of the slot it took;
after the last unit the slot is finished. -/
def streamTile (j : Nat) : M Unit := do
  let s ← get
  match s.job j with
  | none => stop (.fault .notEnabled)
  | some x => match x.kind, x.owner with
    | .stream r, some b => do
      let drain := bit r.ctl 0
      match r.slot with
      | none => do
        need (s.streamTurn j x) .notEnabled
        match s.stashGet b r.ring 32 with
        | .error m => set (s.stopJob j m.jobStop)
        | .ok (bytes, s) =>
          let h := RingHdr.of bytes
          let work := match (s.block b).ring r.ring with | some g => g.work | none => 0
          let i := if drain then h.rptr % h.slots else (h.wptr + work) % h.slots
          let h := if drain then { h with rptr := h.rptr + 1, filled := h.filled - 1 } else { h with free := h.free - 1 }
          match s.stashPut b (r.ring + 8) h.counts with
          | .error m => set (s.stopJob j m.jobStop)
          | .ok s =>
            let s := s.modBlock b fun y => match y.ring r.ring with
              | some g => y.setRing r.ring { g with work := g.work + 1 }
              | none => y
            let s := if drain then s else s.streamStamp b r 0
            set (s.modJob j fun x => { x with kind := .stream { r with slot := some (h.slotOff r.ring i), unit := 0 } })
      | some slot => do
        need (r.started && s.jobRuns j x && decide (r.tile < r.last)) .notEnabled
        match r.lay with
        | none => stop (.fault .notEnabled)
        | some l => match (l.tileUnits (l.coords r.tile))[r.unit]? with
          | some m => match s.moveUnit x l drain slot r.tile m with
            | .ok s => set (s.modJob j fun x => { x with kind := .stream { r with unit := r.unit + 1 } })
            | .error e => set (s.stopJob j e)
          | none => match (if drain then pure s else s.zeroRest x l slot r.tile) with
            | .error e => set (s.stopJob j e)
            | .ok s => match s.slotDone b r.ring (!drain) with
              | .error m => set (s.stopJob j m.jobStop)
              | .ok s =>
                let s := s.streamStamp b r (if drain then 5 else 1)
                set (s.modJob j fun x => { x with kind := .stream { r with slot := none, tile := r.tile + 1, unit := 0 } })
    | _, _ => stop (.fault .notEnabled)

end Sys2Proof.Machine
end

