-- ==== Sys2Proof/Machine/Matrix.lean ====
section
/-! DEFINITION. The matrix context (11): control words, tiles, the format word, the accumulation step, decomposition,
and the issue of the sequencer's instructions with the traps of its stream. -/
namespace Sys2Proof.Machine
open Sys2Proof

/-! ## Objects (R276-R278) -/

def Mtx.tile (m : Mtx) (i : Nat) : Tile := Tab.get {} m.tiles i
def Mtx.setTile (m : Mtx) (i : Nat) (t : Tile) : Mtx := { m with tiles := Tab.set {} m.tiles i t }
def Mtx.acc (m : Mtx) (i : Nat) : Accum := Tab.get {} m.accs i
def Mtx.setAcc (m : Mtx) (i : Nat) (a : Accum) : Mtx := { m with accs := Tab.set {} m.accs i a }
def Mtx.qr (m : Mtx) (i : Nat) : Word := Tab.get 0 m.q i
def Mtx.setQ (m : Mtx) (i : Nat) (x : Word) : Mtx := { m with q := Tab.set 0 m.q i x }

/-! ## Control words (R277) -/

def ctlForm (w : Word) : Nat := bits w.toNat 31 30
def ctlWidth (w : Word) : Nat := match bits w.toNat 29 28 with | 0 => 4 | 1 => 8 | 2 => 16 | _ => 0
def ctlFmt (w : Word) : Nat := bits w.toNat 27 24
def ctlCols (w : Word) : Nat := bits w.toNat 23 16
def ctlRows (w : Word) : Nat := bits w.toNat 7 0
def accCols (w : Word) : Nat := bits w.toNat 15 8
def accRows (w : Word) : Nat := bits w.toNat 7 0
/-- The logical K of a tile (R278). -/
def logicalK (w : Word) : Nat := if ctlForm w = 2 then 2 * ctlCols w else ctlCols w

def tileValid (w : Word) : Bool :=
  ctlForm w != 3 && ctlWidth w != 0 && bits w.toNat 15 8 == 0 && fmtWidth (ctlFmt w) == ctlWidth w &&
  decide (8 ≤ ctlCols w) && decide (ctlCols w ≤ 128) && decide (8 ≤ ctlRows w) && decide (ctlRows w ≤ 64) &&
  decide (ctlRows w * ctlCols w * ctlWidth w ≤ 32768) &&
  !(ctlForm w == 2 && ctlCols w % 2 == 1) && !(ctlFmt w == 8 && ctlForm w != 0)
def accValid (w : Word) : Bool :=
  bits w.toNat 31 16 == 0 && decide (8 ≤ accCols w) && decide (accCols w ≤ 32) && decide (8 ≤ accRows w) && decide (accRows w ≤ 32)

/-! ## The format word (R281, R282) -/

def fwX (w : Word) : Nat := bits w.toNat 3 0
def fwY (w : Word) : Nat := bits w.toNat 7 4
def fwOut (w : Word) : Nat := bits w.toNat 11 8
def fwRound (w : Word) : Nat := bits w.toNat 14 12
def fwSat (w : Word) : Bool := bit w.toNat 15
def fwAmode (w : Word) : Nat := bits w.toNat 17 16
def fwXcb (w : Word) : Nat := bits w.toNat 20 18
def fwYcb (w : Word) : Nat := bits w.toNat 23 21
def fwSblk (w : Word) : Nat := match bits w.toNat 25 24 with | 0 => 0 | 1 => 16 | 2 => 32 | _ => 64
def fwXbm (w : Word) : Bool := bit w.toNat 26
def fwYbm (w : Word) : Bool := bit w.toNat 27
def fwStep (w : Word) : Nat := if fmtWidth (fwX w) = 16 ∨ fmtWidth (fwY w) = 16 then 16 else 32

/-- Bits [31:28] are zero and no format field is 15. -/
def fwPlain (w : Word) : Bool := bits w.toNat 31 28 == 0 && fwX w != 15 && fwY w != 15 && fwOut w != 15

def wideIn (c : Nat) : Bool := c == 1 || c == 2
def narrowIn (c : Nat) : Bool := [3, 4, 5, 6, 7, 8].contains c
def intIn (c : Nat) : Bool := c == 5 || c == 6 || c == 7

/-- The cause for which a format word is not usable (R282). -/
def fwCause (w : Word) : Option Nat :=
  let x := fwX w
  let y := fwY w
  if !fwPlain w then some 1
  else if !(wideIn x && wideIn y || narrowIn x && narrowIn y) ||
      ((fwAmode w == 1 || fwAmode w == 2) && !(intIn x && intIn y)) then some 2
  else if fwOut w == 8 || fwOut w == 13 then some 3
  else if fwRound w > 5 then some 4
  else if fwAmode w == 3 then some 5
  else if fwSblk w % fwStep w != 0 || (fwSblk w != 0 && fwAmode w != 0) then some 6
  else if (fwXbm w && x == 8) || (fwYbm w && y == 8) then some 7
  else none

/-! ## Issue of the sequencer (R284-R286) -/

/-- What a meaning of the stream sees. -/
structure SeqIssue where
  b : Nat
  blk : Block
  m : Mtx
  cl : Clause
  flag : Option Nat
  tick : Nat

def SeqIssue.mod (k : SeqIssue) (f : Mtx → Mtx) : M Unit := modify (·.modMtx k.b f)

/-- The stream's trap for a team that executes `RENDEZ`, `BWAIT` or `BSYNC`, if there is one. -/
def Issue.owedTrap (k : Issue) : Option MTrap :=
  if k.tm.context = .trap then none
  else match k.blk.mtx.trap with
    | some i => if k.blk.trapTarget i.owner = some k.t then some i else none
    | none => none

/-- The matrix program has ended (R249). -/
def State.endProgram (s : State) (b : Nat) : State :=
  let s := s.modBlock b fun x => { x with
    mtx := { x.mtx with clause := none, stall := none, held := false, qstat := x.mtx.qstat &&& 0x7FFFFFFF, buf := [], wrote := 0 }
    forkRun := x.forkRun.map fun f => { f with mtx := false } }
  if s.focus = some (.seq b) then { s with focus := none } else s

/-- A trap of the stream (R286). `x` is the cause of `MTXSHAPE` and `FMTBAD`, the address of the others. -/
def State.seqTrap (s : State) (b : Nat) (c : TrapCode) (pc x : Nat) : State :=
  let cause := if c = .mtxshape ∨ c = .fmtbad then x else 0
  let addr := if c = .prot ∨ c = .misalign ∨ c = .pagefatal then x else 0
  let owner := match (s.block b).forkRun with | some f => f.owner | none => 0
  let s := (s.endProgram b).modMtx b fun m => { m with
    qstat := BitVec.ofNat 32 (2 ^ 30 + c.num * 65536 + cause * 256)
    trap := some ⟨c, pc, addr, owner⟩ }
  s.offerTrap b

/-- The instruction has issued: the next word, the clause's end, or the loop's target (R289). -/
def State.seqFinish (s : State) (b : Nat) : State :=
  match (s.block b).mtx.clause with
  | none => s
  | some cl0 =>
    let cl := cl0.advance
    if cl.words.isEmpty then
      let pc := match cl.moves with | v :: _ => v.pc | [] => cl.pc
      let s := s.modMtx b fun m => { m with clause := none, pc := pc, buf := [], wrote := 0 }
      if s.focus = some (.seq b) then { s with focus := none } else s
    else s.modMtx b fun m => { m with clause := some cl, buf := [], wrote := 0 }

/-- A tagged object: read or written, it is `HAZARD`; an instruction of the `MMA` family chains on the accumulator
that `chain` names (R285). -/
def Mtx.hazard (m : Mtx) (objs : List Nat) (chain : Option Nat) : Bool :=
  objs.any fun o => match Tab.find m.tags o with
    | none => false
    | some (_, mma) => !(chain == some o && mma)

/-- Some units of the instruction at hand have performed, not all (R287). -/
def Mtx.midway (m : Mtx) : Bool := !m.buf.isEmpty || m.wrote != 0

/-- The sequencer keeps its instruction. -/
def Mtx.parked (m : Mtx) : Bool := m.stall.isSome

/-- Run a meaning as the next word of the sequencer in focus. -/
def seqIssue (track : Track) (objs : List Nat) (chain : Option Nat) (body : SeqIssue → M Unit) (s : State) : Result :=
  match s.focus with
  | some (.seq b) =>
    let s := s.modMtx b fun m => { m with stall := none }
    let x := s.block b
    match x.mtx.clause with
    | none => .fault .noIssuer
    | some cl =>
      if x.mtx.hazard objs chain then .next (s.seqTrap b .hazard cl.pc 0)
      else
        let flag := match track with
          | .a => flagField cl.setA
          | .b => flagField cl.setB
          | .no => none
        match body { b := b, blk := x, m := x.mtx, cl := cl, flag := flag, tick := s.tick } s with
        | .ok (_, s') => if (s'.block b).mtx.parked then .next s' else .next (s'.seqFinish b)
        | .error (.trap c addr _) => .next (s.seqTrap b c cl.pc addr)
        | .error .stall => .next (s.modMtx b fun m => { m with stall := some .retry })
        | .error (.pageFault f) =>
          let s := s.modMtx b fun m => { m with stall := some .retry, held := true }
          .next { s with faults := s.faults ++ [{ f with who := .seq b, kind := 3 }] }
        | .error (.fault f) => .fault f
        | .error (.refuse r) => .refused r
  | _ => .fault .noIssuer

/-- A tracked instruction is outstanding, and tags what it writes (R285). -/
def SeqIssue.start (k : SeqIssue) (objs : List Nat) (mma : Option MmaOp) : M Unit :=
  k.mod fun m =>
    let m := { m with ops := m.ops ++ [⟨m.nextOp, k.flag, k.cl.pc, mma⟩], nextOp := m.nextOp + 1 }
    match k.flag with
    | some f => { m with tags := objs.foldl (fun t o => Tab.put t o (f, mma.isSome)) m.tags }
    | none => m

/-- A value of a `q` register or a literal. -/
def SeqIssue.val (k : SeqIssue) : QSrc → Word
  | .q r => k.m.qr r.val
  | .lit w => w

/-- The `q` register that a source reads, as an object. -/
def qObj : QSrc → List Nat
  | .q r => [16 + r.val]
  | .lit _ => []
def pitchObj : Pitch → List Nat
  | .packed => []
  | .q r => [16 + r.val]

def SeqIssue.shape (_ : SeqIssue) (cause : Nat) : M Unit := trap .mtxshape cause

/-- Some instruction of the array still reads tile `x`: what overwrites it is held (R285). -/
def Mtx.reads (m : Mtx) (x : Nat) : Bool := m.ops.any fun o => match o.mma with
  | some a => a.x == x || a.y == x
  | none => false

def SeqIssue.hold (k : SeqIssue) (x : Nat) : M Unit := if k.m.reads x then stallM else pure ()

/-- The format word in force, checked (R282). -/
def SeqIssue.format (k : SeqIssue) : M Word :=
  match fwCause k.m.fmt with
  | some c => trap .fmtbad c
  | none => pure k.m.fmt

/-! ## Stash of the stream (R291, R307) -/

/-- Bytes inside the declared stash, then alignment. -/
def SeqIssue.bounds (k : SeqIssue) (off n : Nat) : M Unit := trapIf (decide (off + n > k.blk.stashSize)) .prot off
def SeqIssue.aligned (_ : SeqIssue) (off stride : Nat) : M Unit :=
  trapIf (decide (off % 32 ≠ 0) || decide (stride % 32 ≠ 0)) .misalign off

/-- What a miss of a stash access of the stream at `off` does: it is held on a page fault, and else traps; of the traps only `PROT`
names the offset (R286). -/
def SeqIssue.miss (k : SeqIssue) (off : Nat) (m : Miss) : M Unit :=
  match m.stop k.b with
  | .trap .prot _ f => stop (.trap .prot off f)
  | .trap c _ f => stop (.trap c 0 f)
  | e => stop e

/-- The instruction stays, with more of its units performed (R287). -/
def SeqIssue.more (k : SeqIssue) (f : Mtx → Mtx) : M Unit := k.mod fun m => { f m with stall := some .retry }

/-- The `n` bytes at `off`, which the instruction reads after `skip` bytes of others, 32-byte unit by unit, one at a step (R287):
`none` while some are still to be read. -/
def SeqIssue.load (k : SeqIssue) (skip off n : Nat) : M (Option Nat) := do
  let s ← get
  let have_ := (s.block k.b).mtx.buf
  let got := have_.length - skip
  if n ≤ got then pure (some (ofLe ((have_.drop skip).take n)))
  else if have_.length ≠ k.m.buf.length then do k.more id; pure none
  else do
    if !((indexed (s.block k.b).teams).all fun (t, m) => m.calm (some (k.m.since.getD t 0))) then stallM
    let len := min (n - got) (32 - (off + got) % 32)
    match s.stashGet k.b (off + got) len with
    | .ok (bs, s) => do
      set (s.modMtx k.b fun m => { m with buf := have_ ++ bs })
      if n ≤ got + len then pure (some (ofLe (((have_ ++ bs).drop skip).take n)))
      else do k.more id; pure none
    | .error m => do k.miss (off + got) m; pure none

/-- The bits `cover` of the `n` bytes at `off` take those of `v`: one 32-byte unit a step, the units without such a bit left out
(R287). `done` is what the instruction does besides, once all have performed. -/
def SeqIssue.save (k : SeqIssue) (off n v cover : Nat) (done : M Unit) : M Unit := do
  let part (x j : Nat) : Nat := x / 2 ^ (256 * j) % 2 ^ 256
  let units := (List.range (ceilDiv n 32)).filter fun j => part cover j ≠ 0
  match units[k.m.wrote]? with
  | none => done
  | some j => do
    let s ← get
    let len := min 32 (n - 32 * j)
    let put : Except Miss State := do
      let (old, s) ← s.stashGet k.b (off + 32 * j) len
      let o := ofLe old
      s.stashPut k.b (off + 32 * j) (leBytes len (o - (o &&& part cover j) + part v j))
    match put with
    | .ok s => do
      set s
      if k.m.wrote + 1 < units.length then k.more fun m => { m with wrote := m.wrote + 1 } else done
    | .error m => k.miss (off + 32 * j) m

/-- The row stride in bytes, if the rows do not lie packed (R291). -/
def SeqIssue.stride (k : SeqIssue) : Pitch → Nat
  | .packed => 0
  | .q r => (k.m.qr r.val).toNat

/-- The bit at which row `r` of rows of `n` bits lies. -/
def rowBit (stride n r : Nat) : Nat := if stride = 0 then r * n else r * stride * 8
/-- Bytes from the first row to the last. -/
def rowSpan (stride n rows : Nat) : Nat := (rowBit stride n (rows - 1) + n + 7) / 8

/-- Rows of `n` bits gathered into one pattern. -/
def gatherRows (x stride n rows : Nat) : Nat :=
  (List.range rows).foldl (fun a r => a + (x / 2 ^ rowBit stride n r % 2 ^ n) * 2 ^ (r * n)) 0

/-- Some bits of a pattern set to others. -/
def putBits (x at_ n v : Nat) : Nat := x / 2 ^ (at_ + n) * 2 ^ (at_ + n) + v % 2 ^ n * 2 ^ at_ + x % 2 ^ at_

/-- The low `n` bits of a store replaced. -/
def replaceLow (old new n : Nat) : Nat := old / 2 ^ n * 2 ^ n + new % 2 ^ n

/-! ## Loads and stores (R290-R294) -/

/-- `MTC` (R290). -/
def mtc (k : SeqIssue) (n : Nat) (v : Word) : M Unit := do
  let ok := v == 0 || (if n < 8 then tileValid v else accValid v)
  if !ok then k.shape 1
  else if n < 8 then do
    k.hold n
    k.mod fun m => m.setTile n { ctl := v, data := (m.tile n).data }
  else k.mod fun m => m.setAcc (n - 8) { m.acc (n - 8) with ctl := v }

/-- An accumulator's elements from rows of 96-bit elements. -/
def Accum.load (a : Accum) (x rows cols : Nat) : Accum :=
  { a with els := (List.range rows).foldl (fun t r => (List.range cols).foldl (fun t c =>
      Tab.set 0 t (32 * r + c) (BitVec.ofNat 96 (x / 2 ^ ((r * cols + c) * 96)))) t) a.els }

/-- The elements of a bitmap tile spread out: +0 where the bit is 0 (R291). -/
def spreadBits (bm packed wd n : Nat) : Nat :=
  ((List.range n).foldl (fun (a : Nat × Nat) e =>
    if bit bm e then (a.1 + (packed / 2 ^ (a.2 * wd) % 2 ^ wd) * 2 ^ (e * wd), a.2 + 1) else a) (0, 0)).1

/-- The two indices of each group ascend strictly. -/
def pairsAscend (idx n : Nat) : Bool :=
  (List.range (n / 2)).all fun g => decide (idx / 2 ^ (4 * g) % 4 < idx / 2 ^ (4 * g + 2) % 4)

/-- `MLOAD` (R291). -/
def mload (k : SeqIssue) (t : Nat) (off : Nat) (p : Pitch) : M Unit := do
  let st := k.stride p
  if t ≥ 8 then do
    let a := k.m.acc (t - 8)
    if !accValid a.ctl then k.shape 2
    let n := accCols a.ctl * 96
    let rows := accRows a.ctl
    k.bounds off (rowSpan st n rows)
    k.aligned off st
    match ← k.load 0 off (rowSpan st n rows) with
    | none => pure ()
    | some x => do
      k.mod fun m => m.setAcc (t - 8) (a.load (gatherRows x st n rows) rows (accCols a.ctl))
      k.start [t] none
  else do
    let x := k.m.tile t
    let w := x.ctl
    if !tileValid w then k.shape 2
    let wd := ctlWidth w
    let n := ctlRows w * ctlCols w
    k.hold t
    let put (data : Nat) (bm : Option (BitVec 8192)) (idx : Option (BitVec 16384)) : M Unit := do
      k.mod fun m => m.setTile t { x with
        data := BitVec.ofNat 32768 (replaceLow x.data.toNat data (n * wd)), bitmap := bm, idx := idx, res := [] }
      k.start [t] none
    if ctlForm w = 0 then do
      let row := ctlCols w * wd
      let span := rowSpan st row (ctlRows w)
      k.bounds off span
      k.aligned off st
      match ← k.load 0 off span with
      | none => pure ()
      | some v => put (gatherRows v st row (ctlRows w)) none none
    else if ctlForm w = 1 then do
      let nb := ceilDiv n 8
      k.bounds off nb
      match ← k.load 0 off nb with
      | none => pure ()
      | some b => do
        let bm := b % 2 ^ n
        let at_ := off + roundUp nb 32
        let len := ceilDiv (popcount bm n * wd) 8
        if len ≠ 0 then k.bounds off (at_ + len - off)
        k.aligned off 0
        match ← k.load nb at_ len with
        | none => pure ()
        | some v => put (spreadBits bm v wd n) (some (BitVec.ofNat 8192 bm)) none
    else do
      let nd := ceilDiv (n * wd) 8
      let at_ := off + roundUp nd 32
      let ni := ceilDiv (n * 2) 8
      k.bounds off (at_ + ni - off)
      k.aligned off 0
      match ← k.load 0 off nd with
      | none => pure ()
      | some v => match ← k.load nd at_ ni with
        | none => pure ()
        | some idx => do
          if !pairsAscend idx n then k.shape 9
          put v none (some (BitVec.ofNat 16384 (idx % 2 ^ (2 * n))))

/-- `MSCALE` (R294), its checks in order. -/
def mscale (k : SeqIssue) (t off : Nat) : M Unit := do
  let fw ← k.format
  let blk := fwSblk fw
  if blk = 0 then trap .fmtbad 8
  let x := k.m.tile t
  if !tileValid x.ctl then k.shape 2
  let kk := logicalK x.ctl
  if kk % blk ≠ 0 then k.shape 10
  let n := ctlRows x.ctl * (kk / blk)
  k.bounds off (4 * n)
  k.aligned off 0
  k.hold t
  match ← k.load 0 off (4 * n) with
  | none => pure ()
  | some v => do
    k.mod fun m => m.setTile t { x with
      scales := (List.range n).foldl (fun z i => Tab.set 0x3F8000 z i (v / 2 ^ (32 * i + 8) % 2 ^ 24)) x.scales }
    k.start [t] none

/-- One element of an accumulator in the output format, and whether it drew (R292). -/
def outElem (fw : Word) (a r16 : Nat) : Nat × Bool :=
  let f := fwOut fw
  let v := if fwAmode fw = 0 then fmtA96.val a else intVal (sext a 96)
  match floatFmt f with
  | some g => let r := g.rnd v (fwRound fw) (fwSat fw) r16; (r.bits, r.drew)
  | none => match intFmt f with
    | none => (0, false)
    | some (w, lo, hi) => match v with
      | .nan => (0, false)
      | .inf n => (wrapN (if n then lo else hi) w, false)
      | .fin n m e =>
        let (i, drew) := rndint n m e (fwRound fw) r16
        (wrapN (clamp i lo hi) w, drew)

/-- `MSTORE` (R292). -/
def mstore (k : SeqIssue) (n off : Nat) (p : Pitch) : M Unit := do
  let fw ← k.format
  let a := k.m.acc n
  if !accValid a.ctl then k.shape 2
  let cols := accCols a.ctl
  let rows := accRows a.ctl
  let wd := fmtWidth (fwOut fw)
  let st := k.stride p
  let row := cols * wd
  let span := rowSpan st row rows
  k.bounds off span
  k.aligned off st
  let draw (j : Nat) : Nat := (rngmix (BitVec.ofNat 32 (0xFFFF0000 + j)) k.m.rng 17).toNat / 65536
  let els := (List.range rows).flatMap fun r => (List.range cols).map fun c =>
    (rowBit st row r + c * wd, outElem fw (Tab.get 0 a.els (32 * r + c)).toNat (draw (r * cols + c)))
  k.save off span (els.foldl (fun z e => putBits z e.1 wd e.2.1) 0)
    ((List.range rows).foldl (fun z r => putBits z (rowBit st row r) row (2 ^ row - 1)) 0) do
    if els.any (·.2.2) then k.mod fun m => { m with rng := m.rng + 1 }
    k.start [] none

/-! ## The accumulation step (R295-R300) -/

/-- Element values of a tile's logical rows, and whether the reserved i4 code was met (R296, R300). -/
def Tile.elem (t : Tile) (e : Nat) : Nat := t.data.toNat / 2 ^ (e * ctlWidth t.ctl) % 2 ^ ctlWidth t.ctl
def Tile.logical (t : Tile) (book : List Nat) (m kk : Nat) : Val :=
  let w := t.ctl
  let f := ctlFmt w
  if ctlForm w ≠ 2 then (valOf f (t.elem (m * ctlCols w + kk)) false book).1
  else match t.res.find? fun r => r.1 == m && r.2.1 == kk with
    | some r => (valOf f r.2.2 false book).1
    | none =>
      let idx := match t.idx with | some i => i.toNat | none => 0
      let e := m * ctlCols w + 2 * (kk / 4)
      if idx / 2 ^ (2 * e) % 4 = kk % 4 then (valOf f (t.elem e) false book).1
      else if idx / 2 ^ (2 * e + 2) % 4 = kk % 4 then (valOf f (t.elem (e + 1)) false book).1
      else .fin false 0 0

/-- The tile holds the i4 code 0b1000 (R137, R296). -/
def Tile.reserved (t : Tile) : Bool :=
  ctlFmt t.ctl == 7 && ((List.range (ctlRows t.ctl * ctlCols t.ctl)).any (fun e => t.elem e == 8) || t.res.any (·.2.2 == 8))

/-- The scale of row `r` for chunk `c`. -/
def Tile.scale (t : Tile) (blk step r c : Nat) : Val :=
  if blk = 0 then .fin false 1 0
  else fmtS24.val (Tab.get 0x3F8000 t.scales (r * (logicalK t.ctl / blk) + c * step / blk))

/-- Column `kk` of a bitmap tile holds a 1 bit (R299). -/
def Tile.column (t : Tile) (kk : Nat) : Bool :=
  match t.bitmap with
  | none => false
  | some bm => (List.range (ctlRows t.ctl)).any fun r => bm.getLsbD (r * ctlCols t.ctl + kk)

/-- The books of a snapshot. -/
def bookOf (books : Tab Half) (c : Nat) : List Nat := (List.range 16).map fun i => (Tab.get 0 books (c * 16 + i)).toNat

/-- The exact sum of a chunk's terms: a term with a zero factor is 0 (R296). -/
def termSum (xs ys : List Val) : Val :=
  sumVals 0 ((xs.zip ys).filterMap fun p => if p.1.isZero || p.2.isZero then none else some (p.1.mul p.2))

def Val.toInt : Val → Int
  | .fin n m e => (if n then -1 else 1) * (m * 2 ^ e.toNat : Nat)
  | _ => 0

/-- One element after one chunk (R297). -/
def accStep (amode : Nat) (a : BitVec 96) (S sx sy : Val) : BitVec 96 :=
  if S.isZero then a
  else if amode = 0 then
    let v := (S.mul sx).mul sy
    if v.isZero then a else BitVec.ofNat 96 (fmtA96.rnd (sumVals 0 [fmtA96.val a.toNat, v]) 0 false 0).bits
  else if amode = 1 then BitVec.ofInt 96 (a.toInt + S.toInt)
  else BitVec.ofInt 96 (clamp (a.toInt + S.toInt) (-(2 ^ 95)) (2 ^ 95 - 1))

/-- The columns of chunk `c` whose terms the instruction names. -/
def MmaOp.columns (o : MmaOp) (x y : Tile) (c : Nat) : List Nat :=
  let step := fwStep o.fmt
  ((List.range step).map (· + c * step)).filter fun kk => !o.maps ||
    ((!fwXbm o.fmt || x.column kk) && (!fwYbm o.fmt || y.column kk))

/-- Chunk `c` of an instruction: every element of the accumulator takes its step. -/
def Mtx.chunk (m : Mtx) (o : MmaOp) (c : Nat) : Mtx :=
  let x := m.tile o.x
  let y := m.tile o.y
  let a := m.acc o.a
  let ks := o.columns x y c
  let bx := bookOf o.books (fwXcb o.fmt)
  let yb := bookOf o.books (fwYcb o.fmt)
  let blk := fwSblk o.fmt
  let step := fwStep o.fmt
  let els := (List.range (accRows a.ctl)).foldl (fun t r =>
    let xs := ks.map (x.logical bx r)
    (List.range (accCols a.ctl)).foldl (fun t n =>
      let e := 32 * r + n
      Tab.set 0 t e (accStep (fwAmode o.fmt) (Tab.get 0 t e) (termSum xs (ks.map (y.logical yb n)))
        (x.scale blk step r c) (y.scale blk step n c))) t) a.els
  (m.setAcc o.a { a with els := els })

/-- The shape checks of R295, in order. -/
def mmaCause (form : Nat) (fw : Word) (x y : Tile) (a : Accum) : Option Nat :=
  let xw := x.ctl
  let yw := y.ctl
  if !(tileValid xw && tileValid yw && accValid a.ctl) then some 2
  else if ctlRows xw ≠ accRows a.ctl then some 3
  else if logicalK xw ≠ ctlCols yw then some 4
  else if ctlRows yw ≠ accCols a.ctl then some 5
  else if logicalK xw % fwStep fw ≠ 0 then some 6
  else if ctlFmt xw ≠ fwX fw ∨ ctlFmt yw ≠ fwY fw then some 7
  else if ctlForm yw = 2 ∨ (form ≠ 2 ∧ ctlForm xw = 2) ∨
    (form = 1 ∧ ((fwXbm fw ∧ ctlForm xw ≠ 1) ∨ (fwYbm fw ∧ ctlForm yw ≠ 1))) then some 8
  else if ctlForm xw = 2 ∧ x.idx.isNone then some 12
  else if fwSblk fw ≠ 0 ∧ logicalK xw % fwSblk fw ≠ 0 then some 10
  else none

/-- `MMA` (form 0), `MMAS` (1), `MMANM` (2). -/
def mma (k : SeqIssue) (form a x y : Nat) : M Unit := do
  let fw ← k.format
  match mmaCause form fw (k.m.tile x) (k.m.tile y) (k.m.acc a) with
  | some c => k.shape c
  | none => pure ()
  if (k.m.tile x).reserved || (k.m.tile y).reserved then
    update (·.modBlock k.b fun z => { z with mstat := z.mstat ||| 1 })
  k.start [8 + a] (some { maps := form == 1, a := a, x := x, y := y, fmt := fw, books := k.m.books })

/-- The next step of an operation of the stream: a chunk of the oldest instruction of the array, or its completion. -/
def Mtx.complete (m : Mtx) (id : Nat) : Option Mtx :=
  match m.ops.find? (·.id == id) with
  | none => none
  | some o =>
    let gone : Mtx := { m with ops := m.ops.filter (·.id != id) }
    match o.mma with
    | none => some gone
    | some a =>
      if m.ops.any fun p => p.mma.isSome && decide (p.id < id) then none
      else
        let m' := m.chunk a m.qstep
        if (m.qstep + 1) * fwStep a.fmt ≥ logicalK (m.tile a.x).ctl
        then some { m' with qstep := 0, ops := m.ops.filter (·.id != id) }
        else some { m' with qstep := m.qstep + 1 }

/-- Every operation left by an earlier program completes. -/
def Mtx.drain : Nat → Mtx → Mtx
  | 0, m => m
  | n + 1, m => match m.ops with
    | [] => m
    | o :: _ => match m.complete o.id with
      | some m' => Mtx.drain n m'
      | none => m

/-! ## MDECOMP (R301) -/

/-- The order of magnitudes: NaN counts as largest. -/
def Val.above (x y : Val) : Bool :=
  match x, y with
  | .nan, .nan => false
  | .nan, _ => true
  | _, .nan => false
  | .inf _, .inf _ => false
  | .inf _, _ => true
  | _, .inf _ => false
  | .fin _ m e, .fin _ n g => (Val.fin false n g).lt (.fin false m e)

def Val.abs : Val → Val
  | .fin _ m e => .fin false m e
  | .inf _ => .inf false
  | .nan => .nan

/-- The two columns of a group that are kept, ascending, and the others that are nonzero. -/
def keepTwo (vs : List Val) : List Nat × List Nat :=
  let z := Val.fin false 0 0
  let nz := (List.range 4).filter fun i => !(vs.getD i z).isZero
  let order := sortBy (fun i j => (vs.getD i z).above (vs.getD j z)) nz
  let keep := order.take 2
  let pad := ((List.range 4).filter fun i => !nz.contains i).take (2 - keep.length)
  ((List.range 4).filter fun i => keep.contains i || pad.contains i, (List.range 4).filter fun i => (order.drop 2).contains i)

/-- What a decomposition leaves. -/
structure Decomp where
  tile : Tile
  drop : Option Nat := none
  undec : Bool := false
  deriving DecidableEq, Repr

def decompose (x : Tile) (beta : Val) : Decomp :=
  let w := x.ctl
  let cols := ctlCols w
  let rows := ctlRows w
  let wd := ctlWidth w
  let f := ctlFmt w
  let value (e : Nat) : Val := (valOf f e false []).1
  let groups := (List.range rows).flatMap fun m => (List.range (cols / 4)).map fun g => (m, g)
  let picks := groups.map fun (m, g) =>
    let es := (List.range 4).map fun i => x.elem (m * cols + 4 * g + i)
    let (keep, rest) := keepTwo (es.map value)
    (keep.map (fun i => (i, if (value (es.getD i 0)).isZero then 0 else es.getD i 0)),
     rest.map (fun i => (m, 4 * g + i, es.getD i 0)))
  let stored := picks.flatMap (·.1)
  let res := picks.flatMap (·.2)
  let all := (List.range (rows * cols)).map fun e => (value (x.elem e)).abs
  let rv := res.map fun r => (value r.2.2).abs
  let R := sumVals 0 rv
  let T := sumVals 0 all
  let positive := match beta with | .fin neg m _ => !neg && m != 0 | _ => false
  let drop := !res.isEmpty && rv.all (fun v => !v.isNan && !v.isInf) && positive && !(all.any Val.isNan) && !((beta.mul T).lt R)
  let pack (xs : List Nat) (n : Nat) : Nat := (indexed xs).foldl (fun a (i, v) => a + v * 2 ^ (i * n)) 0
  if drop || decide (res.length ≤ 64) then
    { tile := { ctl := BitVec.ofNat 32 (2 * 2 ^ 30 + bits w.toNat 29 24 * 2 ^ 24 + cols / 2 * 65536 + rows)
                data := BitVec.ofNat 32768 (pack (stored.map (·.2)) wd)
                idx := some (BitVec.ofNat 16384 (pack (stored.map (·.1)) 2))
                res := if drop then [] else res, scales := x.scales }
      drop := if drop then some (fmtBf16.rnd R 3 false 0).bits else none }
  else { tile := { ctl := w &&& 0x3FFFFFFF, data := x.data, scales := x.scales }, undec := true }

/-- `MDECOMP`. -/
def mdecomp (k : SeqIssue) (d x q : Nat) : M Unit := do
  let _ ← k.format
  let t := k.m.tile x
  let w := t.ctl
  if !tileValid w || ctlForm w > 1 || ctlFmt w == 8 || ctlCols w % 4 != 0 || ctlCols w < 16 then k.shape 11
  k.hold d
  let r := decompose t (fmtS24.val ((k.m.qr q).toNat % 2 ^ 24))
  let inv : Word := if t.reserved then 1 else 0
  k.mod fun m => m.setTile d r.tile
  update (·.modBlock k.b fun z =>
    let top := z.mstat.toNat / 65536
    let low := z.mstat.toNat % 65536
    let st := match r.drop with
      | some v => BitVec.ofNat 32 (max v top * 65536 + low) ||| 2
      | none => if r.undec then z.mstat ||| 4 else z.mstat
    { z with mstat := st ||| inv })
  k.start [d] none

/-! ## Control, barriers, rings and the end (R287, R289, R302-R304) -/

/-- `MLOOP`. -/
def mloop (k : SeqIssue) (c : Nat) (o : BOff) : M Unit := do
  let v := k.m.qr c - 1
  k.mod fun m => m.setQ c v
  if v ≠ 0 then
    let d : Int := match o with | .near x => x.toInt | .far w => w.toInt
    let target := wrapN ((k.cl.pc : Int) + 4 * d) 64
    k.mod fun m => { m with clause := m.clause.map fun cl => { cl with moves := [⟨0, target, 0⟩] } }

/-- The sequencer waits for its operation at the barrier unit. -/
def SeqIssue.toUnit (k : SeqIssue) (n : Nat) (o : BarOp) : M Unit := do
  update fun s => s.modBlock k.b fun x => x.sendBar s.tick 1 o
  k.mod fun m => { m with stall := some (.unit n) }

/-- `MAWAIT`: the slot is acquired as `RAWAIT` acquires it. -/
def mawait (k : SeqIssue) (d h : Nat) : M Unit := do
  match ← ringAcquire k.b (k.m.qr h).toNat true with
  | none => stallM
  | some o => k.mod fun m => m.setQ d (BitVec.ofNat 32 o)
  k.start [16 + d] none

/-- What a job that the sequencer starts captures: the snapshot of its program (10 R246). -/
def SeqIssue.snap (k : SeqIssue) : Snap := { fmt := k.m.fmt, fmode := k.m.fmode, books := k.m.books }

/-- `MSTAMP`. -/
def mstamp (k : SeqIssue) (n e : Nat) : M Unit := do
  let s ← get
  if e = 6 then set (s.stampRetire k.b n false k.snap none).2
  else set (s.modBlock k.b fun x => x.stampEvent n e k.tick)

/-- `MEND`: after every earlier instruction. -/
def mend (k : SeqIssue) : M Unit :=
  if k.m.ops.isEmpty then update (·.endProgram k.b) else stallM

end Sys2Proof.Machine
end

