-- ==== Sys2Proof/Machine/ClauseIssue.lean ====
section
/-! DEFINITION. Starting a clause: the entry that ranks first, the wait mask, the decode checks in their order, the
guard (02 R34-R43, 03 R75); delivering a delayed trap. -/
namespace Sys2Proof.Machine
open Sys2Proof

/-- The decode check of one word with the words after it (R43): `none` when it passes. -/
def checkWord (cls setA regs : Nat) (w : Word) (rest : List Word) : Option TrapCode :=
  match infoWord cls w (rest.headD 0) with
  | none => some .illegal
  | some i =>
    if !i.shape.reqs.all (Req.inWindow regs) then some .regwin
    else
      let lit := bit w.toNat 31
      if lit && rest.isEmpty then some .clause
      else if i.ends && decide (rest.length > b2n lit) then some .clause
      else if i.track == .a && setA == 15 then some .clause
      else none

/-- The checks of a clause's words in order: the failing word's index and trap (R43). -/
def checkWords : Nat → Nat → Nat → Nat → Nat → List Word → Option (Nat × TrapCode)
  | 0, _, _, _, _, _ => none
  | _ + 1, _, _, _, _, [] => none
  | n + 1, i, cls, setA, regs, w :: r =>
    match checkWord cls setA regs w r with
    | some c => some (i, c)
    | none => if bit w.toNat 31 then checkWords n (i + 2) cls setA regs r.tail
        else checkWords n (i + 1) cls setA regs r

/-- The header's checks (R36, R43), for a team. -/
def checkHeader (h : Word) : Option TrapCode :=
  let bad (f : Nat) : Bool := decide (12 ≤ f) && decide (f ≤ 14)
  if hdrClass h = 3 then some .illegal
  else if bad (hdrSetA h) || bad (hdrSetB h) then some .clause
  else if !hdrG h && hdrGuard h != 0 then some .clause
  else none

/-- A team that may issue: not retired, halted, stalled, or inside a clause. -/
def Team.idle (m : Team) : Bool := !m.done && !m.halted && m.stall.isNone && m.clause.isNone

/-- Team `t` of the block may issue: the block is resident, not killed and not being saved, and the team does not wait for it to be
saved on a page fault (13 R350: the other teams run on). -/
def Block.runs (x : Block) (t : Nat) : Bool := x.killed.isNone && x.saved.isNone && x.saving.isNone &&
  !x.faulted.contains t

/-- A `RINVOKE.t` is outstanding: its `REFUSED` comes before the team's next instruction (13 R352). -/
def Team.awaits (m : Team) : Bool := m.ops.any fun o => match o.kind with
  | .task (.invoke _ _ t ..) => t
  | _ => false

/-! ## Which team issues (01 R15) -/

/-- What a team waits for besides its clauses: the status of an invocation, the abort of a transaction that is overdue. -/
def State.heldUp (s : State) (b t : Nat) : Bool := (s.team b t).awaits || (s.team b t).txOverdue s.tick

/-- Nothing but its rank keeps team `t` from starting its next clause. -/
def State.canStart (s : State) (b t : Nat) : Bool :=
  let x := s.block b
  let m := s.team b t
  m.idle && x.runs t && !s.heldUp b t && (match issueEntry m.frontier with
    | none => false
    | some e => match (s.fetchWord x.core x.asid e.pc).1 with
      | .ok h => m.waitClear (hdrWait h)
      | _ => true)

/-- Nothing but its rank keeps team `t` from the next word of its clause; a team that found its instruction held up is ready
again at its next try (log 97). -/
def State.canGoOn (s : State) (b t : Nat) : Bool :=
  let m := s.team b t
  (s.block b).runs t && !m.done && !m.halted && m.stall.isNone && !s.heldUp b t && (match m.clause with
    | none => false
    | some cl => match infoWord cl.cls (cl.words.headD 0) (cl.words.tail.headD 0) with
      | some i => m.checkTags i != .wait
      | none => true)

/-- A ready team. -/
def State.teamReady (s : State) (b t : Nat) : Bool := s.canStart b t || s.canGoOn b t

/-- Team `m` of block `x` outranks team `m'` of block `x'`: frame-critical, then the longest wait since its last issue, then the
lowest team slot. -/
def outranks (x : Block) (m : Team) (x' : Block) (m' : Team) : Bool :=
  if x.frameCrit != x'.frameCrit then x.frameCrit
  else decide (m.lastIssue < m'.lastIssue) || (m.lastIssue == m'.lastIssue && decide (m.slot < m'.slot))

/-- The teams that share team `t`'s issue slot: those of its core whose team slots are the same mod 4. -/
def State.rivals (s : State) (b t : Nat) : List (Nat × Nat) :=
  let m := s.team b t
  s.blocks.flatMap fun (b', x) => if x.core != (s.block b).core || x.saved.isSome then [] else
    (x.teams.zipIdx.filter fun e => e.1.slot % 4 == m.slot % 4 && (b' != b || e.2 != t)).map fun e => (b', e.2)

/-- No ready team of the same issue slot outranks team `t`. -/
def State.ranksFirst (s : State) (b t : Nat) : Bool := (s.rivals b t).all fun (b', t') =>
  !(outranks (s.block b') (s.team b' t') (s.block b) (s.team b t) && s.teamReady b' t')

/-- The team's next delayed trap is taken (07 R196, 08 R218, 13 R352); `REFUSED` does not count as delayed (R412). -/
def State.deliver (s : State) (b t : Nat) (cl : Clause) (d : Delayed) : State :=
  (s.modTeam b t fun m => { m with delayed := m.delayed.tail, stall := none }).takeTrap b t cl
    { code := d.code, pc := d.pc, addr := d.addr, resume := cl.pc, delayed := d.code != .refused, mstream := d.mstream }

/-- The clause that an entry would start, as far as a trap at its address needs it. -/
def Entry.bare (e : Entry) : Clause :=
  { addr := e.pc, body := e.pc, cls := 0, setA := 15, setB := 15, mask := e.mask, prio := e.prio, act := e.mask, pc := e.pc
    words := [] }

/-- A trap at a clause's start: lanes of it inside a transaction abort with its code instead (09 R234), and the trap is taken by
what is left of the entry at its next start. -/
def State.startTrap (s : State) (b t : Nat) (cl : Clause) (i : TrapInfo) : State :=
  let hit := cl.mask &&& (s.team b t).openTx
  if hit = 0 then s.takeTrap b t cl i else s.modTeam b t (·.abortLanes hit 4 i.code.num)

/-- A clause that cannot be fetched traps at its own address (07 R193, R196). -/
def fetchTrap (b t : Nat) (e : Entry) (code : TrapCode) (va : Nat) (s : State) : State :=
  s.startTrap b t e.bare { code := code, pc := e.pc, addr := va, resume := e.pc }

/-- The entry of a handler whose vector was not read at trap entry takes the marker's priority (16 R413). -/
def Team.firstEntry (m : Team) (f : Fetched) (e : Entry) : Entry :=
  match f.marker with
  | some w => if m.vecUnread then { e with prio := markerPrio w } else e
  | none => e

/-- One frontier entry of team `t` starts its clause, at the entry's own priority (03 R74, R81). A clause that fails a decode check
has waited on its mask, as the clause's wait is tested before its words, clears no tag and emits no record: R43 does not say
(log 98). -/
def issueClause (b t : Nat) : M Unit := do
  let s ← get
  let x := s.block b
  let m := s.team b t
  need (m.idle && x.runs t && !s.heldUp b t && s.ranksFirst b t) .notEnabled
  match issueEntry m.frontier with
  | none => stop (.fault .notEnabled)
  | some e =>
    match s.fetchClause x.core x.asid e.pc with
    | (.fault va, s) => match m.delayed with
      | d :: _ => set (s.deliver b t e.bare d)
      | [] => set (s.pageFault b { asid := x.asid, va := va / 4096 * 4096, kind := 2, readOnly := false, who := .block b, t := t, pc := e.pc, addr := va })
    | (.fatal va, s) => set (fetchTrap b t e .pagefatal va s)
    | (.prot va, s) => set (fetchTrap b t e .prot va s)
    | (.ok f, s) => do
      need (m.waitClear (hdrWait f.header)) .notEnabled
      if m.vecUnread && f.marker.isNone then set (s.killBlock b m.trappc.toNat) else
      let e := m.firstEntry f e
      let guard : Half := if hdrG f.header then m.p (hdrGuard f.header) else 0xFFFF
      let body := e.pc + 4 + (if hdrM f.header then 4 else 0)
      let cl : Clause := { addr := e.pc, body := body, cls := hdrClass f.header,
                           setA := hdrSetA f.header, setB := hdrSetB f.header, mask := e.mask, prio := e.prio,
                           act := e.mask &&& guard, pc := body, words := f.words }
      match checkHeader f.header with
      | some c => set (s.startTrap b t cl { code := c, pc := e.pc, addr := 0, resume := e.pc })
      | none =>
        match checkWords 16 0 cl.cls cl.setA x.regs f.words with
        | some (i, c) =>
          let at' := body + 4 * i
          set (s.startTrap b t { cl with pc := at', words := f.words.drop i } { code := c, pc := at', addr := 0, resume := at' })
        | none => do
          let s := s.modTeam b t fun m => { (m.clearTags (hdrWait f.header)) with
            clause := some cl, frontier := if m.vecUnread then [e] else m.frontier, vecUnread := false }
          let s := match f.marker with
            | some w => if markerTrace w then s.trace x.suite 0 (markerId w) 0 m.slot x.core else s
            | none => s
          if f.words.isEmpty then set (s.endClause b t cl)
          else set { s with focus := some (.team b t) }

/-- `DELAYED_TRAP_DELIVERY`: before the team's next instruction. -/
def deliverDelayed (b t : Nat) : M Unit := do
  let s ← get
  let m := s.team b t
  match m.delayed, m.clause with
  | d :: _, some cl => do
    need (!m.halted && (s.block b).runs t) .notEnabled
    set (s.deliver b t cl d)
  | _, _ => stop (.fault .notEnabled)

/-! ## The sequencer's clauses (11 R284) -/

/-- The program runs, and nothing keeps it from its next clause. -/
def Block.seqIdle (x : Block) : Bool :=
  bit x.mtx.qstat.toNat 31 && x.mtx.clause.isNone && !x.mtx.held && x.mtx.stall.isNone && x.killed.isNone && x.saved.isNone &&
    x.saving.isNone

/-- Every flag of a wait mask is clear. -/
def Mtx.waitClear (m : Mtx) (mask : Nat) : Bool := m.ops.all fun o => match o.flag with | some f => !bit mask f | none => true
def Mtx.clearTags (m : Mtx) (mask : Nat) : Mtx := { m with tags := m.tags.filter fun e => !bit mask e.2.1 }

/-- The header's checks for a clause of the stream. -/
def checkSeqHeader (h : Word) : Option TrapCode :=
  let bad (f : Nat) : Bool := decide (12 ≤ f) && decide (f ≤ 14)
  if hdrClass h ≠ 3 then some .illegal
  else if bad (hdrSetA h) || bad (hdrSetB h) || hdrG h || hdrGuard h != 0 then some .clause
  else none

/-- A fetch of the sequencer waits for its page (10 R247). -/
def State.holdSeq (s : State) (b va : Nat) : State :=
  let s := s.modMtx b fun m => { m with held := true }
  { s with faults := s.faults ++ [{ asid := (s.block b).asid, va := va / 4096 * 4096, kind := 2, readOnly := false, who := .seq b, addr := va }] }

/-- The sequencer starts its next clause. -/
def issueSeqClause (b : Nat) : M Unit := do
  let s ← get
  let x := s.block b
  let pc := x.mtx.pc
  need x.seqIdle .notEnabled
  match s.fetchClause x.core x.asid pc with
  | (.fault va, s) => set (s.holdSeq b va)
  | (.fatal va, s) => set (s.seqTrap b .pagefatal pc va)
  | (.prot va, s) => set (s.seqTrap b .prot pc va)
  | (.ok f, s) => do
    need (x.mtx.waitClear (hdrWait f.header)) .notEnabled
    let body := pc + 4 + (if hdrM f.header then 4 else 0)
    let cl : Clause := { addr := pc, body := body, cls := 3, setA := hdrSetA f.header, setB := hdrSetB f.header,
                         mask := 1, prio := 0, act := 1, pc := body, words := f.words }
    match checkSeqHeader f.header with
    | some c => set (s.seqTrap b c pc 0)
    | none =>
      match checkWords 16 0 3 cl.setA x.regs f.words with
      | some (i, c) => set (s.seqTrap b c (body + 4 * i) 0)
      | none => do
        let s := s.modMtx b fun m => m.clearTags (hdrWait f.header)
        let s := match f.marker with
          | some w => if markerTrace w then s.trace x.suite 0 (markerId w) 0 255 x.core else s
          | none => s
        if f.words.isEmpty then set (s.modMtx b fun m => { m with pc := cl.pc })
        else set { (s.modMtx b fun m => { m with clause := some cl }) with focus := some (.seq b) }

/-- `CLAUSE_ISSUE`. -/
def issueAgent : Agent → M Unit
  | .team b t => issueClause b t
  | .seq b => issueSeqClause b

end Sys2Proof.Machine
end

