-- ==== Sys2Proof/Machine/Barriers.lean ====
section
/-! DEFINITION. The barrier unit of a block (03 R92-R99; 10 R251; 11 R302): operations in the order they reach it, one
completion after each, and what they do to the teams and the sequencer that wait. -/
namespace Sys2Proof.Machine
open Sys2Proof

def Block.bar (x : Block) (n : Nat) : Barrier := Tab.get {} x.barriers n
def Block.setBar (x : Block) (n : Nat) (w : Barrier) : Block := { x with barriers := Tab.set {} x.barriers n w }
def State.modBar (s : State) (b n : Nat) (f : Barrier → Barrier) : State := s.modBlock b fun x => x.setBar n (f (x.bar n))

/-- The barrier word (R92). -/
def Barrier.word (w : Barrier) : Nat := b2n w.valid * 2 ^ 31 + b2n w.phase * 2 ^ 30 + w.expect * 65536 + w.arrived

/-- Arrivals are added, and stop at 0xFFFF. -/
def Barrier.add (w : Barrier) (n : Nat) : Barrier := { w with arrived := min 0xFFFF (w.arrived + n) }

/-- A mask with bit `n` set or cleared. -/
def setBit16 (m : Half) (n : Nat) (v : Bool) : Half := if v then m ||| laneMask n else m &&& ~~~laneMask n

/-- An arrival by the team: `armed`, and `seen` the phase before it (R93). -/
def Team.arm (m : Team) (n : Nat) (phase : Bool) : Team :=
  { m with armed := setBit16 m.armed n true, seen := setBit16 m.seen n phase }
/-- The team's accesses before an arrival come before what follows the phase it arrives in (11 R287). -/
def Team.arrives (m : Team) : Team := { m with barSince := m.nextOp }
def Team.disarm (m : Team) (n : Nat) : Team := { m with armed := setBit16 m.armed n false }
def Mtx.arm (m : Mtx) (n : Nat) (phase : Bool) : Mtx :=
  { m with armed := setBit16 m.armed n true, seen := setBit16 m.seen n phase }
def Mtx.disarm (m : Mtx) (n : Nat) : Mtx := { m with armed := setBit16 m.armed n false }

def Team.waitsOn (m : Team) (n : Nat) : Bool := m.stall == some (.barrier n)
def Block.waiters (x : Block) (n : Nat) : List Nat := (List.range x.teams.length).filter fun t => (x.team t).waitsOn n
def Mtx.waitsOn (m : Mtx) (n : Nat) : Bool := m.stall == some (.barrier n)

/-- The team's barrier instruction is done. -/
def State.barDone (s : State) (b t : Nat) : State := (s.modTeam b t fun m => { m with stall := none, arrivedAt := none }).finish b t
/-- The team's barrier instruction traps. -/
def State.barTrap (s : State) (b t : Nat) (c : TrapCode) : State :=
  match (s.team b t).clause with
  | none => s
  | some cl => (s.modTeam b t fun m => { m with stall := none }).takeTrap b t cl { code := c, pc := cl.pc, addr := 0, resume := cl.pc }
def State.seqDone (s : State) (b : Nat) : State := (s.modMtx b fun m => { m with stall := none, waitFmt := false }).seqFinish b
def State.seqBarTrap (s : State) (b : Nat) : State :=
  match (s.block b).mtx.clause with
  | none => s
  | some cl => s.seqTrap b .bargone cl.pc 0

/-- `MFMT` takes the value of the round that the phase closed, with a new snapshot of the codebooks (R302, R283). -/
def State.takeVote (s : State) (b n : Nat) : State :=
  let x := s.block b
  match (Tab.get {} x.votes n).last with
  | some v => s.modMtx b fun m => { m with fmt := v, books := x.codebooks }
  | none => s

/-- The sequencer's wait is over: what it reads next comes after the teams' accesses before their arrivals
(11 R287). -/
def State.seqPass (s : State) (b n : Nat) (fmt : Bool) : State :=
  let s := s.modMtx b fun m => { m with since := (s.block b).teams.map (·.barSince) }
  (if fmt then s.takeVote b n else s).seqDone b

/-- A post of a format word (10 R251): the round's first fixes its value. -/
def State.postVote (s : State) (b t n : Nat) (vs : List Word) : State :=
  let x := s.block b
  let v := (Tab.get {} x.votes n).now.getD (vs.headD 0)
  let s := if (Tab.get {} x.votes n).now.isNone then s.modBlock b fun x =>
      { x with votes := Tab.set {} x.votes n { (Tab.get {} x.votes n) with now := some v }, fmtWord := v } else s
  if vs.any (· != v) then s.barTrap b t .fmtdiv
  else ((s.modTeam b t fun m => (m.arm n (x.bar n).phase).arrives).modBar b n (·.add 1)).barDone b t

/-- `BINVAL` (R98); the sequencer's `armed` bit is cleared as a team's is (log 100). -/
def State.invalBar (s : State) (b n : Nat) : State :=
  if !((s.block b).bar n).valid then s
  else
    let ws := (s.block b).waiters n
    let seq := (s.block b).mtx.waitsOn n
    let s := s.modBlock b fun x => { (x.setBar n { (x.bar n) with valid := false, expect := 0, arrived := 0 }) with
      teams := x.teams.map (·.disarm n)
      mtx := x.mtx.disarm n }
    let s := ws.foldl (fun s t => s.barTrap b t .bargone) s
    if seq then s.seqBarTrap b else s

/-- A peer's arrival is applied or discarded (R104): its instruction can complete. -/
def State.peerDone (s : State) (b t op : Nat) : State := s.doneEl b t op 0 0

/-- One operation at the unit. `BINIT` finds a waiter in a matrix sequencer that waits as in a team (log 100). -/
def State.applyBar (s : State) (b : Nat) (o : BarOp) : State :=
  let w (n : Nat) : Barrier := (s.block b).bar n
  match o with
  | .init t n count =>
    if !((s.block b).waiters n).isEmpty || (s.block b).mtx.waitsOn n then s.barTrap b t .barbusy
    else (s.modBar b n fun w => { w with valid := true, expect := count, arrived := 0 }).barDone b t
  | .arrive t n count wait =>
    if !(w n).valid then s.barTrap b t .bargone
    else
      let s := (s.modTeam b t fun m => (m.arm n (w n).phase).arrives).modBar b n (·.add count)
      if wait then s.modTeam b t fun m => { m with stall := some (.barrier n) } else s.barDone b t
  | .wait t n =>
    if !(w n).valid then s.barTrap b t .bargone
    else
      let m := s.team b t
      let m := if laneIn m.armed n then m else m.arm n (w n).phase
      if laneIn m.seen n == (w n).phase then s.modTeam b t fun _ => { m with stall := some (.barrier n) }
      else (s.modTeam b t fun _ => m.disarm n).barDone b t
  | .inval t n => (s.invalBar b n).barDone b t
  | .test t n d =>
    let m := s.team b t
    let a := laneIn m.armed n
    let pass_ := a && laneIn m.seen n != (w n).phase
    let v := BitVec.ofNat 32 ((w n).word + b2n a * 2 ^ 29 + b2n pass_ * 2 ^ 28)
    (s.modTeam b t fun m => { m with sregs := Tab.set 0 m.sregs (d - 96) v }).barDone b t
  | .post t n vs => if !(w n).valid then s.barTrap b t .bargone else s.postVote b t n vs
  | .seqArrive n =>
    let s := if (w n).valid then (s.modMtx b (·.arm n (w n).phase)).modBar b n (·.add 1) else s
    s.seqDone b
  | .seqWait n fmt =>
    if !(w n).valid then s.seqBarTrap b
    else
      let m := (s.block b).mtx
      let m := if laneIn m.armed n then m else m.arm n (w n).phase
      if laneIn m.seen n == (w n).phase then s.modMtx b fun _ => { m with stall := some (.barrier n), waitFmt := fmt }
      else (s.modMtx b fun _ => m.disarm n).seqPass b n fmt
  | .jobArrive n j => if (w n).valid then (s.modBar b n (·.add 1)).finishJob j false else s.finishJob j true
  | .peer n _ b' t' op =>
    let s := s.meetClocks (s.block b).core (s.block b').core
    (if (w n).valid then s.modBar b n (·.add 1) else s).peerDone b' t' op

/-- A barrier whose phase completes (R92). -/
def Barrier.complete (w : Barrier) : Bool := w.valid && decide (w.arrived ≥ w.expect)
def Block.owesCompletion (x : Block) : Bool := x.barriers.any fun e => e.2.complete

/-- A peer's arrival at a block that is saved (R104): 1 is added to `arrived` of the barrier word in its frame, or the
arrival is discarded. -/
def State.frameArrive (s : State) (b n addr : Nat) : State :=
  let x := s.block b
  match s.engRead x.core x.frameAsid (addr + 76) 4 with
  | .ok (.ok o, s) =>
    let at_ := addr + field o 0 4 + 4 * n
    match s.engRead x.core x.frameAsid at_ 4 with
    | .ok (.ok w, s) =>
      if !bit (field w 0 4) 31 then s
      else match s.engWrite x.core x.frameAsid at_ (leBytes 4 (field w 0 4 / 65536 * 65536 + min 0xFFFF (field w 0 4 % 65536 + 1))) with
        | .ok s => s.modBar b n fun w => if w.valid then w.add 1 else w
        | .error _ => s
    | _ => s
  | _ => s

/-- What is left of an operation at the unit of a killed block (16 R415): its jobs complete, peers' arrivals are
discarded. -/
def State.applyDead (s : State) (o : BarOp) : State :=
  match o with
  | .jobArrive _ j => s.finishJob j true
  | .peer _ _ b' t' op => s.peerDone b' t' op
  | _ => s

/-- The rank of an operation among those that reach the unit in one clock (R94): team instructions by issue slot, the sequencer,
completions in order of issue, peer arrivals by peer slot. -/
def Block.barRank (x : Block) : BarOp → Nat × Nat
  | .init t .. => (0, (x.team t).slot % 4)
  | .arrive t .. => (0, (x.team t).slot % 4)
  | .wait t _ => (0, (x.team t).slot % 4)
  | .inval t _ => (0, (x.team t).slot % 4)
  | .test t .. => (0, (x.team t).slot % 4)
  | .post t .. => (0, (x.team t).slot % 4)
  | .seqArrive _ => (1, 0)
  | .seqWait .. => (1, 0)
  | .jobArrive _ j => (2, j)
  | .peer _ slot .. => (3, slot)

/-- `p` is applied before `q`: it reaches the unit earlier, or ranks before it (R94; the unit's clock is the tick, log 101). -/
def Block.barBefore (x : Block) (p q : BarMsg) : Bool :=
  let r (m : BarMsg) := x.barRank m.op
  if p.due != q.due then decide (p.due < q.due)
  else decide ((r p).1 < (r q).1) || ((r p).1 == (r q).1 && decide ((r p).2 < (r q).2))

/-- The operation that the unit applies next, and the others. -/
def Block.nextBar (x : Block) : List BarMsg → Option (BarMsg × List BarMsg)
  | [] => none
  | p :: r => match x.nextBar r with
    | none => some (p, [])
    | some (q, rest) => some (if x.barBefore q p then (q, p :: rest) else (p, q :: rest))

/-- `BARRIER_OP_APPLY`: the next operation that has reached the unit; a completion due in the same clock comes before it. -/
def barrierApply (b : Nat) : M Unit := do
  let s ← get
  let x := s.block b
  match x.nextBar x.barOps with
  | none => stop (.fault .notEnabled)
  | some (m, r) => do
    need (decide (m.due ≤ s.tick)) .notEnabled
    match m.op, x.saved with
    | .peer n _ b' t' op, some addr =>
      set (((s.modBlock b fun x => { x with barOps := r }).frameArrive b n addr).peerDone b' t' op)
    | _, some _ => stop (.fault .notEnabled)
    | o, none => do
      need (x.killed.isSome || !(x.barOwed && x.owesCompletion)) .notEnabled
      let s' := s.modBlock b fun x => { x with barOps := r, barOwed := true }
      set (if x.killed.isSome then s'.applyDead o else s'.applyBar b o)

/-- One completion of a barrier: the phase flips, `expect` is subtracted, the vote round closes, the waiters go on. Where several
barriers of the block owe a completion, any one of them lets the unit's next operation go on (log 102). -/
def State.completeBar (s : State) (b n : Nat) : State :=
  let ws := (s.block b).waiters n
  let seq := (s.block b).mtx.waitsOn n
  let fmt := (s.block b).mtx.waitFmt
  let s := s.modBlock b fun x =>
    let w := x.bar n
    let v : Vote := Tab.get {} x.votes n
    { (x.setBar n { w with phase := !w.phase, arrived := w.arrived - w.expect }) with
      votes := Tab.set {} x.votes n { now := none, last := v.now }
      barOwed := false }
  let s := ws.foldl (fun s t => (s.modTeam b t (·.disarm n)).barDone b t) s
  if seq then (s.modMtx b (·.disarm n)).seqPass b n fmt else s

/-- `BARRIER_COMPLETION`. -/
def barrierCompletion (b n : Nat) : M Unit := do
  let s ← get
  let x := s.block b
  need (x.killed.isNone && x.saved.isNone && (x.bar n).complete) .notEnabled
  set (s.completeBar b n)

/-- `SLEEP_EXPIRE` (R91). -/
def sleepExpire (b t : Nat) : M Unit := do
  let s ← get
  match (s.team b t).stall with
  | some (.sleep d) => do
    need (decide (d ≤ s.tick)) .notEnabled
    set (s.modTeam b t fun m => { m with stall := none })
  | _ => stop (.fault .notEnabled)

end Sys2Proof.Machine
end

