-- ==== Sys2Proof/Machine/Near.lean ====
section
/-! DEFINITION. Near-memory jobs (12 R316-R329): selection, product-key lookup and its gradient, at the engines of a
room. A job reads unit by unit what it needs, then writes unit by unit. -/
namespace Sys2Proof.Machine
open Sys2Proof

/-- The ranking key of a binary32 pattern (R310). -/
def rkey (x : Word) : Word :=
  if (fmtF32.val x.toNat).isNan then 0
  else
    let x := if x = 0x80000000 then 0 else x
    if x.getLsbD 31 then ~~~x else x ^^^ 0x80000000

/-! ## Selection (R318-R321) -/

/-- An entry of a region: key, index, the room that selected it. -/
structure SelEntry where
  key : Nat
  index : Nat
  room : Nat
  deriving DecidableEq, Repr

def SelEntry.before (x y : SelEntry) : Bool :=
  decide (x.key > y.key) || (x.key == y.key && (decide (x.index < y.index) || (x.index == y.index && decide (x.room < y.room))))

/-- What a selection takes, the key of the k-th taken entry, and how many valid entries with that key are left out. -/
structure SelPart where
  taken : List SelEntry
  kth : Option Nat
  excl : Nat
  deriving DecidableEq, Repr

/-- R319; the sort keeps equal entries in their order of position. -/
def selectTop (es : List SelEntry) (k : Nat) : SelPart :=
  let sorted := sortBy SelEntry.before (es.filter (·.key != 0))
  let taken := sorted.take k
  let kth := if taken.length < k then none else (taken.getLast?).map (·.key)
  { taken := taken, kth := kth
    excl := match kth with
      | some t => ((sorted.drop k).filter (·.key == t)).length
      | none => 0 }

/-- The entries of bytes of a region. -/
def selEntries (bytes : List Byte) (room n : Nat) : List SelEntry :=
  (List.range n).map fun i => ⟨field bytes (8 * i) 4, field bytes (8 * i + 4) 4, room⟩

/-- The merge of the rooms' partial results (R321). -/
def selMerge (parts : List SelPart) (k : Nat) : SelPart × Bool :=
  let all := parts.flatMap (·.taken)
  let kept := all.filter fun e => !(all.any fun f => f.index == e.index && decide (f.room < e.room))
  let m := selectTop kept k
  let more := match m.kth with
    | some t => ((parts.filter (·.kth == some t)).map (·.excl)).sum
    | none => 0
  ({ m with excl := m.excl + more }, decide (kept.length < all.length))

/-- The output (R320). -/
def selBytes (m : SelPart) (dup : Bool) (k : Nat) : List Byte :=
  leBytes 4 m.taken.length ++ leBytes 4 m.excl ++ leBytes 4 (b2n (m.excl != 0) + 2 * b2n dup) ++ leBytes 4 0 ++
    (List.range k).flatMap fun i => match m.taken[i]? with
      | some e => leBytes 4 e.key ++ leBytes 4 e.index
      | none => leBytes 4 0 ++ leBytes 4 0xFFFFFFFF

/-- The first field of a selection card that fails (R318). -/
def State.selBad (s : State) (suite : Nat) (r : List Byte) : Option Nat :=
  let rooms := field r 102 1
  if field r 80 8 ≥ 2 ^ 56 ∨ field r 80 8 % 8 ≠ 0 then some 80
  else if field r 88 8 ≥ 2 ^ 56 ∨ field r 88 8 % 32 ≠ 0 then some 88
  else if field r 100 2 = 0 ∨ field r 100 2 > 1024 then some 100
  else if (List.range 8).any fun i => bit rooms i && s.suiteOfRoom i != suite then some 102
  else none

/-- The rooms that take part. -/
def selRooms (own : Nat) (r : List Byte) : List Nat :=
  if field r 102 1 = 0 then [own] else (List.range 8).filter (bit (field r 102 1))

/-- The rooms of a selection, each with the first and the end of the entries it selects from (R321). -/
def selShares (own : Nat) (r : List Byte) : List (Nat × Nat × Nat) :=
  let n := field r 96 4
  let rooms := selRooms own r
  let share := ceilDiv n rooms.length
  (indexed rooms).map fun (p, room) => (room, min n (p * share), min n ((p + 1) * share))

/-- What a selection reads, room by room. -/
def selPlan (own : Nat) (r : List Byte) : List (Nat × Nat × Nat) :=
  (selShares own r).map fun (room, lo, hi) => (room, field r 80 8 + 8 * lo, 8 * (hi - lo))

/-- The bytes a selection writes. -/
def selCompute (own : Nat) (r bytes : List Byte) : List Byte :=
  let k := field r 100 2
  let parts := (selShares own r).map fun (room, lo, hi) => selectTop (selEntries (bytes.drop (8 * lo)) room (hi - lo)) k
  let (m, dup) := match parts with
    | [m] => (m, false)
    | _ => selMerge parts k
  selBytes m dup k

/-! ## Product-key lookup (R322-R326) -/

/-- The fields of a lookup or gradient card. -/
structure PklCard where
  query : Nat
  keys : Nat
  values : Nat
  out : Nat
  nsub : Nat
  hdim : Nat
  k1 : Nat
  k : Nat
  row : Nat
  f32 : Bool
  nrows : Nat
  c : Nat
  deriving DecidableEq, Repr

def PklCard.of (r : List Byte) : PklCard :=
  { query := field r 80 8, keys := field r 88 8, values := field r 96 8, out := field r 104 8
    nsub := field r 112 2, hdim := field r 114 2, k1 := field r 116 1, k := field r 117 1
    row := bits (field r 118 2) 10 0, f32 := bit (field r 118 2) 15, nrows := field r 120 4, c := field r 124 4 }

def PklCard.esz (p : PklCard) : Nat := if p.f32 then 4 else 2

/-- The first field that fails (R322). -/
def pklBad (kind : Nat) (p : PklCard) : Option Nat :=
  let q := kind == 3
  let high (a : Nat) : Bool := decide (a ≥ 2 ^ 56)
  let c := fmtF32.val p.c
  let cBad := match c with | .fin neg m _ => neg || m == 0 | _ => true
  if high p.query || p.query % (if q then 2 else 4) != 0 then some 80
  else if q && (high p.keys || p.keys % 2 != 0) then some 88
  else if high p.values || p.values % p.esz != 0 then some 96
  else if high p.out || p.out % 32 != 0 then some 104
  else if p.nsub == 0 || p.nsub > 4096 then some 112
  else if q && (p.hdim == 0 || p.hdim > 256) then some 114
  else if q && (p.k1 == 0 || p.k1 > 64) then some 116
  else if p.k == 0 || p.k > 64 || (q && p.k > p.k1 * p.k1) then some 117
  else if p.row == 0 || p.row > 1024 || (!q && !p.f32) then some 118
  else if p.nrows == 0 || p.nrows > 2 ^ 24 then some 120
  else if q && cBad then some 124
  else none

/-- A binary32 result in the jobs' fixed mode (R317). -/
def rnF32 (v : Val) : Nat := (fmtF32.rnd v 0 false 0).bits
def vF32 (x : Nat) : Val := fmtF32.val x
/-- One step of an `FFMA` chain. -/
def fmaF32 (a b : Val) (acc : Nat) : Nat := rnF32 (sumVals 0 [a.mul b, vF32 acc])

/-- The first `n` of the scored items with a valid key, by key descending, then number ascending. -/
def topBy (items : List (Nat × Nat)) (n : Nat) : List (Nat × Nat) :=
  let key (x : Nat × Nat) : Nat := (rkey (BitVec.ofNat 32 x.2)).toNat
  (sortBy (fun x y => decide (key x > key y) || (key x == key y && decide (x.1 < y.1)))
    (items.filter fun x => key x != 0)).take n

/-- Elements of a table in bytes. -/
def elemsOf (f32 : Bool) (bytes : List Byte) (o n : Nat) : List Val :=
  (List.range n).map fun i => if f32 then vF32 (field bytes (o + 4 * i) 4) else fmtBf16.val (field bytes (o + 2 * i) 2)

/-- The scores of a half (R323). -/
def halfScores (q : List Val) (table : List Byte) (nsub hdim : Nat) : List (Nat × Nat) :=
  (List.range nsub).map fun i =>
    (i, (q.zip (elemsOf false table (2 * hdim * i) hdim)).foldl (fun acc p => fmaF32 p.1 p.2 acc) 0)

/-- The kept rows with their scores. -/
def pklKept (p : PklCard) (a b : List (Nat × Nat)) : List (Nat × Nat) :=
  let cand := (topBy a p.k1).flatMap fun x => (topBy b p.k1).filterMap fun y =>
    let r := x.1 * p.nsub + y.1
    if r < p.nrows then some (r, rnF32 (sumVals 0 [vF32 x.2, vF32 y.2])) else none
  topBy cand p.k

/-- The weights of the kept rows (R324). -/
def pklWeights (p : PklCard) (scores : List Nat) : List Nat :=
  let top := vF32 (scores.headD 0)
  let e := scores.map fun x =>
    let d := if (vF32 x).eqv top then Val.fin false 0 0 else vF32 (rnF32 (sumVals 0 [vF32 x, top.negate]))
    rnF32 (Val.exp2 (vF32 (rnF32 (d.mul (vF32 p.c)))))
  match e with
  | [] => []
  | e0 :: r =>
    let z := r.foldl (fun z x => rnF32 (sumVals 0 [vF32 z, vF32 x])) e0
    e.map fun x => rnF32 ((vF32 x).div (vF32 z))

/-- The rows of each room are summed by themselves, then the rooms' parts in ascending order. -/
def pklGather (p : PklCard) (n : Nat) (rows : List (Nat × Nat × List Val)) : List Nat :=
  let parts := (List.range n).filterMap fun room =>
    let mine := rows.filter fun x => x.1 % n == room
    if mine.isEmpty then none
    else some (mine.foldl (fun acc x => (acc.zip x.2.2).map fun y => fmaF32 (vF32 x.2.1) y.2 y.1) (fill p.row 0))
  match parts with
  | [] => fill p.row 0
  | o :: r => r.foldl (fun o q => (o.zip q).map fun y => rnF32 (sumVals 0 [vF32 y.1, vF32 y.2])) o

/-- Bytes of the query and of the two half tables, which a lookup reads first. -/
def PklCard.tables (p : PklCard) : Nat := 4 * p.hdim + 4 * p.nsub * p.hdim

/-- The rows that a lookup keeps, once it has read the query and the tables. -/
def PklCard.kept (p : PklCard) (bytes : List Byte) : List (Nat × Nat) :=
  let half := 2 * p.nsub * p.hdim
  let table := bytes.drop (4 * p.hdim)
  pklKept p (halfScores (elemsOf false bytes 0 p.hdim) (table.take half) p.nsub p.hdim)
    (halfScores (elemsOf false bytes (2 * p.hdim) p.hdim) (table.drop half) p.nsub p.hdim)

/-- What a lookup reads: in its own room the query and the tables, then each kept row in the room that holds it. -/
def pklPlan (own : Nat) (rooms : List Nat) (p : PklCard) (bytes : List Byte) : List (Nat × Nat × Nat) :=
  [(own, p.query, 4 * p.hdim), (own, p.keys, 4 * p.nsub * p.hdim)] ++
    (if bytes.length < p.tables then [] else (p.kept bytes).map fun (r, _) =>
      (rooms.getD (r % rooms.length) own, p.values + r * p.row * p.esz, p.row * p.esz))

/-- The bytes a lookup writes (R325). -/
def pklCompute (rooms : Nat) (p : PklCard) (bytes : List Byte) : List Byte :=
  let kept := p.kept bytes
  let w := pklWeights p (kept.map (·.2))
  let rows := (indexed (kept.zip w)).map fun (i, e) =>
    (e.1.1, e.2, elemsOf p.f32 bytes (p.tables + i * p.row * p.esz) p.row)
  let o := pklGather p rooms rows
  let pairs := (List.range 64).flatMap fun t =>
    if t < p.k then match kept[t]?, w[t]? with
      | some r, some v => leBytes 4 r.1 ++ leBytes 4 v
      | _, _ => leBytes 4 0xFFFFFFFF ++ leBytes 4 0
    else leBytes 8 0
  pairs ++ o.flatMap (leBytes 4)

/-- What a gradient reads: its pairs, then the gradient (R326). -/
def pklgPlan (own : Nat) (p : PklCard) : List (Nat × Nat × Nat) := [(own, p.out, 8 * p.k), (own, p.query, 4 * p.row)]

/-- The `i`-th add of a gradient: the address and what is added. -/
def pklgAdd (p : PklCard) (data : List Byte) (i : Nat) : Option (Nat × Nat) :=
  let rows := (List.range p.k).filter fun t => decide (field data (8 * t) 4 < p.nrows)
  match rows[i / p.row]? with
  | none => none
  | some t =>
    let e := i % p.row
    let r := field data (8 * t) 4
    some (p.values + 4 * (r * p.row + e),
      rnF32 ((vF32 (field data (8 * t + 4) 4)).mul (vF32 (field data (8 * p.k + 4 * e) 4))))

/-- One add at its home slice, as `RED.add.f32` is: never on a host page (09 R221). -/
def State.pklgUnit (s : State) (x : Job) (p : PklCard) (data : List Byte) : Except JobStop (Option (Nat × State)) :=
  match pklgAdd p data x.pos with
  | none => .ok none
  | some (a, v) =>
    if a + 4 > 2 ^ 56 then .error (.ends 2 0x07)
    else match s.translate x.core x.asid a .store with
    | (.ok pg, s) => match pg.place a with
      | .dev pa =>
        if s.poisoned (pa / 128 * 128) 128 then .error (.ends 3 0)
        else .ok (some (x.pos + 1, (s.joinClock x.core).agentWrite engineRank pa
          (leBytes 4 (AtomOp.addF.new (ofLe (s.devRead pa 4)) v 0)) x.asid))
      | _ => .error (.ends 2 0x07)
    | (r, _) => .error (Miss.jobStop ⟨r, x.asid, a, true⟩)

/-! ## The room's engines (R316) -/

/-- The footprint of a card of a near-memory job (R327). -/
def nearFoot (kind : Nat) (r : List Byte) : List Foot :=
  let rd (a n : Nat) : Foot := { lo := a, len := n, stash := false, rd := true, wr := false }
  let wr (a n : Nat) : Foot := { lo := a, len := n, stash := false, rd := false, wr := true }
  let p := PklCard.of r
  match kind with
  | 3 => [rd p.query (4 * p.hdim), rd p.keys (4 * p.nsub * p.hdim), rd p.values (p.nrows * p.row * p.esz),
          wr p.out (512 + 4 * p.row)]
  | 4 => [rd p.out (8 * p.k), rd p.query (4 * p.row), wr p.values (p.nrows * p.row * p.esz)]
  | _ => [rd (field r 80 8) (8 * field r 96 4), wr (field r 88 8) (16 + 8 * field r 100 2)]

/-- The first field of a card's body that fails. -/
def State.nearBad (s : State) (suite kind : Nat) (r : List Byte) : Option Nat :=
  if kind = 5 then s.selBad suite r else pklBad kind (PklCard.of r)

/-- `NEAR_MEMORY_JOB_START`: the engine of room `r` takes the oldest job that reached it. -/
def nearStart (r : Nat) (sel : Bool) : M Unit := do
  let s ← get
  let mine := s.nearQueue.filter fun e => e.1 == r && e.2.1 == sel
  match mine with
  | [] => stop (.fault .notEnabled)
  | (_, _, j) :: _ => match s.job j with
    | none => stop (.fault .notEnabled)
    | some x => match x.kind with
      | .near _ kind body false _ => do
        need (s.jobRuns j x) .notEnabled
        match s.nearBad x.suite kind body with
        | some o => set (s.endJob j 1 o)
        | none => set (s.modJob j fun x => { x with kind := .near sel kind body true none })
      | _ => stop (.fault .notEnabled)

/-- What a running job reads, in its order, and each time in which room. -/
def State.nearPlan (s : State) (x : Job) (kind : Nat) (body : List Byte) : List (Nat × Nat × Nat) :=
  let own := roomOfCore x.core
  match kind with
  | 3 => pklPlan own (s.roomsOf x.suite) (PklCard.of body) x.buf
  | 4 => pklgPlan own (PklCard.of body)
  | _ => selPlan own body

/-- What a job makes of the bytes it has read: what it writes, or what it adds from. -/
def State.nearData (s : State) (x : Job) (kind : Nat) (body : List Byte) : List Byte :=
  match kind with
  | 3 => pklCompute (s.roomsOf x.suite).length (PklCard.of body) x.buf
  | 4 => x.buf
  | _ => selCompute (roomOfCore x.core) body x.buf

/-- A job's next unit is read, through the collector of the room that reads it (R328; 07 R188). A room that the suite no longer has
ends the job (R329). -/
def nearRead (j : Nat) (x : Job) (sel : Bool) (kind : Nat) (body : List Byte) : M Unit := do
  let s ← get
  match unitAt x.buf.length (s.nearPlan x kind body) with
  | none => set (s.modJob j fun x => { x with kind := .near sel kind body true (some (s.nearData x kind body)), buf := [] })
  | some (room, a, n) =>
    if s.suiteOfRoom room ≠ x.suite then set (s.endJob j 2 TrapCode.prot.num)
    else if ← collect (48 + room) x.core x.asid a then
      let s := s.collected (48 + room) x.core x.asid a
      set (match s.jobRead x false a n with
        | .error e => s.stopJob j e
        | .ok (bs, s) => s.modJob j fun x => { x with buf := x.buf ++ bs })

/-- The next step of a running near-memory job: it reads, then writes a unit or adds an element. -/
def nearStep (j : Nat) (x : Job) (sel : Bool) (kind : Nat) (body : List Byte) (data : Option (List Byte)) : M Unit := do
  let s ← get
  let p := PklCard.of body
  match data with
  | none => nearRead j x sel kind body
  | some d => match kind with
    | 3 => set (s.unitStep j (s.writeUnit x p.out d))
    | 4 => set (s.unitStep j (s.pklgUnit x p d))
    | _ => set (s.unitStep j (s.writeUnit x (field body 88 8) d))

/-- `JOB_COMPLETE` of every kind of job. -/
def completeJob (j : Nat) : M Unit := do
  let s ← get
  match s.job j with
  | none => stop (.fault .notEnabled)
  | some x => match x.kind with
    | .near sel kind body true data => do
      need (s.jobRuns j x) .notEnabled
      nearStep j x sel kind body data
    | _ => jobComplete j

end Sys2Proof.Machine
end

