-- ==== Sys2Proof/Machine/Async.lean ====
section
/-! DEFINITION. The asynchronous class (10, 12): what `FORK`, `COPY`, `STREAM`, the job cards and the rest do at
issue. -/
namespace Sys2Proof.Machine
open Sys2Proof

/-! ## Copies (R252-R254) -/

def Slice.of (r : List Byte) : Slice :=
  let f := field r 20 1
  let addr (o : Nat) (st : Bool) : Nat := if st then field r o 4 else field r o 8
  { src := addr 0 (bit f 0), dst := addr 8 (bit f 1), len := field r 16 4, srcStash := bit f 0, dstStash := bit f 1 }

/-- A slice's footprint (R269). -/
def Slice.foot (z : Slice) : List Foot :=
  [{ lo := z.src, len := z.len, stash := z.srcStash, rd := true, wr := false },
   { lo := z.dst, len := z.len, stash := z.dstStash, rd := false, wr := true }]

/-- The open collective copies of a block, oldest first: number, slices expected. -/
def State.openCopies (s : State) (b : Nat) : List (Nat × Nat) :=
  s.jobs.filterMap fun (j, x) => if x.owner == some b then (match x.kind with
    | .copy zs want => if zs.length < want then some (j, want) else none
    | _ => none) else none

/-- The barrier of a completion arrival, if the flag asks for one. -/
def barOf (on : Bool) (n : Nat) : Option Nat := if on then some (n % 16) else none

/-- `COPY` (R253). -/
def copyIns (k : Issue) (d : Opnd) (off n : Nat) : M Unit := do
  trapIf (decide (n = 0) || decide (n > 64)) .illegal
  let r ← k.record off 32 32
  let z := Slice.of r
  let s ← get
  let opens := s.openCopies k.b
  let join (j : Nat) : M Unit := do
    k.addTok j (some d)
    k.mod fun m => { m with joined := m.joined ++ [j] }
    k.start { kind := .value }
  match opens.find? fun e => !k.tm.joined.contains e.1 with
  | some (j, want) => do
    trapIf (want != n) .illegal
    update (·.modJob j fun x => { x with
      kind := match x.kind with | .copy zs w => .copy (zs ++ [z]) w | q => q
      foot := x.foot ++ z.foot })
    join j
  | none =>
    if opens.length ≥ 4 then stallM
    else do
      k.entryFree
      let j ← k.newJob (.copy [z] n) (barOf (bit (field r 20 1) 2) (field r 21 1)) z.foot true r
      join j

/-- What a remote descriptor asks for. -/
def remoteKind (r : List Byte) : JobKind :=
  let dir := field r 22 1
  let la := field r 0 8
  if dir > 1 then .bad 22
  else .remote { put := dir == 0, peer := bits (field r 20 1) 5 0, suite := bits (field r 21 1) 2 0, raddr := field r 8 8
                 laddr := if bit la 63 then la % 2 ^ 32 else la, stash := bit la 63, len := field r 16 4 }

/-- `COPYR` (R254). -/
def copyrIns (k : Issue) (d : Opnd) (off : Nat) : M Unit := do
  let r ← k.record off 32 32
  k.submit d (remoteKind r) none [] r

/-! ## Layouts, streams, rings (R257-R267) -/

/-- `LAYOUT` (R257). -/
def layoutIns (k : Issue) (d a : Opnd) (slot : Nat) : M Unit := do
  let va := (k.tm.rdPair a 0).toNat
  trapIf (decide (slot > 7)) .illegal
  trapIf (decide (va % 64 ≠ 0)) .misalign va
  k.submit d (.layout va slot none) none [{ lo := va, len := 64, stash := false, rd := true, wr := false }]

/-- A stream record (R266). -/
def StreamRec.of (r : List Byte) (prog : Option Nat) : StreamRec :=
  let b (o : Nat) : Nat := field r o 1
  { lslot := b 0, ctl := b 1, stamp := b 2, ring := field r 8 4, first := field r 12 4, count := field r 16 4, prog := prog
    bad := if b 1 / 4 ≠ 0 then some 1 else if bits (b 2) 6 2 ≠ 0 then some 2 else if b 3 / 16 ≠ 0 then some 3
      else if field r 4 4 ≠ 0 then some 4 else if field r 20 12 ≠ 0 then some 20 else none }

/-- The barrier of a stream record. -/
def streamBar (r : List Byte) : Option Nat := barOf (bit (field r 1 1) 1) (field r 3 1)

/-- `STREAM`. -/
def streamIns (k : Issue) (d : Opnd) (off : Nat) : M Unit := do
  let r ← k.record off 32 32
  k.submit d (.stream (StreamRec.of r none)) (streamBar r) [] r

/-- `RAWAIT` (R261). -/
def rawait (k : Issue) (d : Opnd) (hdr : Nat) : M Unit := do
  match ← ringAcquire k.b hdr false with
  | none => stallM
  | some o => k.write d fun _ => BitVec.ofNat 32 o

/-- `RSTAT` (R263). -/
def rstat (k : Issue) (d : Opnd) (hdr : Nat) : M Unit := do
  let (r, h) ← ringOf k.b hdr
  k.write d fun _ => BitVec.ofNat 32 (h.free % 256 + h.filled % 256 * 256 + h.held % 256 * 65536 + r.work % 256 * 16777216)

/-! ## Job cards (R268, 12 R316, R317) -/

/-- The declared footprint of a card. -/
def cardFoot (r : List Byte) : List Foot :=
  (List.range (min 4 (field r 2 1))).filterMap fun i =>
    let o := 16 + 16 * i
    let a := field r o 8
    if field r (o + 8) 4 = 0 then none
    else some { lo := if bit a 63 then a % 2 ^ 32 else a, len := field r (o + 8) 4, stash := bit a 63
                rd := bit (field r (o + 12) 1) 0, wr := bit (field r (o + 12) 1) 1 }

/-- What a card asks for, and the field that fails. -/
def cardKind (r : List Byte) : JobKind :=
  let kind := field r 0 2
  let addr (o : Nat) (st : Bool) : Nat := if st then field r o 4 else field r o 8
  if kind = 0 ∨ kind > 5 then .bad 0
  else if field r 2 1 > 4 then .bad 2
  else if kind = 1 then
    let f := field r 100 1
    .copy [{ src := addr 80 (bit f 0), dst := addr 88 (bit f 1), len := field r 96 4, srcStash := bit f 0, dstStash := bit f 1 }] 1
  else if kind = 2 then
    let st := bit (field r 96 1) 1
    if field r 88 4 % 4 ≠ 0 then .bad 88 else .fill (addr 80 st) (field r 88 4) (BitVec.ofNat 32 (field r 92 4)) st
  else .near (kind == 5) kind r false none

def cardBar (r : List Byte) : Option Nat := barOf (bit (field r 3 1) 0) (field r 4 1)

/-- A job for a near-memory engine joins the queue of its room. -/
def Issue.reach (k : Issue) (j : Nat) : M Unit :=
  update fun s => match s.job j with
    | some { kind := .near sel .., .. } => { s with nearQueue := s.nearQueue ++ [(roomOfCore k.blk.core, sel, j)] }
    | _ => s

def cardIns (k : Issue) (d : Opnd) (r : List Byte) (kind : JobKind) (foot : List Foot) : M Unit := do
  let s ← get
  k.submit d kind (cardBar r) foot r
  k.reach s.nextJob

/-- `JOBCARD` (R269): the declared footprint and nothing else. -/
def jobcard (k : Issue) (d : Opnd) (off : Nat) : M Unit := do
  let r ← k.record off 128 32
  cardIns k d r (cardKind r) (cardFoot r)

/-- What a card given to `PKLQ`, `PKLG` or `SELJOB` asks for: its kind must be the instruction's. -/
def nearKind (kind : Nat) (r : List Byte) : JobKind := if field r 0 2 = kind then .near (kind == 5) kind r false none else .bad 0

/-- `PKLQ`, `PKLG`, `SELJOB`: the footprint is derived (12 R317). -/
def nearIns (k : Issue) (kind : Nat) (d : Opnd) (off : Nat) : M Unit := do
  let r ← k.record off 128 32
  cardIns k d r (nearKind kind r) (if field r 0 2 = kind then nearFoot kind r else [])

/-- `JWAIT` (R270). -/
def jwait (k : Issue) (n : Nat) : M Unit := do
  let s ← get
  let owed := s.jobs.any fun (_, x) => x.owner == some k.b && x.toks.any fun z => z.t == k.t && decide (z.seq + n ≤ k.tm.jobs)
  if owed then stallM else pure ()

/-! ## Fork, rendezvous, posts (R248-R251) -/

/-- The format word an active lane gives. -/
def Issue.votes (k : Issue) (a : Opnd) : List Word := k.lanes.map fun l => k.tm.rd a l

/-- A program of the block's fork has not ended. -/
def ForkRun.live (f : ForkRun) : Bool := f.mtx || f.codes.any (·.isNone)

/-- The record of a fork, checked (R249). -/
def forkOpen (k : Issue) (a : Opnd) (off : Nat) : M Fork := do
  let r ← k.record off 64 64
  let n := field r 10 1
  let ms := field r 0 8
  let srecs := (List.range (min n 4)).map fun i => field r (16 + 4 * i) 4
  trapIf (decide (n > 4) || srecs.any (fun o => decide (o % 32 ≠ 0) || decide (o + 32 > k.blk.stashSize)) ||
    decide (ms ≥ 2 ^ 56) || decide (ms % 4 ≠ 0) || (ms != 0 && !k.blk.usesMtx)) .illegal off
  let v := (k.votes a).headD 0
  trapIf (!fwPlain v) .fmtbad
  let want := field r 8 2
  k.modB fun x => { x with forkImage := r }
  pure { value := v, owner := k.t, expected := if want = 0 then k.blk.teams.length else want, arrivals := 0,
         mstream := ms, srecs := srecs }

/-- The matrix program starts (11 R276, R279, R283). -/
def State.startMatrix (s : State) (b pc : Nat) (v fmode : Word) (books : Tab Half) : State :=
  s.modMtx b fun m => { (Mtx.drain 4096 m) with
    q := [], qstep := 0, qstat := 0x80000000, rng := 0, tags := [], ops := [], fmt := v, fmode := fmode, books := books
    pc := pc, clause := none, stall := none, waitFmt := false, held := false }

/-- The stream programs start, each with the snapshot. -/
def forkStreams (k : Issue) (v : Word) : List (Nat × Nat) → M Unit
  | [] => pure ()
  | (i, off) :: rest => do
    let r ← k.record off 32 32
    let j ← k.newJob (.stream (StreamRec.of r (some i))) (streamBar r) [] false r
    update (·.modJob j fun x => { x with snap := { x.snap with fmt := v } })
    forkStreams k v rest

def forkStart (k : Issue) (f : Fork) : M Unit := do
  k.modB fun x => { x with
    fmtWord := f.value, fork := none
    forkRun := some { owner := f.owner, codes := fill f.srecs.length none, mtx := f.mstream != 0 } }
  forkStreams k f.value (indexed f.srecs)
  if f.mstream ≠ 0 then update (·.startMatrix k.b f.mstream f.value k.tm.fmode k.blk.codebooks)

/-- A trap that keeps what the instruction did so far. -/
def Issue.trapNow (k : Issue) (c : TrapCode) : M Unit :=
  update (·.takeTrap k.b k.t k.cl { code := c, pc := k.pc, addr := 0, resume := k.pc })

/-- `FORK` (R249). -/
def forkIns (k : Issue) (a : Opnd) (off : Nat) : M Unit := do
  let f ← (match k.blk.fork with
    | some f => pure f
    | none => if (match k.blk.forkRun with | some r => r.live | none => false) then stallM else forkOpen k a off)
  k.modB fun x => { x with fork := some f }
  if (k.votes a).any (· != f.value) then k.trapNow .fmtdiv
  else do
    let f := { f with arrivals := f.arrivals + 1 }
    if f.arrivals ≥ f.expected then forkStart k f else k.modB fun x => { x with fork := some f }
    k.start { kind := .value }

/-- What `RENDEZ` writes: the lowest-numbered stream program's status that is not `OK`. -/
def ForkRun.status (f : ForkRun) : Word :=
  match f.codes.find? fun c => match c with | some w => bits w.toNat 7 0 != 0 | none => false with
  | some (some w) => w
  | _ => 0

/-- `RENDEZ` (R250; 11 R286). -/
def rendez (k : Issue) (d : Option Opnd) : M Unit :=
  match k.owedTrap with
  | some i => update (·.streamTrap k.b k.t i)
  | none =>
    if k.blk.fork.isSome || (match k.blk.forkRun with | some r => r.live | none => false) then stallM
    else match d with
      | some d => k.write d fun _ => match k.blk.forkRun with | some r => r.status | none => 0
      | none => pure ()

/-- `FMTPOST` (R251): the format word is tested before the vote. -/
def fmtpost (k : Issue) (a : Opnd) (n : Nat) : M Unit := do
  trapIf (decide (n > 15)) .illegal
  trapIf (!fwPlain ((k.votes a).headD 0)) .fmtbad
  toUnit k n (.post k.t n (k.votes a))

/-! ## Barrier waits (03 R96, R97; 11 R286) -/

/-- A wait, unless the stream's trap is taken first. -/
def barWait (k : Issue) (body : M Unit) : M Unit :=
  match k.owedTrap with
  | some i => update (·.streamTrap k.b k.t i)
  | none => body

/-- `BSYNC`; one that a stream's trap interrupted after its arrival only waits. -/
def bsync (k : Issue) (n c : Nat) : M Unit :=
  barWait k (if k.tm.arrivedAt = some k.pc ∧ k.tm.context ≠ .trap then toUnit k n (.wait k.t n)
    else counted k n c (.arrive k.t n c true))

/-! ## Stamps (R272) -/

/-- A slot's record is retired by the team. -/
def retireStamp (k : Issue) (n : Nat) (entry : Bool) : M Unit := do
  let s ← get
  match s.stampRetire k.b n entry k.snap (some (k.t, k.tm.nextOp)) with
  | (none, _) => pure ()
  | (some j, s) => do set s; k.addTok j none

def stampOpen (k : Issue) (a : Opnd) : M Unit := do
  let va := (k.tm.rdPair a 0).toNat
  trapIf (decide (va % 64 ≠ 0)) .misalign va
  let n := (k.tm.rd a 0 3).toNat % 4
  retireStamp k n false
  k.modB fun x => { x with stamps := Tab.set none x.stamps n (some { addr := va, tile := k.tm.rd a 0 2 }) }
  k.start { kind := .value }

def stampEv (k : Issue) (e n : Nat) : M Unit := do
  trapIf (decide (n > 3)) .illegal
  k.modB fun x => x.stampEvent n e k.tick
  k.start { kind := .value }

def stampEnd (k : Issue) (n : Nat) : M Unit := do
  trapIf (decide (n > 3)) .illegal
  if (k.blk.stampAt n).isSome then do
    k.entryFree
    retireStamp k n true
  k.start { kind := .value }

/-! ## Keys in lanes (12 R310-R313) -/

/-- A radix digit (R311). -/
def radixDigit (x y : Word) (desc : Bool) : Word :=
  let o := bits y.toNat 7 0
  let w := min (bits y.toNat 15 8) 16
  let g := x.toNat / 2 ^ o % 2 ^ w
  BitVec.ofNat 32 (if desc then 2 ^ w - 1 - g else g)

/-- The lane with the largest key that is not 0 (R312). -/
def argmaxLane (ls : List Nat) (f : Nat → Word) : Word :=
  let valid := ls.filter fun l => f l != 0
  match valid.find? fun l => valid.all fun q => decide ((f q).toNat ≤ (f l).toNat) with
  | some l => BitVec.ofNat 32 l
  | none => 0xFFFFFFFF

/-- The descending rank of a lane (R313). -/
def rankOf (ls : List Nat) (f : Nat → Word) (l : Nat) : Word :=
  BitVec.ofNat 32 ((ls.filter fun q => decide ((f q).toNat > (f l).toNat) || ((f q) == (f l) && decide (q < l))).length)

end Sys2Proof.Machine
end

