-- ==== Sys2Proof/Machine/AsyncOps.lean ====
section
/-! DEFINITION. The instructions of the asynchronous class (10 R244, 12 R316), the barrier waits, the ranking
instructions (12 R309), and the steps of the engines. -/
namespace Sys2Proof.Machine
open Sys2Proof

/-- BWAIT (R97). -/
def execBwait (i : Fin 16) (σ : State) : Result :=
  issue ⟨Shape.none, .no, false, false⟩ (fun k => barWait k (toUnit k i.val (.wait k.t i.val))) σ

/-- BSYNC (R96). -/
def execBsync (i : Fin 16) (a : Count) (σ : State) : Result :=
  issue ⟨shCount a, .no, false, false⟩ (fun k => bsync k i.val (countOf k a)) σ

/-- RKEY.f32 (R310). -/
def execRkeyF32 (d : Opnd) (a : Src) (σ : State) : Result :=
  issue ⟨shOne d a, .no, false, true⟩ (fun k => do let x ← k.src a; k.write d (fun l => rkey (x l))) σ

/-- RKEY.bf16 (R310). -/
def execRkeyBf16 (d : Opnd) (a : Src) (σ : State) : Result :=
  issue ⟨shOne d a, .no, false, true⟩ (fun k => do let x ← k.src a; k.write d (fun l => rkey (x l <<< 16))) σ

/-- RDIG (R311). -/
def execRdig (desc : Bool) (d : Opnd) (a : Opnd) (b : Src) (σ : State) : Result :=
  issue ⟨shFlag desc d a b, .no, false, true⟩ (fun k => do let x ← k.read a; let y ← k.src b; k.write d (fun l => radixDigit (x l) (y l) desc)) σ

/-- ARGMAX (R312). -/
def execArgmax (d : Opnd) (a : Opnd) (σ : State) : Result :=
  issue ⟨shLane d a, .no, false, true⟩ (fun k => do let x ← k.read a; k.write d (fun _ => argmaxLane k.lanes x)) σ

/-- RANK (R313). -/
def execRank (d : Opnd) (a : Opnd) (σ : State) : Result :=
  issue ⟨shLane d a, .no, false, true⟩ (fun k => do let x ← k.read a; k.write d (fun l => rankOf k.lanes x l)) σ

/-- FORK (R249). -/
def execFork (a : Opnd) (b : Src) (σ : State) : Result :=
  issue ⟨shVote a b, .b, false, false⟩ (fun k => forkIns k a (k.uni b).toNat) σ

/-- RENDEZ (R250). -/
def execRendez (d : Option Opnd) (σ : State) : Result :=
  issue ⟨shOptS d, .b, false, false⟩ (fun k => rendez k d) σ

/-- COPY (R253). -/
def execCopy (d : Opnd) (a : Opnd) (b : Src) (σ : State) : Result :=
  issue ⟨shSSS d a b, .b, false, false⟩ (fun k => copyIns k d (k.tm.rd a 0).toNat (k.uni b).toNat) σ

/-- COPYR (R254). -/
def execCopyr (d : Opnd) (a : Src) (σ : State) : Result :=
  issue ⟨shSS d a, .b, false, false⟩ (fun k => copyrIns k d (k.uni a).toNat) σ

/-- LAYOUT (R257). -/
def execLayout (d : Opnd) (a : Opnd) (b : Src) (σ : State) : Result :=
  issue ⟨shSmap d a b, .b, false, false⟩ (fun k => layoutIns k d a (k.uni b).toNat) σ

/-- STREAM (R267). -/
def execStream (d : Opnd) (a : Src) (σ : State) : Result :=
  issue ⟨shSS d a, .b, false, false⟩ (fun k => streamIns k d (k.uni a).toNat) σ

/-- RINIT (R259). -/
def execRinit (d : Opnd) (a : Opnd) (b : Src) (σ : State) : Result :=
  issue ⟨shSSS d a b, .b, false, false⟩ (fun k => do let w ← ringInit k.b (k.tm.rd a 0).toNat (k.uni b).toNat; k.write d (fun _ => w)) σ

/-- RAWAIT (R261). -/
def execRawait (d : Opnd) (a : Src) (σ : State) : Result :=
  issue ⟨shSS d a, .b, false, false⟩ (fun k => rawait k d (k.uni a).toNat) σ

/-- RRELEASE (R262). -/
def execRrelease (a : Opnd) (b : Src) (σ : State) : Result :=
  issue ⟨shS2 a b, .b, false, false⟩ (fun k => do k.inOrder; ringRelease k.b (k.tm.rd a 0).toNat (k.uni b).toNat) σ

/-- RSTAT (R263). -/
def execRstat (d : Opnd) (a : Src) (σ : State) : Result :=
  issue ⟨shSS d a, .b, false, false⟩ (fun k => rstat k d (k.uni a).toNat) σ

/-- JOBCARD (R269). -/
def execJobcard (d : Opnd) (a : Src) (σ : State) : Result :=
  issue ⟨shSS d a, .b, false, false⟩ (fun k => jobcard k d (k.uni a).toNat) σ

/-- JWAIT (R270). -/
def execJwait (a : Src) (σ : State) : Result :=
  issue ⟨shS1 a, .b, false, false⟩ (fun k => jwait k (k.uni a).toNat) σ

/-- FMTPOST (R251). -/
def execFmtpost (a : Opnd) (b : Src) (σ : State) : Result :=
  issue ⟨shVote a b, .b, false, false⟩ (fun k => fmtpost k a (k.uni b).toNat) σ

/-- STAMP.open (R272). -/
def execStampOpen (a : Opnd) (σ : State) : Result :=
  issue ⟨shSQuad a, .b, false, false⟩ (fun k => stampOpen k a) σ

/-- STAMP.ev (R272). -/
def execStampEv (K : Fin 6) (a : Src) (σ : State) : Result :=
  issue ⟨shS1 a, .b, false, false⟩ (fun k => stampEv k K.val (k.uni a).toNat) σ

/-- STAMP.retire (R272). -/
def execStampRetire (a : Src) (σ : State) : Result :=
  issue ⟨shS1 a, .b, false, false⟩ (fun k => stampEnd k (k.uni a).toNat) σ

/-- PKLQ (R323). -/
def execPklq (d : Opnd) (a : Src) (σ : State) : Result :=
  issue ⟨shSS d a, .b, false, false⟩ (fun k => nearIns k 3 d (k.uni a).toNat) σ

/-- PKLG (R326). -/
def execPklg (d : Opnd) (a : Src) (σ : State) : Result :=
  issue ⟨shSS d a, .b, false, false⟩ (fun k => nearIns k 4 d (k.uni a).toNat) σ

/-- SELJOB (R320). -/
def execSeljob (d : Opnd) (a : Src) (σ : State) : Result :=
  issue ⟨shSS d a, .b, false, false⟩ (fun k => nearIns k 5 d (k.uni a).toNat) σ

/-- JOB_COMPLETE (R245): An engine job completes, writing its token status word and sending any barrier arrival. -/
def execJobComplete (j : Nat) (σ : State) : Result :=
  deviceStep (completeJob j) σ

/-- STREAM_JOB_START (R267): A stream job starts after earlier jobs on its ring and any pending LAYOUT of its slot have ended, capturing its layout. -/
def execStreamJobStart (j : Nat) (σ : State) : Result :=
  deviceStep (streamStart j) σ

/-- STREAM_TILE (R267): A stream engine takes a free or filled slot and fills or drains one tile. -/
def execStreamTile (j : Nat) (σ : State) : Result :=
  deviceStep (streamTile j) σ

/-- NEAR_MEMORY_JOB_START (R316): The room's PKL or selection engine starts its next job in arrival order. -/
def execNearMemoryJobStart (r : Nat) (sel : Bool) (σ : State) : Result :=
  deviceStep (nearStart r sel) σ

/-- BARRIER_OP_APPLY (R94): The block's barrier unit applies one arriving barrier operation per core clock in the stated order. -/
def execBarrierOpApply (b : Nat) (σ : State) : Result :=
  deviceStep (barrierApply b) σ

/-- BARRIER_COMPLETION (R92): When arrived reaches expect the barrier flips its phase, subtracts expect and releases its waiters, one completion per clock. -/
def execBarrierCompletion (b : Nat) (n : Nat) (σ : State) : Result :=
  deviceStep (barrierCompletion b n) σ

/-- SLEEP_EXPIRE (R91): A sleeping team becomes ready when its tick count expires. -/
def execSleepExpire (b : Nat) (t : Nat) (σ : State) : Result :=
  deviceStep (sleepExpire b t) σ

end Sys2Proof.Machine
end

