-- ==== Sys2Proof/Machine/Task.lean ====
section
/-! DEFINITION. The task class (13 R342-R353): what its instructions do at issue, and how the ostler performs them;
`FENCE` (08 R212, R213). -/
namespace Sys2Proof.Machine
open Sys2Proof

/-! ## Issue (R342) -/

/-- A queue number; one above 4095 is `ILLEGAL`. -/
def queueNo (q : Word) : M Nat := do
  trapIf (decide (q.toNat > 4095)) .illegal
  pure q.toNat

/-- The bytes lie inside the declared stash, then the offset is aligned. -/
def Issue.unitBounds (k : Issue) (off n : Nat) : M Unit := do
  trapIf (decide (off + n > k.blk.stashSize)) .prot off
  trapIf (decide (off % 32 ≠ 0)) .misalign off

/-- A task instruction on its way to the ostler. -/
def Issue.task (k : Issue) (d : Option Opnd) (o : TaskOp) : M Unit :=
  k.start { kind := .task o, dests := match d with | some d => groupBytes d 1 | none => [] }

/-- `QPOP` (R343). -/
def qpop (k : Issue) (nb : Bool) (d a : Opnd) (b : Src) : M Unit := do
  let q ← queueNo (k.tm.rd a 0)
  let off := (k.uni b).toNat
  k.unitBounds off 256
  k.task (some d) (.pop q off nb)

/-- `QPUSH` (R344): the entry is read at issue, as long as the queue's kind makes it. -/
def qpush (k : Issue) (a : Opnd) (b : Src) : M Unit := do
  let q ← queueNo (k.tm.rd a 0)
  let off := (k.uni b).toNat
  let s ← get
  let head ← k.record off 32 1
  let w := Waybill.of head
  let n := if (s.queue k.blk.suite q).kind = 1 ∧ 1 ≤ w.len ∧ w.len ≤ 8 then 32 * w.len else 32
  let r ← k.record off n 32
  k.task none (.push q off r)

/-- `QRESERVE` (R345). -/
def qreserve (k : Issue) (d a : Opnd) (b : Src) : M Unit := do
  let q ← queueNo (k.tm.rd a 0)
  k.task (some d) (.reserve q (k.uni b).toNat)

/-- `QCOMMIT`. -/
def qcommit (k : Issue) (a : Opnd) (b : Src) : M Unit := do
  let q ← queueNo (k.tm.rd a 0)
  k.task none (.commit q (k.uni b).toNat)

/-- `QCANCEL`. -/
def qcancel (k : Issue) (a : Opnd) (b : Src) : M Unit := do
  let q ← queueNo (k.tm.rd a 0)
  k.task none (.cancel q (k.uni b).toNat)

/-- `DONE` (R344): the waybill's copy is read at issue. -/
def doneIns (k : Issue) (a : Src) : M Unit := do
  let r ← k.record (k.uni a).toNat 256 32
  k.task none (.done (handlesOf r))

/-- `RINVOKE` (R351): the arguments are read at issue, and the packet takes the next number of its destination. -/
def rinvoke (k : Issue) (t : Bool) (d a : Opnd) (b : Src) : M Unit := do
  let rt := k.tm.rd a 0
  trapIf (decide (bits rt.toNat 31 26 ≠ 0)) .illegal
  let r ← k.record (k.uni b).toNat (32 * bits rt.toNat 25 23) 32
  let s ← get
  let dev := bits rt.toNat 5 0
  let seq := Tab.get 0 s.invSeqs dev
  set { s with invSeqs := Tab.set 0 s.invSeqs dev ((seq + 1) % 65536) }
  k.task (some d) (.invoke rt r t seq 0 none)

/-! ## Queue descriptors (R333) -/

/-- A descriptor is good, whether or not its mode enables the queue. -/
def descOk (r : List Byte) : Bool :=
  let size := field r 8 8
  decide (field r 24 1 ≤ 2) && decide (size % 32 = 0) && decide (64 ≤ size) && decide (size ≤ 2 ^ 24) && decide (field r 0 8 % 32 = 0)

/-- The descriptor is read: what the ring holds is kept while its place and its kind stay as they are. -/
def Queue.load (q : Queue) (r : List Byte) : Queue :=
  let base := field r 0 8
  let size := field r 8 8
  let kind := field r 24 1
  let keep := q.base == base && q.size == size && q.kind == kind
  let q := if keep then q else { errs := q.errs }
  let down := field r 32 2
  { q with ok := descOk r, base := base, size := size, kind := kind, mode := field r 25 1, level := field r 26 1 % 8
           dhead := field r 27 1 % 8, offset := field r 28 4, down := down, fulltmo := field r 36 4 }

def State.loadQueue (s : State) (u q : Nat) : State :=
  let (r, s) := s.ostRead u ((s.suite u).used.qtable.toNat + 64 * q) 64
  s.modQueue u q (·.load r)

/-- `DEADLINE` (R347). -/
def State.deadline (s : State) (u q : Nat) (t : Word) : State :=
  let va := (s.suite u).used.qtable.toNat + 64 * q
  let (r, s) := s.ostRead u va 64
  let mode := BitVec.ofNat 8 (field r 25 1)
  let s := if t = 0xFFFFFFFF then s.ostWrite u (va + 25) [mode &&& 0xFB]
    else (s.ostWrite u (va + 25) [mode ||| 4]).ostWrite u (va + 28) (leBytes 4 t.toNat)
  s.loadQueue u q

def deadlineIns (k : Issue) (a : Opnd) (b : Src) : M Unit := do
  let q ← queueNo (k.tm.rd a 0)
  update (·.deadline k.blk.suite q (k.uni b))

/-- `DRAINCHK` (R349). -/
def drainWord (s : State) (u : Nat) (drain : Bool) : Word :=
  let x := s.suite u
  let left := match x.drainAt with
    | some t => t + x.used.drainlim.toNat - s.tick
    | none => 0
  BitVec.ofNat 32 (b2n drain * 2 ^ 31 + min left (2 ^ 31 - 1))

/-- Ring bytes that launches taken from the queue still hold (R340). -/
def State.queueHeld (s : State) (u q : Nat) : Nat :=
  s.launches.foldl (fun a e => if e.2.suite = u ∧ e.2.queue = q then a + e.2.held else a) 0

/-- `QSTAT` (R346). -/
def queueStat (s : State) (u q item : Nat) : Word :=
  let x := s.queue u q
  BitVec.ofNat 32 (if !x.enabled then 0 else match item with
    | 0 => x.used
    | 1 => x.size - x.used - x.resvBytes 0
    | 2 => x.base % 2 ^ 32
    | 3 => x.base / 2 ^ 32
    | _ => x.errs)

def qstat (k : Issue) (item : Nat) (d : Opnd) (a : Src) : M Unit := do
  let q ← queueNo (k.uni a)
  let s ← get
  k.startValue d 1 fun _ _ => queueStat s k.blk.suite q item

/-! ## Remote invocation (R351, R352) -/

/-- The waybill that a packet becomes. -/
def packetWaybill (p : Packet) (q : Nat) : List Byte :=
  let len := ceilDiv (16 + p.args.length) 32
  let r := leBytes 8 (len + 256 + p.handler * 2 ^ 16 + q * 2 ^ 28) ++
    leBytes 8 (p.srcDev + p.srcSuite * 2 ^ 8 + p.prio * 2 ^ 16 + p.seq * 2 ^ 32) ++ p.args
  r ++ fill (32 * len - r.length) 0

/-- The receiving ostler takes a packet: accepted 0, refused 1, no handler 2. -/
def State.invoked (s : State) (p : Packet) : Nat × State :=
  if !s.suiteExists p.suite then (2, s)
  else match s.handlerOf p.suite p.handler with
    | (none, s) => (2, s)
    | (some q, s) =>
      let x := s.queue p.suite q
      if x.accepts && x.kind == 1 then
        match s.enqueue p.suite q (packetWaybill p q) true with
        | some s => (0, s)
        | none => (1, s)
      else (1, s)

/-- The packet of an invocation. -/
def State.packetOf (s : State) (u : Nat) (rt : Word) (data : List Byte) (seq : Nat) : Packet :=
  { suite := bits rt.toNat 8 6, handler := bits rt.toNat 20 9, prio := bits rt.toNat 22 21, args := data
    srcDev := s.device, srcSuite := u, seq := seq }

/-- What a try of an invocation gives: the status, where it is known. A peer's answer no rule of this device fixes. -/
def State.invokeTry (s : State) (u : Nat) (rt : Word) (data : List Byte) (seq : Nat) : Nat × State :=
  let p := s.packetOf u rt data seq
  let dev := bits rt.toNat 5 0
  if dev = s.device then s.invoked p
  else match s.portTo dev with
    | none => (3, s)
    | some port => ((Config.freeWord s.free).toNat % 4, { s.sendFlit port dev (.invoke p) with sent := s.sent ++ [p], free := s.free + 1 })

/-- `RINVOKE_RECEIVE`: a packet whose number the source's reply cache holds changes nothing; a refused one is not
kept (R352). -/
def rinvokeRecv (p : Packet) : M Unit := do
  let s ← get
  let kept := Tab.get [] s.invReplies p.srcDev
  need (s.peers.contains p.srcDev) .notEnabled
  if kept.any (·.seq == p.seq) then pure ()
  else
    let (st, s) := s.invoked p
    let kept := (kept ++ [({ seq := p.seq, values := [st] } : Reply)]).drop (kept.length + 1 - Config.unackedMax)
    set (if st = 1 then s else { s with invReplies := Tab.set [] s.invReplies p.srcDev kept })

/-! ## What the ostler does (R343-R345) -/

/-- A bin's waybill brings its reference to the block that pops it; a block that holds the 8 it may hold finds no entry (14 R368;
log 114). -/
def Block.refsFull (x : Block) (e : List Byte) : Bool :=
  (Waybill.of e).kind == 4 && field e 28 4 != 0 && decide (8 ≤ x.refs.length)

/-- `QPOP`'s try. -/
def State.popTry (s : State) (b q off : Nat) (nb : Bool) : Except Miss (Option (Word × State)) :=
  let x := s.block b
  let u := x.suite
  if !(s.queue u q).pops then .ok (some (0xFFFFFFFF, s))
  else match s.headEntry u q with
    | (none, s) => .ok (if nb || x.drain then some (0, s) else none)
    | (some e, s) => do
      let kind := (s.queue u q).kind
      if kind = 1 ∧ x.refsFull e then return if nb || x.drain then some (0, s) else none
      let s ← s.stashPut b off (e.take (x.stashSize - off))
      let s := s.modQueue u q (·.consume e.length)
      let s := if kind = 1 ∧ (Waybill.of e).kind = 4 ∧ field e 28 4 ≠ 0 then
          s.modBlock b fun x => { x with refs := x.refs ++ [BitVec.ofNat 32 (field e 28 4)] }
        else s
      pure (some (BitVec.ofNat 32 e.length, s))

/-- `QPUSH`'s try. -/
def State.pushTry (s : State) (u q off : Nat) (data : List Byte) : Option State :=
  let x := s.queue u q
  let where_ := off + 2 ^ 63
  if !x.accepts then some (s.refuse u 2 where_ q)
  else if x.kind = 1 ∧ (Waybill.of data).malformed then some (s.refuse u 5 where_ q)
  else s.enqueue u q data

/-- A reservation's size is admitted. -/
def Queue.reserves (x : Queue) (n : Nat) : Bool :=
  x.accepts && decide (n % 32 = 0) && decide (32 ≤ n) && decide (n ≤ x.size / 4)

/-- `QRESERVE`'s try. -/
def State.reserveTry (s : State) (b t q n : Nat) : Option (Word × State) :=
  let x := s.block b
  let z := s.queue x.suite q
  if !z.reserves n then some (0xFFFFFFFE, s)
  else if z.total + n ≤ z.size then
    some (BitVec.ofNat 32 z.tail, s.modQueue x.suite q fun z =>
      { z with resv := z.resv ++ [{ off := z.tail, len := n, b := b, t := t }] })
  else if x.drain then some (0xFFFFFFFF, s)
  else none

/-- The first open reservation at an offset is committed or cancelled. -/
def endResv (off state : Nat) : List Resv → Option (List Resv)
  | [] => none
  | r :: rest => if r.off = off ∧ r.state = 0 then some ({ r with state := state } :: rest)
      else (endResv off state rest).map (r :: ·)

/-- `QCOMMIT` and `QCANCEL`. -/
def State.endReserve (s : State) (u q res state : Nat) : State :=
  match endResv res state (s.queue u q).resv with
  | some rs => s.modQueue u q fun x => ({ x with resv := rs }).publish s.tick
  | none => s.countErr u q

/-- The instruction is over: its status is written. -/
def State.taskEnd (s : State) (b t : Nat) (o : Op) (w : Word) : State :=
  s.modTeam b t (·.retireOp { o with writes := o.dests.map fun d => (writeKey d 0, w) })

/-- The instruction is over without its status, and its tag clears. -/
def State.taskDrop (s : State) (b t : Nat) (o : Op) : State :=
  s.modTeam b t fun m => { m with ops := m.ops.filter (·.id != o.id), tags := m.tags.filter fun e => !o.dests.contains e.1 }.freed

/-- A miss met on the way: the block waits for the page, or the trap is delivered later (07 R196). -/
def State.taskMiss (s : State) (b t : Nat) (o : Op) (m : Miss) : State :=
  match m.why with
  | .fault ro => (s.modTeam b t (·.modOp o.id fun o => { o with faulted := true })).pageFault b
      { asid := m.asid, va := m.va / 4096 * 4096, kind := b2n m.store, readOnly := ro, who := .block b,
        t := t, pc := o.pc, addr := m.va, op := some o.id }
  | .fatal => (s.taskDrop b t o).modTeam b t (·.delay .pagefatal o.pc m.va)
  | .poison => (s.taskDrop b t o).modTeam b t (·.delay .ecc o.pc m.va)
  | _ => (s.taskDrop b t o).modTeam b t (·.delay .prot o.pc m.va)

/-- An invocation's end (R352): `.t` turns a nonzero status into `REFUSED`. -/
def State.invokeEnd (s : State) (b t : Nat) (o : Op) (trap_ : Bool) (st : Nat) : State :=
  if trap_ && st != 0 then (s.taskDrop b t o).modTeam b t (·.delay .refused o.pc st)
  else s.taskEnd b t o (BitVec.ofNat 32 st)

/-- A task operation goes on. -/
def taskStep (b t id : Nat) : M Unit := do
  let s ← get
  let m := s.team b t
  let u := (s.block b).suite
  match m.op id with
  | none => stop (.fault .notEnabled)
  | some o => match o.kind with
    | .task x => do
      need (m.taskReady o x && !o.faulted && (s.block b).saved.isNone) .notEnabled
      let s := if x.isInvoke then s else s.joinClock (s.block b).core
      match x with
      | .pop q off nb => do
        need (s.popsFirst u q (s.block b).core (m.slot % 4)) .notEnabled
        match s.popTry b q off nb with
        | .error e => set (s.taskMiss b t o e)
        | .ok none => stop (.fault .notEnabled)
        | .ok (some (w, s)) => set ((s.seeAgents (s.block b).core).taskEnd b t o w)
      | .push q off data => match s.pushTry u q off data with
        | none => stop (.fault .notEnabled)
        | some s => set (s.taskEnd b t o 0)
      | .reserve q n => match s.reserveTry b t q n with
        | none => stop (.fault .notEnabled)
        | some (w, s) => set (s.taskEnd b t o w)
      | .commit q r => set ((s.endReserve u q r 1).taskEnd b t o 0)
      | .cancel q r => set ((s.endReserve u q r 2).taskEnd b t o 0)
      | .succ h => set ((s.succHandle u h).taskEnd b t o 0)
      | .done hs => set ((s.doneHandles u hs).taskEnd b t o 0)
      | .invoke rt data tr seq tries since => do
        need (since.isNone && !s.putsOwed b t id (bits rt.toNat 5 0)) .notEnabled
        let (st, s) := s.invokeTry u rt data seq
        if st = 1 ∧ bits rt.toNat 5 0 = s.device then
          set (s.modOp b t id fun o => { o with kind := .task (.invoke rt data tr seq tries (some s.tick)) })
        else set (s.invokeEnd b t o tr st)
    | _ => stop (.fault .notEnabled)

/-- `QRESERVE_TIMEOUT` (R345). -/
def reserveTimeout (b t id : Nat) : M Unit := do
  let s ← get
  match (s.team b t).op id with
  | none => stop (.fault .notEnabled)
  | some o => match o.kind with
    | .task (.reserve q n) => do
      let z := s.queue (s.block b).suite q
      need (z.fulltmo != 0 && decide (o.issued + z.fulltmo ≤ s.tick) && (s.reserveTry b t q n).isNone &&
        (s.block b).saved.isNone) .notEnabled
      set (s.taskEnd b t o 0xFFFFFFFF)
    | _ => stop (.fault .notEnabled)

/-- Ticks after the first refusal at which a retry is sent (R352). -/
def retryTick (tries : Nat) : Nat := 4500 * (tries + 1)

/-- `RINVOKE_RETRY`. -/
def rinvokeAgain (b t id : Nat) : M Unit := do
  let s ← get
  let u := (s.block b).suite
  match (s.team b t).op id with
  | none => stop (.fault .notEnabled)
  | some o => match o.kind with
    | .task (.invoke rt data tr seq tries (some since)) => do
      need (decide (since + retryTick tries ≤ s.tick) && (s.block b).saved.isNone) .notEnabled
      let (st, s) := s.invokeTry u rt data seq
      if st = 1 ∧ tries < 2 then
        set (s.modOp b t id fun o => { o with kind := .task (.invoke rt data tr seq (tries + 1) (some since)) })
      else set (s.invokeEnd b t o tr st)
    | _ => stop (.fault .notEnabled)

/-! ## FENCE (08 R212, R213) -/

/-- A piece that has not performed, of those `p` names; one that has no translation may be any. -/
def Op.owes (o : Op) (p : Place → Bool) : Bool :=
  o.els.any fun e => !e.done && (match e.place with | none => true | some q => p q)

def Place.ordered : Place → Bool
  | .dev _ => true
  | _ => false
def Place.onHost : Place → Bool
  | .host _ => true
  | _ => false

/-- The operation reads, or writes. -/
def Op.fenceLd (o : Op) : Bool :=
  match o.kind with
  | .load => true
  | .atomic .. => true
  | .unit (.imgst _) => false
  | .unit _ => true
  | .walk _ => true
  | _ => false
def Op.fenceSt (o : Op) : Bool :=
  match o.kind with
  | .store => true
  | .atomic .. => true
  | .unit (.imgst _) => true
  | .binPush .. => true
  | _ => false

/-- A predecessor of a fence's set is not done. -/
def State.fenceOwed (s : State) (b t pred : Nat) : Bool :=
  let m := s.team b t
  let mine (x : Job) : Bool := x.owner == some b &&
    (x.toks.any (·.t == t) || (match x.issuer with | some (t', _) => t' == t | none => false))
  (bit pred 0 && m.ops.any fun o => o.fenceLd && o.owes Place.ordered) ||
  (bit pred 1 && m.ops.any fun o => o.fenceSt && o.owes Place.ordered) ||
  (bit pred 2 && s.jobs.any fun e => mine e.2) ||
  (bit pred 3 && m.ops.any fun o => o.isAccess && o.owes Place.onHost) ||
  (bit pred 4 && (s.jobs.any (fun e => mine e.2 && (match e.2.kind with | .remote _ => true | _ => false)) ||
    m.ops.any (fun o => match o.kind with | .task (.invoke ..) => true | _ => false)))

/-- The cores of a fence's scope as block `b` stands (08 R212). -/
def State.inScope (s : State) (b scope c : Nat) : Bool :=
  let own := (s.block b).core
  if scope ≤ 1 then c == own
  else if scope = 2 then postOfCore c == postOfCore own
  else if scope = 3 then roomOfCore c == roomOfCore own
  else true

/-- A core of the scope may still return what a line held before a write of the block that has performed at its home: the line is
live in its L1 (08 R203, R213). -/
def State.staleIn (s : State) (b scope : Nat) : Bool :=
  s.cores.any fun (c, k) => s.inScope b scope c && k.l1.any fun (l, x) =>
    let h := s.homeLine l
    decide (x.wts < h.wts) && h.writer == (s.block b).asid && decide (h.wts ≤ s.pts (s.block b).core) && decide (s.pts c ≤ x.rts)

/-- `FENCE` (08 R213): the predecessors have performed, their writes for every core of the scope too. -/
def fenceIns (k : Issue) (scope pred : Nat) : M Unit := do
  let s ← get
  if s.fenceOwed k.b k.t pred || ((bit pred 1 || bit pred 2) && s.staleIn k.b scope) then stallM else pure ()

end Sys2Proof.Machine
end

