-- ==== Sys2Proof/Machine/TeamUnit.lean ====
section
/-! DEFINITION. Global memory as a team's graphics instructions, the traversal units and the classify engines reach it: one aligned
32-byte unit after another, each an element of its own (08 R208; 15 R390; log 31). -/
namespace Sys2Proof.Machine
open Sys2Proof

/-- How an access is translated, and by whom it is made: a team's lane, a core's traversal unit in an ASID, the classify engine of a
post in an ASID. -/
inductive Via where
  | lane (b t l : Nat)
  | core (c asid : Nat)
  | post (p asid : Nat)
  deriving DecidableEq, Repr

def Via.asid (v : Via) (s : State) : Nat := match v with | .lane b _ _ => (s.block b).asid | .core _ a => a | .post _ a => a
def Via.core' (v : Via) (s : State) : Nat :=
  match v with | .lane b _ _ => (s.block b).core | .core c _ => c | .post p _ => p * Config.coresPerPost
def Via.lane' (v : Via) : Nat := match v with | .lane _ _ l => l | _ => 0
def State.translateVia (s : State) (v : Via) (va : Nat) (a : Access) : Trans × State :=
  match v with
  | .lane b t l => s.translateLane b t l va a
  | v => s.translate (v.core' s) (v.asid s) va a

/-- An access of an instruction, as a watch sees it (16 R418): lane, address, bytes, whether it stores. -/
structure Seen where
  lane : Nat
  va : Nat
  n : Nat
  st : Bool
  deriving DecidableEq, Repr

/-- Why a computation over memory stops: a page or a protection, poison at an address, a line that it must wait for; an element has
performed (`pause`), or was given up before; what it would reach as far as memory tells. -/
inductive UStop where
  | miss (m : Miss)
  | poison (va : Nat)
  | later
  | pause (s : State) (log : ULog)
  | given (at_ : Nat)
  | seen (l : List Seen)
  deriving DecidableEq, Repr

/-- The state a computation started from, the elements that have performed, whether it only looks. -/
structure UCtx where
  orig : State
  log : ULog
  look : Bool := false

/-- How many elements a computation has come by, and what it has looked at. -/
structure UPos where
  at_ : Nat := 0
  seen : List Seen := []

/-- A computation over memory. It is run from its start at every step, takes the elements that have performed from their log, and
performs one more. -/
abbrev U := StateT State (StateT UPos (ReaderT UCtx (Except UStop)))

def uStop {α : Type} (x : UStop) : U α := fun _ _ _ => .error x

/-- What a step of a computation comes to: its end, one more element performed, or a stop. -/
inductive URun (α : Type) where
  | done (x : α) (s : State)
  | more (s : State) (log : ULog)
  | stop (e : UStop)

/-- One step. -/
def U.step {α : Type} (run : U α) (s : State) (log : ULog) : URun α :=
  match run s {} { orig := s, log := log } with
  | .ok ((x, s), _) => .done x s
  | .error (.pause s log) => .more s log
  | .error e => .stop e

/-- At most `n` steps at one point. -/
def U.whole {α : Type} (run : U α) : Nat → State → ULog → URun α
  | 0, _, _ => .stop .later
  | n + 1, s, log => match run.step s log with
    | .more s log => run.whole n s log
    | r => r

/-- What the computation would reach from a state. -/
def U.looks {α : Type} (run : U α) (s : State) : List Seen :=
  match run s {} { orig := s, log := [], look := true } with
  | .ok (_, p) => p.seen
  | .error (.seen l) => l
  | .error _ => []

/-- One element. `look` gives the bytes it would read; `act` performs it, or answers `none` when its request has only entered a
collector. -/
def uElem (z : Seen) (look : State → Option (List Byte)) (act : State → Except UStop (Option (List Byte) × State)) : U (List Byte) :=
  fun s p c =>
    if c.look then match look s with
      | some r => .ok ((r, s), { p with seen := p.seen ++ [z] })
      | none => .error (.seen (p.seen ++ [z]))
    else match c.log[p.at_]? with
    | some (some r) => .ok ((r, s), { p with at_ := p.at_ + 1 })
    | some none => .error (.given (p.at_ + 1))
    | none => match act c.orig with
      | .ok (some r, s) => .error (.pause s (c.log ++ [some r]))
      | .ok (none, s) => .error (.pause s c.log)
      | .error e => .error e

/-- The computation, but for a stop that `lost` accepts: the element is given up, and the answer is `dflt`. -/
def uTry {α : Type} (lost : UStop → Bool) (dflt : α) (run : U α) : U α := fun s p c =>
  match run s p c with
  | .error (.given n) => .ok ((dflt, s), { p with at_ := n })
  | .error e => if lost e then .error (.pause c.orig (c.log ++ [none])) else .error e
  | r => r

/-- `n` bytes of a device line through the collector and L1 of core `c` (07 R188): a live line is read there; else the request
waits for an entry, and the home's answer enters L1. -/
def State.unitLine (s : State) (c asid va l off n : Nat) : Except UStop (List Byte × State) :=
  let es := (s.core c).collector
  match s.liveLine c l [] with
  | some x => .ok ((x.data.drop off).take n, s)
  | none =>
    if s.provisionalOn c l || !s.mayServe l c || (decide (es.length ≥ Config.collectorEntries) && es.all (·.line != l)) then .error .later
    else if s.poisoned (l * 128 + off) n then .error (.poison va)
    else
      let s := (s.leaseRead c l Config.lease).readBy asid l
      let h := s.homeLine l
      let data := s.lineBytes l
      .ok ((data.drop off).take n,
        if s.poisoned (l * 128) 128 then s else s.fillL1 c l data h.wts (min h.rts (s.pts c + Config.lease - 1)) 1)

/-- A unit's read at a device address: the classify engine's through its post's collector, another's through its core's. -/
def State.unitRead (s : State) (v : Via) (va pa n : Nat) : Except UStop (Option (List Byte) × State) :=
  match v with
  | .post p asid => match s.collectAt p (pa / 128) with
    | none => .error .later
    | some (some s) => .ok (none, s)
    | some none =>
      let s := s.leaves p (pa / 128)
      if s.poisoned pa n then .error (.poison va)
      else let (r, s) := s.agentRead engineRank asid pa n; .ok (some r, s)
  | v => (s.unitLine (v.core' s) (v.asid s) va (pa / 128) (pa % 128) n).map fun (r, s) => (some r, s)

/-- A unit's write at a device address. -/
def State.unitWrite (s : State) (v : Via) (pa : Nat) (bytes : List Byte) : Except UStop State :=
  match v with
  | .post _ asid => .ok (s.agentWrite engineRank pa bytes asid)
  | v =>
    let c := v.core' s
    if s.provisionalOn c (pa / 128) || !s.mayServe (pa / 128) c then .error .later
    else .ok ((s.stampWrite c (pa / 128)).devWrite pa bytes (v.asid s))

/-- The place of an access, with the state its translation leaves. -/
def State.unitPlace (s : State) (v : Via) (va n : Nat) (st : Bool) : Except UStop (Place × State) :=
  if va + n > 2 ^ 56 then .error (.miss ⟨.prot, v.asid s, va, st⟩)
  else match s.translateVia v va (if st then .store else .load) with
  | (.ok pg, s) => match pg.place va with
    | .dev pa => .ok (.dev pa, s)
    | .host ba => .ok (.host ba, s)
    | _ => .error (.miss ⟨.prot, v.asid s, va, st⟩)
  | (r, s) => .error (.miss ⟨r, v.asid s, va, st⟩)

/-- What a read would find now. -/
def State.unitLook (s : State) (v : Via) (va n : Nat) : Option (List Byte) :=
  match s.unitPlace v va n false with
  | .ok (.dev pa, s) => some (s.devRead pa n)
  | .ok (.host ba, s) => some (readBytes s.hostMem ba n)
  | _ => none

/-- One element that reads. -/
def uGet (v : Via) (va n : Nat) : U (List Byte) :=
  uElem ⟨v.lane', va, n, false⟩ (·.unitLook v va n) fun s =>
    match s.unitPlace v va n false with
    | .ok (.dev pa, s) => s.unitRead v va pa n
    | .ok (.host ba, s) => .ok (some (readBytes s.hostMem ba n), s)
    | .ok _ => .error .later
    | .error e => .error e

/-- One element that writes. -/
def uPut (v : Via) (va : Nat) (bytes : List Byte) : U Unit := do
  let _ ← uElem ⟨v.lane', va, bytes.length, true⟩ (fun _ => some []) fun s =>
    match s.unitPlace v va bytes.length true with
    | .ok (.dev pa, s) => (s.unitWrite v pa bytes).map fun s => (some [], s)
    | .ok (.host ba, s) => .ok (some [], { s with hostMem := writeBytes s.hostMem ba bytes })
    | .ok _ => .error .later
    | .error e => .error e

/-- One element that reads bytes of one unit and writes what `f` makes of them; it gives the bytes read. -/
def uModify (v : Via) (va n : Nat) (f : List Byte → List Byte) : U (List Byte) :=
  uElem ⟨v.lane', va, n, true⟩ (·.unitLook v va n) fun s =>
    match s.unitPlace v va n true with
    | .ok (.dev pa, s) =>
      if s.poisoned pa n then .error (.poison va)
      else
        let r := s.devRead pa n
        (s.unitWrite v pa (f r)).map fun s => (some r, s)
    | .ok (.host ba, s) =>
      let r := readBytes s.hostMem ba n
      .ok (some r, { s with hostMem := writeBytes s.hostMem ba (f r) })
    | .ok _ => .error .later
    | .error e => .error e

/-- The aligned 32-byte units of a range: address and length. -/
def unitsOf (va n : Nat) : List (Nat × Nat) :=
  (List.range (ceilDiv (va % 32 + n) 32)).map fun i =>
    let lo := max va (va / 32 * 32 + 32 * i)
    (lo, unitEnd lo (va + n) - lo)

/-- `n` bytes at a virtual address. -/
def uRead (v : Via) (va n : Nat) : U (List Byte) := do
  let parts ← (unitsOf va n).mapM fun p => uGet v p.1 p.2
  pure parts.flatten
def uWord (v : Via) (va : Nat) : U Word := do pure (BitVec.ofNat 32 (ofLe (← uRead v va 4)))

/-- Bytes stored at a virtual address. -/
def uWrite (v : Via) (va : Nat) (bytes : List Byte) : U Unit :=
  (unitsOf va bytes.length).forM fun p => uPut v p.1 ((bytes.drop (p.1 - va)).take p.2)

/-- The place an instruction's accesses hold in its team's order until they have performed. -/
def waitingEl : Elem := { lane := 0, va := 0, n := 0 }

/-- What a stop does to the instruction it met: a page fault holds it and the accesses after it, a fatal entry or
`PROT` discards them and is delivered (07 R193, R196), poison leaves its destination unwritten (08 R218). -/
def State.unitStop (s : State) (b t : Nat) (o : Op) (m : Miss) : State :=
  match m.why with
  | .fault ro => (s.modTeam b t (·.cancelFrom o.id)).pageFault b
      { asid := m.asid, va := m.va / 4096 * 4096, kind := b2n m.store, readOnly := ro, who := .block b,
        t := t, pc := o.pc, addr := m.va, op := some o.id }
  | .fatal => s.modTeam b t fun k => (k.discardFrom o.id).delay .pagefatal o.pc m.va
  | .poison => s.modTeam b t fun k => (k.retireOp { o with els := [], writes := [] }).delay .ecc o.pc m.va
  | _ => s.protAt b t o m.va

/-- An instruction of the graphics class goes on by one element of its memory, or ends: `run` gives the registers it writes. -/
def unitStep (b t : Nat) (o : Op) (run : U (List (Nat × Word))) : M Unit := do
  let s ← get
  let m := s.team b t
  need (!o.faulted && (s.block b).saved.isNone && m.earlierTranslated o.id && m.earlierDone o.id) .notEnabled
  match run.step s o.log with
  | .done ws s => set (s.modTeam b t (·.retireOp { o with els := [], writes := ws }))
  | .more s log => set (s.modOp b t o.id fun o => { o with log := log })
  | .stop (.miss x) => set (s.unitStop b t o x)
  | .stop (.poison va) =>
    set (s.modTeam b t fun m => (m.retireOp { o with els := [], writes := [] }).delay .ecc o.pc va)
  | .stop _ => stop (.fault .notEnabled)

/-- An access of the instruction meets an enabled watch: `WATCH` at the lowest such lane, before any lane performs (16 R418). -/
def Issue.watchRun {α : Type} (k : Issue) (run : U α) : M Unit := do
  if k.blk.watchctl &&& 0xF = 0 then pure ()
  else
    let s ← get
    let hits := (run.looks s).filter fun z => k.blk.watched (!z.st) z.st z.va z.n
    match sortBy (fun (a b : Seen) => decide (a.lane < b.lane)) hits with
    | z :: _ => trapLane .watch z.va z.lane
    | [] => pure ()

/-- Elements that an instruction performs at its issue at most: what it reads there it reads at one point (log 31). -/
def issueElems : Nat := 4096

/-- A read of an instruction at its issue, after the team's earlier accesses: a page fault holds the instruction,
anything else traps (log 31). -/
def Issue.unit {α : Type} (k : Issue) (run : U α) : M α := do
  k.inOrder
  k.watchRun run
  let s ← get
  match run.whole issueElems s [] with
  | .done x s => do set s; pure x
  | .stop (.miss m) => stop (m.stop k.b)
  | .stop (.poison va) => trap .ecc va
  | _ => stallM

/-- The registers of a block written for a list of lanes: what `f` gives for each. -/
def blockWrites (dests : List Nat) (ls : List (Nat × List Word)) : List (Nat × Word) :=
  ls.flatMap fun (l, ws) => (dests.zip ws).map fun (byte, w) => (writeKey byte l, w)

end Sys2Proof.Machine
end

