-- ==== Sys2Proof/Machine/Rays.lean ====
section
/-! DEFINITION. The traversal unit (15 R387-R404): rays, boxes and triangles in exact numbers, the walk visit by visit,
the traversal record, and what `TRACE`, `TRCONT`, `TRSTAT` and `TRXFORM` make of them. -/
namespace Sys2Proof.Machine
open Sys2Proof

/-! ## Numbers with infinities -/

/-- A binary32 value that is not NaN. -/
inductive Ext where
  | ninf
  | num (q : Q)
  | pinf
  deriving DecidableEq, Repr

def Ext.lt : Ext → Ext → Bool
  | .ninf, .ninf => false
  | .ninf, _ => true
  | .num _, .ninf => false
  | .num x, .num y => x.lt y
  | .num _, .pinf => true
  | .pinf, _ => false
def Ext.le (x y : Ext) : Bool := !y.lt x
def Ext.max (x y : Ext) : Ext := if x.lt y then y else x
def Ext.min (x y : Ext) : Ext := if y.lt x then y else x
def extOf (w : Word) : Option Ext :=
  match fmtF32.val w.toNat with
  | .nan => none
  | .inf neg => some (if neg then .ninf else .pinf)
  | .fin neg m e => some (.num ((Val.fin neg m e).q.getD Q.zero))

/-! ## Rays (R392, R394) -/

/-- A ray with finite origin and direction: what boxes and triangles are tested with. -/
structure Ray where
  o : List Q
  d : List Q
  lo : Ext
  hi : Ext

/-- The ray of eight words; none when a box or triangle can hold no point of it. -/
def rayOf (ws : List Word) : Option Ray :=
  let w (i : Nat) : Word := ws.getD i 0
  match [w 0, w 1, w 2].mapM qOf, [w 4, w 5, w 6].mapM qOf, extOf (w 3), extOf (w 7) with
  | some o, some d, some lo, some hi => some ⟨o, d, lo, hi⟩
  | _, _, _, _ => none

/-- R392: a NaN component, `tmin` > `tmax`, or a zero direction. -/
def rayMisses (ws : List Word) : Bool :=
  let w (i : Nat) : Word := ws.getD i 0
  match extOf (w 3), extOf (w 7) with
  | some lo, some hi =>
    (List.range 8).any (fun i => (extOf (w i)).isNone) || hi.lt lo ||
      [4, 5, 6].all fun i => (fmtF32.val (w i).toNat).isZero
  | _, _ => true

/-- Word `i` of some bytes. -/
def wordAt (r : List Byte) (i : Nat) : Word := BitVec.ofNat 32 (field r (4 * i) 4)

/-- A ray through an instance leaf's transform (R394). -/
def xformRay (leaf : List Byte) (ws : List Word) : List Word :=
  let v (w : Word) : Val := fmtF32.val w.toNat
  let row (k : Nat) (xs : List Val) : Word :=
    BitVec.ofNat 32 (fmtF32.rnd (sumVals 0 (List.zipWith Val.mul ((List.range 4).map fun j => v (wordAt leaf (4 * k + j))) xs)) 0 false 0).bits
  let o := (List.range 3).map (fun i => v (ws.getD i 0)) ++ [.fin false 1 0]
  let d := (List.range 3).map (fun i => v (ws.getD (4 + i) 0)) ++ [.fin false 0 0]
  [row 0 o, row 1 o, row 2 o, ws.getD 3 0, row 0 d, row 1 d, row 2 d, ws.getD 7 0]

/-! ## Boxes (R388, R393) -/

/-- Where the exact segment enters a closed box, rounded down to binary32. -/
def boxEntry (r : Ray) (lim : Ext) (lo hi : List Q) : Option Ext :=
  let axis (acc : Option (Ext × Ext)) (i : Nat) : Option (Ext × Ext) := acc.bind fun (t0, t1) =>
    let g (l : List Q) : Q := l.getD i Q.zero
    if (g r.d).isZero then (if (g lo).le (g r.o) && (g r.o).le (g hi) then some (t0, t1) else none)
    else
      let a := ((g lo).sub (g r.o)).div (g r.d)
      let b := ((g hi).sub (g r.o)).div (g r.d)
      some (t0.max (.num (a.min b)), t1.min (.num (a.max b)))
  match [0, 1, 2].foldl axis (some (r.lo, lim)) with
  | some (t0, t1) => if t0.le t1 then (match t0 with
      | .num q => extOf (BitVec.ofNat 32 (q.f32 2))
      | e => some e) else none
  | none => none

/-- A child slot of a node: reference type, unit, and the box's corners when the slot can be hit at all. -/
structure Slot where
  kind : Nat
  unit : Nat
  box : Option (List Q × List Q)

/-- The four slots of a node, for a ray mask. -/
def slotsOf (node : List Byte) (rmask : Nat) : List Slot :=
  (List.range 4).map fun s =>
    let ref := field node (16 + 4 * s) 4
    let q (i : Nat) : Nat := field node (32 + 6 * s + i) 1
    let ok := ref / 2 ^ 30 != 0 && (field node (56 + s) 1 &&& rmask) != 0 && [0, 1, 2].all fun a => decide (q a ≤ q (a + 3))
    let corner (up : Nat) : Option (List Q) := [0, 1, 2].mapM fun a =>
      (qOf (wordAt node a)).map fun p => p.add ((Q.ofInt (q (a + up))).mul (Q.pow2 (sext (field node (12 + a) 1) 8)))
    { kind := ref / 2 ^ 30, unit := ref % 2 ^ 26
      box := if ok then (match corner 0, corner 3 with | some lo, some hi => some (lo, hi) | _, _ => none) else none }

/-- Where a slot is hit. -/
def Slot.entry (z : Slot) (r : Option Ray) (lim : Ext) : Option Ext :=
  match r, z.box with
  | some r, some (lo, hi) => boxEntry r lim lo hi
  | _, _ => none

/-- The hit slots of type 1 or 3 as entries, by where they are entered, then by slot (R396). -/
def hitSlots (zs : List Slot) (r : Option Ray) (lim : Ext) : List Nat :=
  let hits := zs.filterMap fun z => if z.kind = 1 ∨ z.kind = 3 then
    (z.entry r lim).map fun e => (e, z.unit + (if z.kind = 3 then 2 ^ 26 else 0)) else none
  (sortBy (fun (x y : Ext × Nat) => x.1.lt y.1) hits).map Prod.snd

/-! ## Triangles (R395) -/

def qSub (x y : List Q) : List Q := List.zipWith Q.sub x y
def qCross (x y : List Q) : List Q :=
  let g (l : List Q) (i : Nat) : Q := l.getD i Q.zero
  [(1, 2), (2, 0), (0, 1)].map fun (i, j) => ((g x i).mul (g y j)).sub ((g x j).mul (g y i))

/-- The candidate (t, u, v) of a triangle's 48 bytes, for a ray, a limit by a held hit, and culled signs. -/
def triHit (tri : List Byte) (r : Option Ray) (held : Option Ext) (tflags : Nat) : Option (List Word) :=
  match r, (List.range 9).mapM fun i => qOf (wordAt tri i) with
  | some r, some vs =>
    let v0 := vs.take 3
    let e1 := qSub ((vs.drop 3).take 3) v0
    let e2 := qSub (vs.drop 6) v0
    let n := qCross e1 e2
    let det := qDot n r.d
    let s := qSub r.o v0
    if det.isZero || (bit tflags 1 && det.pos) || (bit tflags 2 && det.isNeg) then none
    else
      let u := (qDot s (qCross e2 r.d)).div det
      let v := (qDot s (qCross r.d e1)).div det
      let t := (qDot n s).neg.div det
      if u.isNeg || v.isNeg || (Q.ofInt 1).lt (u.add v) || (Ext.num t).lt r.lo then none
      else
        let w (q : Q) : Word := BitVec.ofNat 32 (q.f32 0)
        let tr := (extOf (w t)).getD .pinf
        if r.hi.lt tr || held.any (fun h => h.le tr) then none else some [w t, w u, w v]
  | _, _ => none

/-! ## A lane's walk (R396-R398) -/

/-- What a visit needs besides its memory: where it reads, and what becomes of a candidate that is not opaque: taken
or rejected for a batch (R408), or the walk stops with it. -/
structure WalkEnv where
  via : Via
  any : Option Bool

def codeMiss : Nat := 0
def codeHit : Nat := 1
def codeBudget : Nat := 2
def codeAny : Nat := 3
def codeFault : Nat := 4
def codeIdle : Nat := 5

def RayWalk.fin (w : RayWalk) (code detail : Nat) : RayWalk := { w with ended := some (code, detail) }
/-- The walk's end: a hit is held, or none (R396). -/
def RayWalk.wrapUp (w : RayWalk) : RayWalk := w.fin (if w.hit.isSome then codeHit else codeMiss) 0
def entryDepth (e : Nat) : Nat := e / 2 ^ 27
def entryUnit (e : Nat) : Nat := e % 2 ^ 26
def entryInst (e : Nat) : Bool := bit e 26

/-- The ray of the walk's level. -/
def RayWalk.now (w : RayWalk) : Option Ray :=
  match w.inst with
  | some leaf => rayOf (xformRay leaf w.ray)
  | none => rayOf w.ray
def RayWalk.held (w : RayWalk) : Option Ext := w.hit.bind fun h => extOf (h.headD 0)
def RayWalk.lim (w : RayWalk) : Ext := w.held.getD ((extOf (w.ray.getD 7 0)).getD .ninf)
/-- The base of the level's structure. -/
def RayWalk.base (w : RayWalk) : Nat :=
  match w.inst with
  | some leaf => field leaf 48 8
  | none => w.root
def RayWalk.world (w : RayWalk) : RayWalk := { w with idepth := none, inst := none }
/-- A visit is made, unless the budget is spent. -/
def RayWalk.spent (w : RayWalk) : Bool := decide (w.budget ≤ w.used)
def RayWalk.count (w : RayWalk) : RayWalk := { w with used := w.used + 1 }

/-- Entries pushed, the last first; a full stack drops its bottom (R396). -/
def RayWalk.push (w : RayWalk) (es : List Nat) (depth : Nat) : RayWalk :=
  es.reverse.foldl (fun w e =>
    let full := decide (8 ≤ w.stack.length)
    { w with stack := (if full then w.stack.drop 1 else w.stack) ++ [e + depth * 2 ^ 27], ovf := w.ovf || full }) w

/-- Two bits of the trail. -/
def trailAt (t lv : Nat) : Nat := t / 4 ^ lv % 4
def setTrail (t lv x : Nat) : Nat := t - trailAt t lv * 4 ^ lv + x % 4 * 4 ^ lv

/-- An instance leaf is entered: its bottom root is current, at the same depth. -/
def RayWalk.enter (w : RayWalk) (leaf : List Byte) : RayWalk :=
  { w with inst := some leaf, ileaf := w.cur, idepth := some (entryDepth w.cur), cur := entryDepth w.cur * 2 ^ 27 }

/-- A restart begins at the root (R397). -/
def RayWalk.again (w : RayWalk) (d : Nat) : RayWalk := { w.world with ovf := false, stack := [], cur := 0, restart := some (d, 0) }

/-- After a node with no child to go to (R396 `finish`). -/
def RayWalk.finish (w : RayWalk) : RayWalk :=
  match w.stack.getLast? with
  | some e =>
    let d := entryDepth e
    let t := (if d = 0 then w.trail else w.trail + 4 ^ (d - 1)) % 4 ^ d
    let w := { w with stack := w.stack.dropLast, trail := t, cur := e }
    if w.idepth.any fun i => decide (d ≤ i) then w.world else w
  | none => if w.ovf then w.again (entryDepth w.cur) else w.wrapUp

/-- One node of a restart (R397), which has been read: on to the child the trail names. -/
def RayWalk.restartNode (w : RayWalk) (d lv : Nat) (node : List Byte) : RayWalk :=
  let zs := slotsOf node w.rmask
  if w.idepth.isSome && zs.any (·.kind == 3) then w.fin codeFault 0x24
  else
    let h := hitSlots zs w.now w.lim
    let j := trailAt w.trail lv + (if lv + 1 = d then 1 else 0)
    match h[j]? with
    | none => if lv = 0 then { w with restart := none }.wrapUp else w.again lv
    | some e =>
      let t := setTrail w.trail lv j
      let w := { w with trail := if lv + 1 = d then t % 4 ^ d else t }.push (h.drop (j + 1)) (lv + 1)
      { w with cur := e + (lv + 1) * 2 ^ 27, restart := if lv + 1 = d then none else some (d, lv + 1) }

/-- A hit is taken; it ends the walk when `tflags` bit 0 asks for that. -/
def RayWalk.take (w : RayWalk) (full : List Word) : RayWalk :=
  let w := { w with hit := some full }
  if bit w.tflags 0 then w.fin codeHit 0 else w

/-- The identifier fields of triangle `i` of a leaf at an address; what no rule gives is free: the instance outside every instance, a
triangle the leaf has not. -/
def RayWalk.idsOf (w : RayWalk) (leaf : List Byte) (at_ i : Nat) : List Word :=
  [wordAt leaf 0, if i < field leaf 4 1 then wordAt (leaf.drop (16 + 48 * i)) 9 else Config.freeWord (2 ^ 65 + at_),
   match w.inst with
   | some z => wordAt z 14
   | none => Config.freeWord (2 ^ 64 + at_)]

/-- The decision on an any-hit candidate is applied (R402). -/
def RayWalk.decide_ (leaf : List Byte) (at_ : Nat) (w : RayWalk) : RayWalk :=
  match w.pend with
  | none => w
  | some yes =>
    let i := w.tri
    let w := { w with pend := none, tri := i + 1 }
    let w := if yes then w.take ((w.cand.getD []).take 3 ++ w.idsOf leaf at_ i) else w
    if w.last && w.ended.isNone then w.wrapUp else w

/-- One triangle of a cluster leaf. -/
def RayWalk.triangle (env : WalkEnv) (leaf : List Byte) (at_ : Nat) (w : RayWalk) (i : Nat) : RayWalk :=
  if w.ended.isSome || decide (i < w.tri) then w
  else
    let tri := (leaf.drop (16 + 48 * i)).take 48
    let ids := w.idsOf leaf at_ i
    let next (w : RayWalk) : RayWalk := if w.ended.isSome then w else { w with tri := i + 1 }
    match triHit tri w.now w.held w.tflags with
    | none => next w
    | some c =>
      let opaque_ := bit (field tri 40 1) 0 || (w.inst.any fun z => bit (field z 61 1) 0) || bit w.tflags 3
      if opaque_ || env.any == some true then next (w.take (c ++ ids))
      else if env.any == some false then next w
      else { w with cand := some (c ++ ids) }.fin codeAny 0

/-- The current cluster leaf is read and its triangles from the current one on are tested. -/
def RayWalk.leaf (env : WalkEnv) (w : RayWalk) (unit : Nat) : U RayWalk := do
  let at_ := w.base + 64 * unit
  let head ← uRead env.via at_ 16
  let n := field head 4 1
  if n = 0 ∨ 16 < n then pure (w.fin codeFault 0x21)
  else do
    let rest ← uRead env.via (at_ + 16) (48 * n)
    pure ((List.range n).foldl (RayWalk.triangle env (head ++ rest) at_) (w.decide_ (head ++ rest) at_))

/-- The first slot of type 2 from slot `s` on. -/
def leafFrom (zs : List Slot) (s : Nat) : Option Nat :=
  (List.range 4).find? fun i => decide (s ≤ i) && (zs[i]?).any (·.kind == 2)

/-- A node whose cluster leaves have been tested: on to its children (R396). -/
def RayWalk.children (w : RayWalk) (zs : List Slot) : RayWalk :=
  if w.idepth.isSome && zs.any (·.kind == 3) then w.fin codeFault 0x24
  else
    let d := entryDepth w.cur
    let w := { w with seenNode := false, node := none, slot := 0, tri := 0, inLeaf := false }
    match hitSlots zs w.now w.lim with
    | [] => w.finish
    | h :: hs =>
      if d + 1 > 31 then w.fin codeFault 0x22
      else
        let w := { w with trail := setTrail w.trail d 0 }.push hs (d + 1)
        { w with cur := h + (d + 1) * 2 ^ 27 }

/-- The walk stands before the first cluster leaf of its node from slot `s` on, which it tests whatever the slot's box and mask (R396;
log 67); with none left it goes on to the children. -/
def RayWalk.toLeaf (w : RayWalk) (zs : List Slot) (s : Nat) : RayWalk :=
  match leafFrom zs s with
  | some i => { w with slot := i, tri := 0, inLeaf := false }
  | none => w.children zs

/-- A node that has been read: its next cluster leaf is tested. -/
def RayWalk.testLeaf (env : WalkEnv) (w : RayWalk) (node : List Byte) : U RayWalk := do
  let zs := slotsOf node w.rmask
  match leafFrom zs w.slot with
  | none => pure (w.children zs)
  | some s =>
    let w := if w.inLeaf && s == w.slot then w else { w with slot := s, tri := if s = w.slot then w.tri else 0, inLeaf := false }
    if !w.inLeaf && w.spent then pure (w.fin codeBudget 0)
    else do
      let w := if w.inLeaf then w else { w.count with inLeaf := true }
      let w ← w.leaf env (((zs[s]?).map (·.unit)).getD 0)
      pure (if w.ended.isSome then w else w.toLeaf zs (s + 1))

/-- The walk goes on by at most one visit. -/
def RayWalk.visit (env : WalkEnv) (w : RayWalk) : U RayWalk := do
  let w ← match w.idepth, w.inst with
    | some _, none => do pure { w with inst := some (← uRead env.via (w.root + 64 * entryUnit w.ileaf) 64) }
    | _, _ => pure w
  match w.restart with
  | some (d, lv) =>
    if d ≤ lv then pure { w with restart := none }
    else if w.spent then pure (w.fin codeBudget 0)
    else do
      let r ← uRead env.via ((if entryInst w.cur then w.root else w.base) + 64 * entryUnit w.cur) 64
      if entryInst w.cur then pure (w.count.enter r) else pure (w.count.restartNode d lv r)
  | none =>
    if w.seenNode then
      match w.node with
      | some r => w.testLeaf env r
      | none => do
        let r ← uRead env.via (w.base + 64 * entryUnit w.cur) 64
        pure { w with node := some r }
    else if w.spent then pure (w.fin codeBudget 0)
    else do
      let r ← uRead env.via ((if entryInst w.cur then w.root else w.base) + 64 * entryUnit w.cur) 64
      if entryInst w.cur then pure (w.count.enter r)
      else pure ({ w.count with seenNode := true, node := some r, slot := 0, tri := 0, inLeaf := false }.toLeaf (slotsOf r w.rmask) 0)

/-- A step of a lane's walk, or its end by a page (R399) and what else may stop it. -/
def RayWalk.step (env : WalkEnv) (w : RayWalk) (s : State) (log : ULog) : URun RayWalk :=
  match (w.visit env).step s log with
  | .stop (.miss m) => match m.why with
    | .fault _ => .stop (.miss m)
    | .fatal => .done (w.fin codeFault 0x12) s
    | _ => .done (w.fin codeFault 0x07) s
  | r => r

/-! ## The control record and the traversal record (R391, R399) -/

structure TraceCtl where
  root : Nat
  budget : Nat
  rmask : Nat
  tflags : Nat
  trec : Nat

def TraceCtl.of (r : List Byte) : TraceCtl := ⟨field r 0 8, field r 8 2, field r 10 1, field r 11 1, field r 12 4⟩
def TraceCtl.bad (c : TraceCtl) (lpsize : Nat) : Bool := c.trec % 128 != 0 || decide (lpsize < c.trec + 128 + 1024)

/-- What ends a walk before its first visit (R391, R392). -/
def RayWalk.begin (w : RayWalk) : RayWalk :=
  if w.root / 2 ^ 56 != 0 then w.fin codeFault 0x07
  else if w.root % 64 != 0 then w.fin codeFault 0x06
  else if rayMisses w.ray then w.fin codeMiss 0
  else w

/-- A fresh walk. -/
def TraceCtl.start (c : TraceCtl) (ray : List Word) : RayWalk :=
  { root := c.root, budget := c.budget, rmask := c.rmask, tflags := c.tflags, ray := ray : RayWalk }.begin

def recState (r : List Byte) : Nat := bits (field r 38 1) 2 0

/-- The walk a record holds, resumed by `TRCONT` with a decision. Of a candidate whose leaf the record does not name, the cluster, the
triangle and the instance are free from `free` on; a walk that the decision ends without taking a candidate reads nothing more (R402;
log 51). -/
def TraceCtl.resume (c : TraceCtl) (r : List Byte) (dec free : Nat) : RayWalk :=
  let st := recState r
  let w0 : RayWalk := { root := c.root, budget := c.budget }
  if st = 0 ∨ st = 4 then w0.fin codeIdle 0
  else
    let n := field r 36 1
    let idp := field r 37 1
    let words (o k : Nat) : List Word := (List.range k).map fun i => BitVec.ofNat 32 (field r (o + 4 * i) 4)
    let pos := field r 39 1
    let cur := field r 32 4
    let inRestart := bit pos 7
    let read := bit pos 6 && !inRestart
    let w : RayWalk := { w0 with
      rmask := field r 124 1, tflags := field r 125 1, ray := words 0 8, cur := cur, trail := field r 40 8
      ovf := bit (field r 38 1) 3
      stack := (List.range (min n 8)).map fun i => field r (48 + 4 * i) 4
      idepth := if idp = 0xFF then none else some idp
      ileaf := field r 80 4
      slot := if read then bits pos 1 0 else 0
      tri := if read then bits pos 5 2 else 0
      seenNode := read
      inLeaf := read && st == 2
      hit := if bit (field r 38 1) 4 then some (words 84 6) else none
      cand := some (words 112 3)
      restart := if inRestart then some (bits pos 4 0, entryDepth cur) else none
      pend := if st = 2 ∧ read then some (bit dec 0) else none
      last := st == 2 && bit dec 1
      before := field r 108 4 }
    let w := if st = 2 ∧ !read ∧ bit dec 0 then
        w.take (words 112 3 ++ [Config.freeWord free, Config.freeWord (free + 1), Config.freeWord (free + 2)]) else w
    if 8 < n ∨ (31 < idp ∧ idp ≠ 0xFF) then w.fin codeFault 0x23
    else if w.ended.isSome then w
    else if w.last && w.pend != some true then w.wrapUp
    else w.begin

/-- A walk that a save wrote into its record goes on as the record has it (R399); the call's own counts and an any-hit decision stay with
the instruction. -/
def RayWalk.reload (w : RayWalk) (r : List Byte) : RayWalk :=
  let c : TraceCtl := ⟨w.root, w.budget, w.rmask, w.tflags, 0⟩
  { c.resume r 0 0 with
    used := w.used, before := w.before, pend := w.pend, last := w.last, inLeaf := w.inLeaf }

/-- The record of a walk that has stopped, or is saved (`state` 3). -/
def RayWalk.record (w : RayWalk) (state : Nat) : List Byte :=
  let ws (l : List Word) (n : Nat) : List Byte := (List.range n).flatMap fun i => leBytes 4 (l.getD i 0).toNat
  let pos := match w.restart with
    | some (d, _) => 128 + d
    | none => if w.seenNode then w.slot % 4 + 4 * (w.tri % 16) + 64 else 0
  ws w.ray 8 ++ leBytes 4 w.cur ++ leBytes 1 w.stack.length ++ leBytes 1 (w.idepth.getD 0xFF) ++
    leBytes 1 (state + 8 * b2n w.ovf + 16 * b2n w.hit.isSome) ++ leBytes 1 pos ++ leBytes 8 w.trail ++
    ws (w.stack.map (BitVec.ofNat 32)) 8 ++ leBytes 4 w.ileaf ++ ws (w.hit.getD []) 6 ++
    leBytes 4 (min (2 ^ 32 - 1) (w.before + w.used)) ++ ws (w.cand.getD []) 3 ++
    leBytes 1 w.rmask ++ leBytes 1 w.tflags ++ [0, 0]

/-- The `state` a walk's end leaves in its record (R401). -/
def RayWalk.endState (w : RayWalk) : Nat :=
  match w.ended with
  | some (c, _) => if c = codeBudget then 1 else if c = codeAny then 2 else 4
  | none => 3
def RayWalk.idle (w : RayWalk) : Bool := w.ended == some (codeIdle, 0)

/-- The identifier of R401 under a layout. -/
def identOf (lay : Nat) (inst cid tri : Nat) : Nat :=
  inst % 2 ^ idI lay * 2 ^ (idC lay + idT lay) + cid % 2 ^ idC lay * 2 ^ idT lay + tri % 2 ^ idT lay

/-- The result block (R401). -/
def RayWalk.result (w : RayWalk) (lay : Nat) : List Word :=
  let (code, detail) := w.ended.getD (codeFault, 0)
  let status : Word := BitVec.ofNat 32 (w.used * 65536 + detail * 256 + code)
  let f := if code = codeHit then w.hit else if code = codeAny then w.cand else none
  match f with
  | some [t, u, v, cid, tri, inst] =>
    [status, t, u, v, BitVec.ofNat 32 (identOf lay inst.toNat cid.toNat tri.toNat), inst, cid, tri]
  | _ => status :: fill 7 0xFFFFFFFF

/-! ## The instructions (R400-R404) -/

/-- The bytes of a lane's record. -/
def Team.recordBytes (m : Team) (trec l : Nat) : List Byte := m.lpRead trec l 128

/-- The control record named, with its checks in the order R400 and R391 give them. -/
def traceCtl (k : Issue) (off : Nat) : M TraceCtl := do
  let c := TraceCtl.of (← k.record off 32 32)
  trapIf (c.bad k.blk.lpsize) .illegal off
  pure c

/-- The lanes' records can be reached, after the team's earlier lane-private accesses. -/
def recordGuard (k : Issue) (trec : Nat) (a : Access) : M Unit := do
  if k.tm.ops.any (fun o => o.isLaneAccess || o.isWalk) then stallM
  else k.lanes.forM fun l => do
    laneAccess k l (k.blk.lpAddr k.t trec l) a
    laneAccess k l (k.blk.lpAddr k.t (trec + 124) l) a

/-- The lines of the lanes' records are touched by their reads (07 R174). -/
def touchRecords (k : Issue) (trec : Nat) : M Unit := k.mod fun m => k.lanes.foldl (fun m l => m.lpTouch trec l) m

/-- `TRACE`. -/
def traceIns (k : Issue) (d a : Opnd) (b : Src) : M Unit := do
  let c ← traceCtl k (k.uni b).toNat
  recordGuard k c.trec .laneStore
  k.start { kind := .walk c.trec, dests := groupBytes d 8, els := [waitingEl], args := [[k.tm.vblayout]]
            walks := k.lanes.map fun l => c.start ((List.range 8).map fun i => k.tm.rd a l i) }

/-- `TRCONT`. -/
def trcontIns (k : Issue) (d a : Opnd) (b : Src) : M Unit := do
  let c ← traceCtl k (k.uni b).toNat
  recordGuard k c.trec .laneStore
  touchRecords k c.trec
  let s ← get
  set { s with free := s.free + 48 }
  k.start { kind := .walk c.trec, dests := groupBytes d 8, els := [waitingEl], args := [[k.tm.vblayout]]
            walks := k.lanes.map fun l => c.resume (k.tm.recordBytes c.trec l) (k.tm.rd a l).toNat (s.free + 3 * l) }

/-- `TRSTAT`. -/
def trstatIns (k : Issue) (d : Opnd) (b : Src) : M Unit := do
  let c ← traceCtl k (k.uni b).toNat
  recordGuard k c.trec .laneLoad
  touchRecords k c.trec
  let r (l : Nat) : List Byte := k.tm.recordBytes c.trec l
  k.startValue d 2 fun l i => BitVec.ofNat 32 (if i = 0 then
    recState (r l) + entryDepth (field (r l) 32 4) * 256 + field (r l) 36 1 * 65536 + b2n (bit (field (r l) 38 1) 3) * 2 ^ 24
    else field (r l) 108 4)

/-- `TRXFORM`. -/
def trxformIns (k : Issue) (d a b : Opnd) : M Unit := do
  let as : List LaneAddr := k.lanes.map fun l => (l, (k.tm.rdPair b l).toNat)
  checkEach as (globalCheck 64 64)
  watchCheck k true false 64 as
  k.start { kind := .unit .xform, dests := groupBytes d 8, els := [waitingEl], aux := as.map Prod.snd
            args := k.lanes.map fun l => (List.range 8).map fun i => k.tm.rd a l i }

/-- What `TRXFORM` writes. -/
def xformRun (b t : Nat) (o : Op) : U (List (Nat × Word)) := do
  let ls ← ((lanesOf o.act).zip (o.aux.zip o.args)).mapM fun (l, va, ray) => do
    pure (l, xformRay (← uRead (.lane b t l) va 64) ray)
  pure (blockWrites o.dests ls)

/-! ## The walks of an instruction, step by step (R398, R399) -/

/-- A lane of a walk has ended: its record is written; that of an idle lane keeps all but its `state`, which becomes 4 (R401). -/
def State.putRecord (s : State) (b t trec l : Nat) (w : RayWalk) : State :=
  s.modTeam b t fun m =>
    if w.idle then m.lpWrite (trec + 38) l [BitVec.ofNat 8 (field (m.recordBytes trec l) 38 1 / 8 * 8 + 4)]
    else m.lpWrite trec l (w.record w.endState)

/-- The traversal unit takes the first of the instruction's walks that has not ended one step on; with none left the
instruction completes. -/
def walkStep (b t id : Nat) : M Unit := do
  let s ← get
  let m := s.team b t
  match m.op id with
  | none => stop (.fault .notEnabled)
  | some o => match o.kind with
    | .walk trec => do
      need (!o.faulted && (s.block b).saved.isNone && m.earlierDone id && m.earlierTranslated id) .notEnabled
      let lanes := lanesOf o.act
      match (o.walks.zipIdx).find? fun (w, i) => w.ended.isNone || bit (o.aux.headD 0) i == false with
      | none =>
        let out := blockWrites o.dests (lanes.zip (o.walks.map fun w => w.result ((o.args.headD []).headD 0).toNat))
        set (s.modTeam b t fun m => m.retireOp { o with els := [], writes := out })
      | some (w, i) =>
        let l := lanes.getD i 0
        let note (s : State) (w : RayWalk) : State :=
          let s := if w.ended.isSome then s.putRecord b t trec l w else s
          s.modOp b t id fun o => { o with
            walks := setAt o.walks i w
            aux := if w.ended.isSome then [o.aux.headD 0 + 2 ^ i] else o.aux
            log := [] }
        if w.ended.isSome then set (note s w)
        else match w.step ⟨.core (s.block b).core (s.block b).asid, none⟩ s o.log with
          | .done w s => set (note s w)
          | .more s log => set (s.modOp b t id fun o => { o with log := log })
          | .stop (.miss x) =>
            let s := s.modOp b t id fun o => { o with faulted := true }
            let f : PFault := { asid := x.asid, va := x.va / 4096 * 4096, kind := 3, readOnly := false, who := .walk b t id,
                                t := t, pc := o.pc, addr := x.va, op := some id }
            set { s with faults := s.faults ++ [f] }
          | .stop (.poison va) =>
            set (s.modTeam b t fun m => (m.retireOp { o with els := [], writes := [] }).delay .ecc o.pc va)
          | .stop _ => stop (.fault .notEnabled)
    | _ => stop (.fault .notEnabled)

/-- The page that the first unfinished walk of an instruction needs was declined: FAULT with `detail` 0x12 (R399). -/
def Op.walkDeclined (o : Op) : Op :=
  match o.walks.findIdx? (·.ended.isNone) with
  | some i => { o with faulted := false, log := [], walks := o.walks.zipIdx.map fun (w, j) => if j = i then w.fin codeFault 0x12 else w }
  | none => { o with faulted := false }

end Sys2Proof.Machine
end

