-- ==== Sys2Proof/Machine/Shade.lean ====
section
/-! DEFINITION. Identifiers and tables (14 R356, R371, R372), barycentrics and attributes (R378-R381), textures and images
(R382-R384). -/
namespace Sys2Proof.Machine
open Sys2Proof

/-- A value no rule gives. -/
def uFree : U Word := do
  let s ← get
  set { s with free := s.free + 1 }
  pure (Config.freeWord s.free)

def vW (w : Word) : Val := fmtF32.val w.toNat
/-- rnd(·, `f32`, RNE, 0). -/
def rw32 (v : Val) : Word := BitVec.ofNat 32 (fmtF32.rnd v 0 false 0).bits
def rv32 (v : Val) : Val := vW (rw32 v)
def natVal (n : Nat) : Val := .fin false n 0
/-- An exact sum of products. -/
def sumProds (ps : List (Val × Val)) : Val := sumVals 0 (ps.map fun p => Val.mul p.1 p.2)
def ones32 : Word := 0xFFFFFFFF

/-! ## Identifiers and tables (R356, R372) -/

/-- A view record read at an address, as far as its first 96 bytes go. -/
def viewOfBytes (r : List Byte) (addr asid suite : Nat) : View :=
  { id := 0, addr := addr, asid := asid, suite := suite, record := r, room := field r 84 1 % 8 }
def uView (via : Via) (addr : Nat) : U View := do
  let r ← uRead via addr 96
  let s ← get
  pure (viewOfBytes r addr (via.asid s) (s.suiteOfAsid (via.asid s)))

/-- What an identifier names: instance, cluster, triangle number, material; the instance's entry. -/
structure Named where
  inst : Nat
  cluster : Nat
  tri : Nat
  mat : Nat
  entry : List Byte

/-- Instance, cluster and triangle fields of an identifier. -/
def splitId (lay ident : Nat) : Nat × Nat × Nat :=
  (ident / 2 ^ (idC lay + idT lay), ident / 2 ^ idT lay % 2 ^ idC lay, ident % 2 ^ idT lay)

/-- The tables' answer for an identifier (R371, R372). -/
def uNamed (via : Via) (itable lay ident : Nat) : U Named := do
  let (i, c, t) := splitId lay ident
  let e ← uRead via (itable + 128 * i) 96
  let mbase := field e 88 4
  if idC lay = 0 then pure ⟨i, c, t, mbase, e⟩
  else do
    let k ← uRead via (field e 80 8 + 8 * c) 8
    pure ⟨i, c, field k 0 4 + t, mbase + field k 4 2, e⟩

/-- A material's word, if it is valid (R372). -/
def uMaterial (via : Via) (mtable mcount mat : Nat) : U (Option Nat) :=
  if mcount ≤ mat then pure none
  else do
    let w ← uWord via (mtable + 4 * mat)
    pure (if w.getLsbD 31 then some w.toNat else none)

/-- The identifier of a register pair under a layout; a compact one takes the low word. -/
def pairId (lay : Nat) (lo hi : Word) : Nat := if bit lay 31 then lo.toNat + hi.toNat * 2 ^ 32 else lo.toNat
def isEmptyId (lay ident : Nat) : Bool := ident == emptyId (bit lay 31)

/-! ## Pixel records (R373) -/

inductive RecKind where
  | raster
  | coarse
  | ray
  | empty
  deriving DecidableEq, Repr

def recKind (r : List Word) : RecKind :=
  let w := (r.getD 0 0).toNat
  if r.all (· == ones32) then .empty else if bit w 31 then .ray else if bit w 14 then .coarse else .raster
/-- `cw` and `ch` of a rate code (R374). -/
def rateSize (code : Nat) : Nat × Nat := [(1, 1), (2, 1), (1, 2), (2, 2), (4, 2), (2, 4), (4, 4)].getD code (1, 1)
def recSize (r : List Word) : Nat × Nat :=
  if recKind r = .coarse then rateSize (bits (r.getD 1 0).toNat 18 16) else (1, 1)
def recX (r : List Word) : Nat := bits (r.getD 0 0).toNat 13 0
def recY (r : List Word) : Nat := bits (r.getD 0 0).toNat 29 16
def recHelper (r : List Word) : Bool := bit (r.getD 0 0).toNat 15
def recId (lay : Nat) (r : List Word) : Nat :=
  if recKind r = .ray then (r.getD 1 0).toNat else pairId lay (r.getD 2 0) (r.getD 3 0)
def emptyRec : List Word := fill 4 ones32

/-- `QUADSYN` (R378). -/
def quadsynWord (r : List Word) : Word :=
  match recKind r with
  | .ray => ones32
  | .empty => ones32
  | _ =>
    let (cw, ch) := recSize r
    BitVec.ofNat 32 (recX r / cw % 2 + 2 * (recY r / ch % 2) + 4 * b2n (recHelper r) + 8 * b2n (recKind r == .coarse))

/-! ## BARY (R379, R380) -/

/-- λ and its derivatives, px and py, of a raster or coarse record. -/
def baryRaster (v : View) (r : List Word) (m : List Byte) (ps : List (List Word)) : List Word :=
  let (cw, ch) := recSize r
  let clip (p : List Word) (row : Nat) : Val :=
    rv32 (sumVals 0 (List.zipWith Val.mul ((List.range 4).map fun j => vW (wordAt m (4 * row + j))) (p.map vW ++ [natVal 1])))
  let cs := ps.map fun p => (List.range 4).map (clip p)
  let at_ (j row : Nat) : Val := (cs.getD j []).getD row .nan
  let scr (pos half off sc : Nat) : Val :=
    rv32 (Val.div (sumVals 0 [.fin false (2 * pos + half) (-1), (vW (v.word off)).negate]) (vW (v.word sc)))
  let px := scr (recX r) cw 56 52
  let py := scr (recY r) ch 64 60
  let cross (a b j k : Nat) : Val := rv32 (sumVals 0 [Val.mul (at_ j a) (at_ k b), (Val.mul (at_ j b) (at_ k a)).negate])
  let es := [(1, 2), (2, 0), (0, 1)].map fun (j, k) => (cross 1 3 j k, cross 3 0 j k, cross 0 1 j k)
  let as := es.map (·.1)
  let bs := es.map (·.2.1)
  let e := es.map fun (a, b, c) => rv32 (sumVals 0 [Val.mul a px, Val.mul b py, c])
  let sum := rv32 (sumVals 0 e)
  let lam := e.map fun x => rw32 (Val.div x sum)
  let der (n : Nat) (xs : List Val) (sc : Nat) : List Word := (xs.zip lam).map fun (x, l) =>
    rw32 (Val.div (Val.mul (natVal n) (sumVals 0 (x :: xs.map fun y => (Val.mul (vW l) y).negate)))
      (Val.mul sum (vW (v.word sc))))
  lam ++ der cw as 52 ++ der ch bs 60 ++ [rw32 px, rw32 py]

/-- The barycentric block of one lane. -/
def baryLane (via : Via) (v : View) (lay : Nat) (r : List Word) : U (List Word) :=
  if recKind r = .empty then pure (fill 16 ones32)
  else do
    let n ← uNamed via v.itable lay (recId lay r)
    let vstride := field n.entry 92 2
    let ix ← uRead via (field n.entry 72 8 + 12 * n.tri) 12
    let vs := [wordAt ix 0, wordAt ix 1, wordAt ix 2]
    let ps ← vs.mapM fun i => do
      let p ← uRead via (field n.entry 64 8 + i.toNat * vstride) 12
      pure [wordAt p 0, wordAt p 1, wordAt p 2]
    let w ← if recKind r = .ray then do
        let u := r.getD 2 0
        let t := r.getD 3 0
        let l0 := rw32 (sumVals 0 [natVal 1, (vW u).negate, (vW t).negate])
        let x ← uFree
        let y ← uFree
        pure ([l0, u, t] ++ fill 6 0 ++ [x, y])
      else pure (baryRaster v r n.entry ps)
    let g (i : Nat) : Word := w.getD i 0
    let x (i : Nat) : Word := vs.getD i 0
    pure [g 0, g 1, g 2, BitVec.ofNat 32 n.inst, g 3, g 4, g 5, x 0, g 6, g 7, g 8, x 1, x 2, BitVec.ofNat 32 n.mat, g 9, g 10]

/-! ## Attributes (R381) -/

/-- Attribute words `k` to `k` + `n` - 1 of the three vertices of a block, or none for a block without an instance. -/
def attrWords (via : Via) (v : View) (blk : List Word) (k n : Nat) : U (Option (List (List Word))) := do
  let inst := blk.getD 3 0
  if inst = ones32 then pure none
  else do
    let e ← uRead via (v.itable + 128 * inst.toNat) 96
    let ws ← [7, 11, 12].mapM fun i => do
      let r ← uRead via (field e 64 8 + (blk.getD i 0).toNat * field e 92 2 + 4 * k) (4 * n)
      pure ((List.range n).map (wordAt r))
    pure (some ws)

/-- The sum of three weights times an attribute word of each vertex. -/
def weighed (ws : List (List Word)) (wt : List Word) (m : Nat) : Word :=
  rw32 (sumProds ((wt.zip ws).map fun (l, a) => (vW l, vW (a.getD m 0))))
def canon32 : Word := BitVec.ofNat 32 fmtF32.canon

def attrLane (via : Via) (v : View) (blk : List Word) (k n : Nat) (deriv : Bool) : U (List Word) := do
  match ← attrWords via v blk k n with
  | none => pure (fill (if deriv then 2 * n else n) canon32)
  | some ws =>
    let part (o : Nat) : List Word := (List.range n).map (weighed ws ((blk.drop o).take 3))
    pure (if deriv then part 4 ++ part 8 else part 0)

/-! ## Textures (R382, R383) -/

def texW (r : List Byte) : Nat := field r 8 2
def texH (r : List Byte) : Nat := field r 10 2
def texLevels (r : List Byte) : Nat := field r 12 1
def texFmt (r : List Byte) : Nat := field r 13 1
def texSmp (r : List Byte) (i : Nat) : Bool := bit (field r 14 1) i
/-- The descriptor's fields are in range. -/
def texOk (r : List Byte) : Bool :=
  let dim (x : Nat) : Bool := decide (1 ≤ x) && decide (x ≤ 16384)
  dim (texW r) && dim (texH r) && decide (texFmt r ≤ 3) && decide (1 ≤ texLevels r) && decide (texLevels r ≤ 15) &&
    decide (texLevels r ≤ 1 + Nat.log2 (max (texW r) (texH r)))
/-- Bytes of a texel. -/
def texelBytes (fmt : Nat) : Nat := [4, 8, 16, 4].getD fmt 4
def levelSize (r : List Byte) (l : Nat) : Nat × Nat := (max 1 (texW r / 2 ^ l), max 1 (texH r / 2 ^ l))
/-- The address of a level. -/
def levelBase (r : List Byte) (l : Nat) : Nat :=
  field r 0 8 + texelBytes (texFmt r) * ((List.range l).map fun i => (levelSize r i).1 * (levelSize r i).2).sum

/-- A channel of a texel: n / 255, or a value. -/
inductive Channel where
  | n8 (n : Nat)
  | val (v : Val)
  deriving DecidableEq, Repr

/-- The four channels of a texel's bytes. -/
def channelsOf (fmt : Nat) (b : List Byte) : List Channel :=
  match fmt with
  | 0 => (List.range 4).map fun i => .n8 (field b i 1)
  | 1 => (List.range 4).map fun i => .val (fmtF16.val (field b (2 * i) 2))
  | 2 => (List.range 4).map fun i => .val (fmtF32.val (field b (4 * i) 4))
  | _ => [.val (fmtF32.val (field b 0 4)), .val (.fin false 0 0), .val (.fin false 0 0), .val (natVal 1)]

def uTexel (via : Via) (r : List Byte) (l x y : Nat) : U (List Channel) := do
  let (w, _) := levelSize r l
  let n := texelBytes (texFmt r)
  pure (channelsOf (texFmt r) (← uRead via (levelBase r l + (y * w + x) * n) n))

/-- A number as a dyadic value; its denominator is a power of two. -/
def dyadic (q : Q) : Val := .fin (decide (q.n < 0)) q.n.natAbs (-(Nat.log2 q.d : Int))

/-- The weighed sum of a channel over texels (R383). -/
def blend (cs : List (Q × Channel)) : Word :=
  let n8 := cs.filterMap fun (w, c) => match c with | .n8 n => some (w.mul ⟨n, 255⟩) | _ => none
  let vs := cs.filterMap fun (w, c) => match c with | .val v => some (Val.mul (dyadic w) v) | _ => none
  if vs.isEmpty then BitVec.ofNat 32 ((Q.sum n8).f32 0) else rw32 (sumVals 0 vs)

/-- The nearest multiple of 2^-8, ties to even. -/
def round8 (q : Q) : Q :=
  let x := q.mul (Q.ofInt 256)
  let lo := x.floor
  let d := (x.sub (Q.ofInt lo)).sub Q.half
  ⟨if d.pos || (d.isZero && lo % 2 != 0) then lo + 1 else lo, 256⟩

/-- An index of a level's axis, clamped or wrapped. -/
def texIndex (i : Int) (w : Nat) (wrap_ : Bool) : Nat :=
  if wrap_ then (i % (w : Int)).toNat else (clamp i 0 (w - 1)).toNat

/-- The indices of an axis with their weights. -/
def axisTaps (u : Word) (w : Nat) (linear wrap_ : Bool) : U (List (Nat × Q)) :=
  match vW u with
  | .inf neg => if wrap_ then do
      let x ← uFree
      pure [(x.toNat % w, Q.ofInt 1)]
    else pure [(if neg then 0 else w - 1, Q.ofInt 1)]
  | x =>
    let s := ((x.q).getD Q.zero).mul (Q.ofInt w)
    if linear then
      let s := s.sub Q.half
      let f := round8 (s.sub (Q.ofInt s.floor))
      let (i, f) := if f.lt (Q.ofInt 1) then (s.floor, f) else (s.floor + 1, Q.zero)
      pure ([(texIndex i w wrap_, (Q.ofInt 1).sub f)] ++ (if f.isZero then [] else [(texIndex (i + 1) w wrap_, f)]))
    else pure [(texIndex s.floor w wrap_, Q.ofInt 1)]

/-- The levels of a lod with their weights (R383). -/
def levelTaps (r : List Byte) (lod : Word) : List (Nat × Q) :=
  let top := Q.ofInt (texLevels r - 1)
  let q := match vW lod with
    | .nan => Q.zero
    | .inf neg => if neg then Q.zero else top
    | x => Q.min (Q.max ((x.q).getD Q.zero) Q.zero) top
  if texSmp r 1 then
    let l := q.floor
    let f := round8 (q.sub (Q.ofInt l))
    if f.isZero then [(l.toNat, Q.ofInt 1)]
    else if f.lt (Q.ofInt 1) then [(l.toNat, (Q.ofInt 1).sub f), (l.toNat + 1, f)]
    else [(l.toNat + 1, Q.ofInt 1)]
  else [((q.add Q.half).floor.toNat, Q.ofInt 1)]

/-- A sample. -/
def uSample (via : Via) (r : List Byte) (u v lod : Word) : U (List Word) := do
  let taps ← (levelTaps r lod).mapM fun (l, wl) => do
    let (w, h) := levelSize r l
    let xs ← axisTaps u w (texSmp r 0) (texSmp r 2)
    let ys ← axisTaps v h (texSmp r 0) (texSmp r 3)
    let ts ← (ys.flatMap fun y => xs.map fun x => (x, y)).mapM fun (x, y) => do
      let c ← uTexel via r l x.1 y.1
      pure (wl.mul (x.2.mul y.2), c)
    pure ts
  pure ((List.range 4).map fun i => blend (taps.flatten.map fun (w, c) => (w, c.getD i (.n8 0))))

/-- The lod of `TEX` (R383). -/
def texLod (r : List Byte) (a : List Word) : Word :=
  let sq (i : Nat) (n : Nat) : Val := let p := Val.mul (vW (a.getD i 0)) (natVal n); Val.mul p p
  let x := sumVals 0 [sq 2 (texW r), sq 3 (texH r)]
  let y := sumVals 0 [sq 4 (texW r), sq 5 (texH r)]
  let m := if x.isNan || y.isNan then .nan else if x.lt y then y else x
  rw32 (sumVals 0 [rv32 (Val.log2 (rv32 (Val.sqrt m))), vW (wordAt r 4)])

/-- `TEXFETCH`: a texel outside its level reads +0 (R383). -/
def uFetch (via : Via) (r : List Byte) (x yl : Word) : U (List Word) :=
  let l := bits yl.toNat 31 28
  let y := bits yl.toNat 27 0
  let (w, h) := levelSize r l
  if decide (texLevels r ≤ l) || decide (w ≤ x.toNat) || decide (h ≤ y) then pure (fill 4 0)
  else do
    let c ← uTexel via r l x.toNat y
    pure (c.map fun c => blend [(Q.ofInt 1, c)])

/-! ## Images (R384) -/

/-- The bytes of a pixel. -/
def pixelBytes (fmt : Nat) (col : List Word) : List Byte :=
  let c (i : Nat) : Word := col.getD i 0
  let n8 (w : Word) : Nat := match vW w with
    | .nan => 0
    | .inf neg => if neg then 0 else 255
    | .fin neg m e => (clamp (rndint neg (255 * m) e 0 0).1 0 255).toNat
  match fmt with
  | 0 => (List.range 4).map fun i => BitVec.ofNat 8 (n8 (c i))
  | 1 => (List.range 4).flatMap fun i => leBytes 2 (fmtF16.rnd (vW (c i)) 0 false 0).bits
  | 2 => (List.range 4).flatMap fun i => leBytes 4 (c i).toNat
  | _ => leBytes 4 (c 0).toNat

/-- The pixels a record's store reaches. -/
def recPixels (r : List Word) : List (Nat × Nat) :=
  match recKind r with
  | .raster => if recHelper r then [] else [(recX r, recY r)]
  | .coarse =>
    if recHelper r then [] else
      let (cw, ch) := recSize r
      (List.range (cw * ch)).filterMap fun j =>
        if bit (r.getD 1 0).toNat j then some (recX r + j % cw, recY r + j / cw) else none
  | _ => []

/-- `IMGST` of one lane. -/
def uImgst (via : Via) (d : List Byte) (col r : List Word) : U Unit := do
  let n := texelBytes (texFmt d)
  (recPixels r).forM fun (x, y) =>
    if x < texW d ∧ y < texH d then uWrite via (field d 0 8 + (y * texW d + x) * n) (pixelBytes (texFmt d) col) else pure ()

/-! ## What the instructions do once their turn has come -/

/-- The registers that an instruction of a team writes. -/
def unitRun (b t : Nat) (o : Op) (u : UnitOp) : U (List (Nat × Word)) := do
  let each (f : Via → Nat → List Word → U (List Word)) : U (List (Nat × Word)) := do
    let ls ← ((lanesOf o.act).zip o.args).zipIdx.mapM fun ((l, ws), i) => do
      pure (l, ← f (.lane b t l) (o.aux.getD i 0) ws)
    pure (blockWrites o.dests ls)
  let low : Via := .lane b t ((lanesOf o.act).headD 0)
  match u with
  | .xform => xformRun b t o
  | .binpop => each fun via va ws => if ws.isEmpty then pure emptyRec else do
      let r ← uRead via va 16
      pure ((List.range 4).map (wordAt r))
  | .vbdec lay view => do
    let v ← uView low view
    each fun via _ ws => do
      let ident := pairId lay (ws.getD 0 0) (ws.getD 1 0)
      if isEmptyId lay ident then pure (fill 4 ones32)
      else do
        let n ← uNamed via v.itable lay ident
        pure [BitVec.ofNat 32 n.inst, BitVec.ofNat 32 n.cluster, BitVec.ofNat 32 n.tri, BitVec.ofNat 32 n.mat]
  | .bary lay view => do
    let v ← uView low view
    each fun via _ ws => baryLane via v lay ws
  | .attr k n view => do
    let v ← uView low view
    each fun via _ ws => attrLane via v ws k n false
  | .attrd k n view => do
    let v ← uView low view
    each fun via _ ws => attrLane via v ws k n true
  | .tex d => each fun via _ ws => uSample via d (ws.getD 0 0) (ws.getD 1 0) (texLod d ws)
  | .texlod d => each fun via _ ws => uSample via d (ws.getD 0 0) (ws.getD 1 0) (ws.getD 2 0)
  | .texfetch d => each fun via _ ws => uFetch via d (ws.getD 0 0) (ws.getD 1 0)
  | .imgst d => do
    let _ ← each fun via _ ws => do
      uImgst via d (ws.take 4) (ws.drop 4)
      pure []
    pure []

/-! ## Their issue (R358) -/

/-- An instruction joins the team's operations, unless it meets a watch. -/
def Issue.startUnit (k : Issue) (u : UnitOp) (o : Op) : M Unit := do
  let o := { o with kind := .unit u, els := [waitingEl], act := k.act }
  k.watchRun (unitRun k.b k.t o u)
  k.start o

/-- The same, with the words of its lanes' registers. -/
def Issue.unitOp (k : Issue) (u : UnitOp) (d : Option (Opnd × Nat)) (args : Nat → List Word) : M Unit :=
  k.startUnit u { args := k.lanes.map args, dests := match d with | some (d, n) => groupBytes d n | none => [] }
def Issue.regs (k : Issue) (o : Opnd) (n l : Nat) : List Word := (List.range n).map fun i => k.tm.rd o l i

/-- The view binding of the team (R371). -/
def Issue.binding (k : Issue) : M Nat :=
  match k.tm.view with
  | some v => pure v
  | none => trap .illegal

/-- The descriptor at a stash offset, in range (R382). -/
def Issue.texture (k : Issue) (b : Opnd) : M (List Byte) := do
  let off := (k.tm.rd b 0).toNat
  let r ← k.record off 32 32
  trapIf (!texOk r) .illegal off
  pure r

/-- `VBDEC`. -/
def vbdec (k : Issue) (d a : Opnd) : M Unit := do
  let v ← k.binding
  k.unitOp (.vbdec k.tm.vblayout.toNat v) (some (d, 4)) (k.regs a 2)
/-- `BARY`. -/
def baryIns (k : Issue) (d a : Opnd) : M Unit := do
  let v ← k.binding
  k.unitOp (.bary k.tm.vblayout.toNat v) (some (d, 16)) (k.regs a 4)
/-- `QUADSYN`. -/
def quadsyn (k : Issue) (d a : Opnd) : M Unit := k.startValue d 1 fun l _ => quadsynWord (k.regs a 4 l)

/-- The destination of `ATTR` and `ATTRD`: its registers are counted by the selector, so its window and its tags are
checked here (R56, R58, R381). -/
def attrIns (k : Issue) (d a : Opnd) (b : Src) (deriv : Bool) : M Unit := do
  let sel := (k.uni b).toNat
  let kk := bits sel 5 0
  let n := bits sel 10 8
  trapIf (sel != kk + 256 * n || n == 0 || decide (4 < n)) .illegal
  let count := if deriv then 2 * n else n
  let q : Req := ⟨d, count, .dst, false, .v, 4⟩
  trapIf (!q.inWindow k.blk.regs) .regwin
  match k.tm.checkReq q with
  | .free => do
    let v ← k.binding
    k.unitOp (if deriv then .attrd kk n v else .attr kk n v) (some (d, count)) (k.regs a 16)
  | .hazard => trap .hazard
  | .wait => stallM

/-- `TEX`, `TEXLOD`, `TEXFETCH`. -/
def texIns (k : Issue) (d a b : Opnd) (n : Nat) (u : List Byte → UnitOp) : M Unit := do
  let r ← k.texture b
  k.unitOp (u r) (some (d, 4)) (k.regs a n)
/-- `IMGST`. -/
def imgstIns (k : Issue) (d a b : Opnd) : M Unit := do
  let r ← k.texture b
  k.unitOp (.imgst r) none (fun l => k.regs d 4 l ++ k.regs a 4 l)

/-- `BINPOP` (R377). -/
def binpop (k : Issue) (d : Opnd) (a : Src) : M Unit := do
  let off := (k.uni a).toNat
  let r ← k.record off 64 32
  trapIf (bits (field r 0 8) 11 8 != 4) .illegal off
  let view := field r 8 8
  let lay ← k.unit (uWord (.lane k.b k.t (k.lanes.headD 0)) (view + 72))
  let count := field r 24 4
  let taken := field r 36 4
  let n := k.lanes.length
  let at_ (i : Nat) : Option Nat := if taken + i < count then some (field r 16 8 + 16 * (taken + i)) else none
  watchCheck k true false 16 (k.lanes.zipIdx.filterMap fun (l, i) => (at_ i).map fun va => (l, va))
  k.putStash (off + 36) (leBytes 4 (min count (taken + n)))
  k.mod fun m => { m with view := some view, vblayout := lay &&& 0x80FFFFFF }
  k.start { kind := .unit .binpop, els := [waitingEl], dests := groupBytes d 4
            aux := (List.range n).map fun i => (at_ i).getD 0
            args := (List.range n).map fun i => if (at_ i).isSome then [0] else [] }

end Sys2Proof.Machine
end

