-- ==== Sys2Proof/Machine/Tiles.lean ====
section
/-! DEFINITION. Mesh output (14 R359-R363), tile references (R367-R371), and the fixed units: the resolver (R364-R366), the
classify engine (R372-R376) and the write of released tiles. -/
namespace Sys2Proof.Machine
open Sys2Proof

/-- Bits of a layout word that `sr.vblayout` holds (R356). -/
def vbMask (w : Word) : Word := w &&& 0x80FFFFFF

/-! ## MDECL (R357, R359) -/

/-- The views a room tracks. -/
def State.viewsIn (s : State) (r : Nat) : Nat := (s.views.filter (·.room == r)).length

/-- The counts of `MDECL` are in range. -/
def countsOk (counts : Word) : Bool :=
  let nv := bits counts.toNat 8 0
  let np := bits counts.toNat 24 16
  let count (n : Nat) : Bool := decide (1 ≤ n) && decide (n ≤ 256)
  counts.toNat == nv + np * 65536 && count nv && count np

/-- The statuses that counts and a record give by themselves; bad counts go before every read of the record (R359). -/
def declCheck (counts : Word) (bad : Bool) (addr : Nat) : Option Word :=
  if !countsOk counts then some 0xFFFFFFFC
  else if bad then some 0xFFFFFFFD
  else if addr % 64 ≠ 0 then some 0xFFFFFFFE
  else none

/-- A batch is opened for a tracked view, or its view is closed; `none` while a new view finds no room. -/
def State.declare (s : State) (b t addr : Nat) (counts : Word) (record : List Byte) : Option (Word × State) :=
  let x := s.block b
  let openIn (id : Nat) (s : State) : Word × State :=
    let wide := bit (field record 72 4) 31
    (0, s.modTeam b t fun m => { m with
      opened := addNew id m.opened
      batch := some { view := id, nv := bits counts.toNat 8 0, np := bits counts.toNat 24 16, wide := wide } })
  match s.viewAt x.asid addr with
  | some v => if v.closed then some (0xFFFFFFFF, s) else some (openIn v.id s)
  | none =>
    if s.viewsIn (field record 84 1 % 8) < 4 then
      let (id, s) := s.track addr x.asid x.suite record
      some (openIn id s)
    else none

/-- `MDECL`. -/
def mdecl (k : Issue) (d a : Opnd) (b : Src) : M Unit := do
  k.inOrder
  let addr := (k.tm.rdPair a 0).toNat
  let counts := k.uni b
  let s ← get
  let record ← if !countsOk counts then pure [] else match s.viewAt k.blk.asid addr with
    | some v => pure v.record
    | none => k.unit (uRead (.lane k.b k.t (k.lanes.headD 0)) addr 96)
  update (·.submitBatch k.b k.t)
  let s ← get
  let v := viewOfBytes record addr k.blk.asid k.blk.suite
  match declCheck counts (viewBad (s.roomsOf k.blk.suite) v) addr with
  | some w => k.startValue d 1 fun _ _ => w
  | none => match s.declare k.b k.t addr counts record with
    | some (w, s) => do
      set s
      k.startValue d 1 fun _ _ => w
    | none => k.start { kind := .mdecl addr counts.toNat, dests := groupBytes d 1, args := [(List.range 24).map (wordAt record)] }

/-- An operation whose wait is over: its status is written. -/
def State.waitEnds (s : State) (b t : Nat) (o : Op) (w : Word) : State :=
  s.modTeam b t fun m => m.retireOp { o with els := [], writes := [(writeKey (o.dests.headD 96) 0, w)] }

/-- A waiting `MDECL` goes on: a drain ends it, or there is room for its view. -/
def mdeclStep (b t id : Nat) : M Unit := do
  let s ← get
  let x := s.block b
  match (s.team b t).op id with
  | none => stop (.fault .notEnabled)
  | some o => match o.kind with
    | .mdecl addr counts => do
      need x.saved.isNone .notEnabled
      if x.drain then set (s.waitEnds b t o 0xFFFFFFFF)
      else match s.declare b t addr (BitVec.ofNat 32 counts) ((o.args.headD []).flatMap fun w => leBytes 4 w.toNat) with
        | some (w, s) => set (s.waitEnds b t o w)
        | none => stop (.fault .notEnabled)
    | _ => stop (.fault .notEnabled)

/-! ## MOUTV, MOUTP (R360, R363) -/

/-- A field of `sr.mstat` grows by one, saturating at 15. -/
def bumpStat (w : Word) (lo : Nat) : Word :=
  let f := bits w.toNat (lo + 3) lo
  if f = 15 then w else w + BitVec.ofNat 32 (2 ^ lo)

/-- What is wrong with a lane's `MOUTV` or `MOUTP`: the index R360 names. -/
def moutBad (q : Option Batch) (prim : Bool) (i : Nat) (ws : List Word) : Option Nat :=
  match q with
  | none => some i
  | some q =>
    if prim then
      let w := (ws.getD 0 0).toNat
      let vs := [bits w 7 0, bits w 15 8, bits w 23 16]
      if q.np ≤ i then some i
      else match vs.find? fun n => decide (q.nv ≤ n) with
        | some n => some n
        | none =>
          let ident := (ws.getD 1 0).toNat + (if q.wide then (ws.getD 2 0).toNat * 2 ^ 32 else 0)
          if ident = emptyId q.wide then some i else none
    else if q.nv ≤ i then some i else none

/-- A lane's write to the batch. -/
def Batch.out (q : Batch) (prim : Bool) (i : Nat) (ws : List Word) : Batch :=
  if prim then
    let w := (ws.getD 0 0).toNat
    let ident := (ws.getD 1 0).toNat + (if q.wide then (ws.getD 2 0).toNat * 2 ^ 32 else 0)
    { q with prims := Tab.put q.prims i ([bits w 7 0, bits w 15 8, bits w 23 16], ident) }
  else { q with pos := Tab.put q.pos i ws }

def mout (k : Issue) (prim : Bool) (d a : Opnd) : M Unit := do
  let rows := k.lanes.map fun l => ((k.tm.rd a l).toNat, k.regs d 4 l)
  let bad := rows.filterMap fun (i, ws) => moutBad k.tm.batch prim i ws
  match k.blk.meshCheck, bad with
  | true, n :: _ => trap .mesh n
  | _, _ => do
    rows.forM fun (i, ws) =>
      if (moutBad k.tm.batch prim i ws).isSome then
        k.modB fun x => { x with mstat := bumpStat x.mstat (if prim then 12 else 8) }
      else k.mod fun m => { m with batch := m.batch.map fun q => q.out prim i ws }
    k.start { kind := .value }

/-! ## Tiles as teams see them (R368-R370, R451) -/

/-- The pixel of a tile's store as a raster record (R366, R373). -/
def storeRecord (v : View) (t i : Nat) (z : TileSt) : List Word :=
  let (ident, depth) := z.store.getD i (0, 0)
  let x := t % v.tilesX * 32 + i % 32
  let y := t / v.tilesX * 32 + i / 32
  [BitVec.ofNat 32 (x + y * 65536), depth, BitVec.ofNat 32 ident, BitVec.ofNat 32 (ident / 2 ^ 32)]

/-- `VBLD`. -/
def vbld (k : Issue) (d a b : Opnd) : M Unit := do
  let _ ← k.binding
  let h := k.tm.rd b 0
  trapIf (!k.blk.refs.contains h) .prot h.toNat
  let s ← get
  k.startValue d 4 fun l i =>
    let n := (k.tm.rd a l).toNat
    match s.tileOf h with
    | some (v, t, z) => if n < 1024 then (storeRecord v t n z).getD i 0 else ones32
    | none => ones32

/-- What a `TILEACQ` finds now: its answer, with the state in which a reference has been taken; `none` to wait. -/
def State.acquire (s : State) (b view tile : Nat) : Option (Word × State) :=
  match s.viewOf view with
  | none => some (0xFFFFFFFE, s)
  | some v =>
    let z := Tab.find v.tiles tile
    let gone := match z with | none => true | some z => z.phase == .released
    if v.closed && gone then some (0xFFFFFFFE, s)
    else if 8 ≤ (s.block b).refs.length then some (0xFFFFFFFD, s)
    else match z with
      | some z =>
        if z.phase = .resolved ∨ z.phase = .shading then
          some (z.handle, (s.modTile z.handle TileSt.gain).modBlock b fun x => { x with refs := x.refs ++ [z.handle] })
        else none
      | none => none

/-- `TILEACQ`: the tile (tx, ty) of a view by its number; a place outside the target is no tile. -/
def tileacq (k : Issue) (d a : Opnd) (b : Src) : M Unit := do
  let addr := (k.tm.rdPair a 0).toNat
  let at_ := (k.uni b).toNat
  let s ← get
  let v := s.viewAt k.blk.asid addr
  let lay ← match v with
    | some v => pure (BitVec.ofNat 32 v.layout)
    | none => k.unit (uWord (.lane k.b k.t (k.lanes.headD 0)) (addr + 72))
  k.mod fun m => { m with view := some addr, vblayout := vbMask lay }
  let s ← get
  let value (w : Word) : M Unit := k.startValue d 1 fun _ _ => w
  match v with
  | none => value 0xFFFFFFFE
  | some v =>
    let tx := bits at_ 15 0
    let ty := bits at_ 31 16
    let tile := if tx < v.tilesX ∧ ty < v.tilesY then tx + ty * v.tilesX else v.tilesX * v.tilesY
    match s.acquire k.b v.id tile with
    | some (w, s) => do
      set s
      value w
    | none =>
      if k.blk.drain then value 0xFFFFFFFF
      else k.start { kind := .tileAcq v.id tile, dests := groupBytes d 1 }

/-- A waiting `TILEACQ` goes on. -/
def tileacqStep (b t id : Nat) : M Unit := do
  let s ← get
  let x := s.block b
  match (s.team b t).op id with
  | none => stop (.fault .notEnabled)
  | some o => match o.kind with
    | .tileAcq view tile => do
      need x.saved.isNone .notEnabled
      match s.acquire b view tile with
      | some (w, s) => set (s.waitEnds b t o w)
      | none => if x.drain then set (s.waitEnds b t o 0xFFFFFFFF) else stop (.fault .notEnabled)
    | _ => stop (.fault .notEnabled)

/-- `TILEREL`. -/
def tilerel (k : Issue) (a : Src) : M Unit := do
  let h := k.uni a
  if k.blk.refs.contains h then
    update fun s => (s.modTile h TileSt.lose).modBlock k.b fun x => { x with refs := x.refs.erase h }
  else pure ()
  k.start { kind := .value }

/-! ## The resolver (R364-R367) -/

def View.post (v : View) (t : Nat) : Nat := (t % v.tilesX + 2 * (t / v.tilesX)) % 6
def View.tile (v : View) (t : Nat) : Option TileSt := Tab.find v.tiles t
def View.modTile (v : View) (t : Nat) (f : TileSt → TileSt) : View :=
  { v with tiles := v.tiles.map fun (i, z) => (i, if i = t then f z else z) }

/-- The pin slots of a post that are taken. -/
def State.pins (s : State) (r p : Nat) : List Nat :=
  s.views.flatMap fun v => if v.room = r then
    (v.tiles.filter fun (t, z) => z.phase != .opened && v.post t == p).map fun (_, z) => z.slot else []

/-- `TILE_RESOLVE_START`: in ascending tile number, but for tiles whose post has no pin slot free (R364, R367). -/
def tileStart (r id t : Nat) : M Unit := do
  let s ← get
  match s.viewOf id with
  | none => stop (.fault .notEnabled)
  | some v => match v.tile t with
    | none => stop (.fault .notEnabled)
    | some z => do
      let p := v.post t
      need (v.room == r && v.closed && z.phase == .opened &&
        v.tiles.all (fun (i, y) => y.phase != .opened || decide (t ≤ i) || decide (32 ≤ (s.pins r (v.post i)).length))) .notEnabled
      match (List.range 32).find? fun n => !(s.pins r p).contains n with
      | none => stop (.fault .notEnabled)
      | some n =>
        let key := (r * Config.postsPerRoom + p) * 32 + n
        let g := if (Tab.get 0 s.gens key + 1) % 65536 = 0 then 1 else (Tab.get 0 s.gens key + 1) % 65536
        set ({ s with gens := Tab.set 0 s.gens key g }.modView id fun v => v.modTile t fun z => { z with
          phase := .resolving, slot := n, handle := BitVec.ofNat 32 (g * 65536 + r * 4096 + p * 256 + n)
          store := fill 1024 (v.empty, v.clear) })

/-- Keys in ascending order. -/
def keyLt : List Nat → List Nat → Bool
  | [], [] => false
  | [], _ => true
  | _, [] => false
  | x :: xs, y :: ys => if x = y then keyLt xs ys else decide (x < y)

/-- An edge covers (R365). -/
def edgeIn (sg : Bool) (e a b : Q) : Bool :=
  let n (q : Q) : Q := if sg then q.neg else q
  (n e).pos || (e.isZero && ((n a).pos || (a.isZero && (n b).pos)))

/-- The depth of a primitive at a pixel centre it covers. -/
def coverDepth (v : View) (p : Prim) (x y : Nat) : Option Word :=
  let c (i : Nat) : List Q := comps p.verts i
  let q (o : Nat) : Q := (qOf (v.word o)).getD Q.zero
  let centre (n : Nat) : Q := ⟨2 * (n : Int) + 1, 2⟩
  let px := ((centre x).sub (q 56)).div (q 52)
  let py := ((centre y).sub (q 64)).div (q 60)
  let neg := (detOf (c 0) (c 1) (c 3)).isNeg
  let es := (edges (c 0) (c 1) (c 3)).map fun (a, b, k) => (((a.mul px).add (b.mul py)).add k, a, b)
  if es.all fun (e, a, b) => edgeIn neg e a b then
    let ev := es.map (·.1)
    let z := (qDot ev (c 2)).div (qDot ev (c 3))
    let w : Word := BitVec.ofNat 32 (z.f32 0)
    match qOf w with
    | some r => if !r.isNeg && r.le (Q.ofInt 1) then some w else none
    | none => none
  else none

/-- The depth test (R365). -/
def depthPasses (ctl : Nat) (z old : Word) : Bool :=
  match bits ctl 1 0 with
  | 1 => (vW z).lt (vW old) || (vW z).eqv (vW old)
  | 2 => true
  | _ => (vW z).lt (vW old)

/-- A primitive applied to a tile's store. -/
def View.apply (v : View) (t : Nat) (store : List (Nat × Word)) (p : Prim) : List (Nat × Word) :=
  store.zipIdx.map fun ((ident, depth), i) =>
    let x := t % v.tilesX * 32 + i % 32
    let y := t / v.tilesX * 32 + i / 32
    if v.width ≤ x ∨ v.height ≤ y then (ident, depth)
    else match coverDepth v p x y with
      | some z => if depthPasses v.ctl z depth then (p.ident, z) else (ident, depth)
      | none => (ident, depth)

/-- The acquisitions registered for a tile take effect, in block and team order: each keeps its answer until it
completes (R451). -/
def State.serveTile (s : State) (id t : Nat) : State :=
  let waiting : List (Nat × Nat × Op) := s.blocks.flatMap fun (b, x) => x.teams.zipIdx.flatMap fun (m, i) =>
    (m.ops.filter fun o => o.kind == .tileAcq id t).map fun o => (b, i, o)
  waiting.foldl (fun s (b, i, o) => match s.acquire b id t with
    | some (w, s) => s.modOp b i o.id fun o => { o with kind := .value, writes := [(writeKey (o.dests.headD 96) 0, w)] }
    | none => s) s

/-- `TILE_RESOLVED`. -/
def tileResolved (r id t : Nat) : M Unit := do
  let s ← get
  match s.viewOf id with
  | none => stop (.fault .notEnabled)
  | some v => match v.tile t with
    | none => stop (.fault .notEnabled)
    | some z => do
      need (v.room == r && z.phase == .resolving) .notEnabled
      let prims := sortBy (fun (x y : Prim) => keyLt x.key y.key) z.prims
      let store := prims.foldl (v.apply t) z.store
      let s := s.modView id fun v => { (v.modTile t fun z => { z with phase := .resolved, store := store }) with nres := v.nres + 1 }
      set ((s.viewStats id).serveTile id t)

/-! ## The classify engine (R374-R376, R452) -/

/-- A coarse pixel of a tile: its corner, its size, its rate code. -/
structure CoarsePx where
  x : Nat
  y : Nat
  cw : Nat
  ch : Nat
  code : Nat
  deriving DecidableEq, Repr

/-- The coarse pixels of a cell at a corner in the tile. -/
def cellPixels (x y code : Nat) : List CoarsePx :=
  let (cw, ch) := rateSize code
  (List.range (8 / ch)).flatMap fun j => (List.range (8 / cw)).map fun i => ⟨x + i * cw, y + j * ch, cw, ch, if code ≤ 6 then code else 0⟩

/-- The fine pixels of a coarse one, in coverage order. -/
def CoarsePx.fine (c : CoarsePx) : List Nat :=
  (List.range (c.cw * c.ch)).map fun j => c.x + j % c.cw + 32 * (c.y + j / c.cw)

/-- The distinct identifiers it covers, by their lowest fine pixel, with their coverage. -/
def CoarsePx.idents (c : CoarsePx) (empty : Nat) (store : List (Nat × Word)) : List (Nat × Nat) :=
  let ids := c.fine.map fun i => (store.getD i (empty, 0)).1
  ((ids.filter (· != empty)).eraseDups).map fun id =>
    (id, ((ids.zipIdx.filter fun e => e.1 == id).map fun e => 2 ^ e.2).sum)

/-- A bin entry (R373). -/
def CoarsePx.entry (c : CoarsePx) (tx ty : Nat) (store : List (Nat × Word)) (ident cover : Nat) (helper : Bool) : List Byte :=
  let w0 := 32 * tx + c.x + (32 * ty + c.y) * 65536 + 2 ^ 15 * b2n helper
  let depth := (store.getD (c.x + 32 * c.y) (0, 0)).2
  let (w0, w1) := if c.code = 0 then (w0, depth.toNat) else (w0 + 2 ^ 14, cover + c.code * 65536)
  leBytes 4 w0 ++ leBytes 4 w1 ++ leBytes 4 ident ++ leBytes 4 (ident / 2 ^ 32)

/-- The quads of a cell's coarse pixels: groups of four, top-left, top-right, bottom-left, bottom-right. -/
def quadsOf (cs : List CoarsePx) : List (List CoarsePx) :=
  (cs.filter fun c => c.x / c.cw % 2 == 0 && c.y / c.ch % 2 == 0).map fun c =>
    [c, { c with x := c.x + c.cw }, { c with y := c.y + c.ch }, { c with x := c.x + c.cw, y := c.y + c.ch }]

/-- The entries of a quad for a material: as many rounds as its fullest position has identifiers; a position without
one in a round is a helper with the identifier of the round's first. -/
def quadEntries (tx ty : Nat) (store : List (Nat × Word)) (ids : CoarsePx → List (Nat × Nat)) (q : List CoarsePx) : List (List Byte) :=
  let rounds := (q.map fun c => (ids c).length).foldl max 0
  (List.range rounds).flatMap fun n =>
    let first := (firstOf (fun c => (ids c)[n]?) q).getD (0, 0)
    q.map fun c => match (ids c)[n]? with
      | some (id, cover) => c.entry tx ty store id cover false
      | none => c.entry tx ty store first.1 0 true

/-- A read or a write of the engine that it may not make is given up: a page that was declined, a fatal entry, `PROT` or poison
(R375). -/
def classifyLost (declined : List Nat) : UStop → Bool
  | .miss m => match m.why with
    | .fault _ => declined.contains (m.va / 4096 * 4096)
    | _ => true
  | .poison _ => true
  | _ => false

/-- One answer of the tables: the material and its word; none when it is invalid, or its reads are given up (R372, R375). -/
def classifyId (via : Via) (v : View) (declined : List Nat) (ident : Nat) : U (Option (Nat × Nat)) :=
  uTry (classifyLost declined) none do
    let n ← uNamed via v.itable v.layout ident
    let w ← uMaterial via v.mtable v.mcount n.mat
    pure (w.map fun w => (n.mat, w))

/-- The waybill of a bin (R376). -/
def binWaybill (view ents count handle mat flags word : Nat) : List Byte :=
  leBytes 8 (bits word 11 0 * 2 ^ 28 + bits word 27 16 * 2 ^ 16 + 4 * 2 ^ 8 + 2) ++ leBytes 8 view ++ leBytes 8 ents ++
    leBytes 4 count ++ leBytes 4 handle ++ leBytes 4 mat ++ leBytes 4 0 ++ leBytes 4 flags ++ fill 20 0

/-- A bin's waybill goes to its queue, or waits for room; a queue that takes none refuses it. -/
def State.sendBin (s : State) (u : Nat) (word : Nat) (wb : List Byte) : State :=
  let q := bits word 11 0
  if !(s.queue u q).accepts || (s.queue u q).kind != 1 then s.refuse u 2 (field wb 8 8) q
  else if (s.suite u).pushes.any (fun e => e.1 == q) then s.modSuite u fun x => { x with pushes := x.pushes ++ [(q, wb)] }
  else match s.enqueue u q wb with
    | some s => s
    | none => s.modSuite u fun x => { x with pushes := x.pushes ++ [(q, wb)] }

/-- What classifying a tile comes to: entries written, bins to send (material, word, first entry, count, flags), pixels
without a material. -/
def classifyRun (v : View) (t : Nat) (z : TileSt) : U (List (Nat × Nat × Nat × Nat × Nat) × Nat) := do
  let via : Via := .post (v.room * Config.postsPerRoom + v.post t) v.asid
  let tx := t % v.tilesX
  let ty := t / v.tilesX
  let cells := (List.range 16).map fun i => (i % 4 * 8, i / 4 * 8)
  let coded ← cells.mapM fun (x, y) => do
    let gx := 32 * tx + x
    let gy := 32 * ty + y
    if v.ratemap = 0 ∨ v.width ≤ gx ∨ v.height ≤ gy then pure (x, y, 0)
    else do
      let c ← uTry (classifyLost z.declined) [0] (uRead via (v.ratemap + gy / 8 * ceilDiv v.width 8 + gx / 8) 1)
      pure (x, y, ofLe c)
  let pxs := coded.map fun (x, y, c) => cellPixels x y c
  let all := sortBy (fun (a b : CoarsePx) => decide (a.x + 32 * a.y < b.x + 32 * b.y)) pxs.flatten
  let covered := z.store.map (·.1) |>.filter (· != v.empty)
  let named ← (covered.eraseDups).mapM fun id => do
    pure (id, ← classifyId via v z.declined id)
  let matOf (id : Nat) : Option (Nat × Nat) := (named.find? fun e => e.1 == id).bind (·.2)
  let nomat := (covered.filter fun id => (matOf id).isNone).length
  let mats := sortBy (fun (a b : Nat × Nat) => decide (a.1 < b.1)) (named.filterMap (·.2)).eraseDups
  let (_, bins) ← mats.foldlM (fun (acc : Nat × List (Nat × Nat × Nat × Nat × Nat)) (mat, word) => do
    let (pos, bins) := acc
    let ids (c : CoarsePx) : List (Nat × Nat) := (c.idents v.empty z.store).filter fun e => (matOf e.1).any (·.1 == mat)
    let quads := bit word 12
    let ents :=
      if quads then
        let qs := sortBy (fun (a b : List CoarsePx) => match a, b with
          | c :: _, d :: _ => decide (c.x + 32 * c.y < d.x + 32 * d.y)
          | _, _ => false) (pxs.flatMap quadsOf)
        qs.flatMap (quadEntries tx ty z.store ids)
      else all.flatMap fun c => (ids c).map fun (id, cover) => c.entry tx ty z.store id cover false
    let coarse := all.any fun c => c.code != 0 && !(ids c).isEmpty
    uTry (classifyLost z.declined) () (uWrite via pos ents.flatten)
    pure (pos + 16 * ents.length, bins ++ [(mat, word, pos, ents.length, b2n quads + 4 * b2n coarse)])
    ) (v.entbase + (v.post t * 32 + z.slot) * 65536, [])
  pure (bins, nomat)

/-- The classify engine of a post holds no other tile: it is in the middle of one, or waits on a page for it (R375). -/
def State.classifyFree (s : State) (r p id t : Nat) : Bool :=
  s.views.all fun v => v.room != r || v.tiles.all fun (i, z) => v.post i != p || (v.id == id && i == t) || (!z.held && z.log.isEmpty)

/-- `CLASSIFY_TILE`: the engine goes on by one element of its memory, or ends with the tile, whose bins each add one to its count, also
one that its queue refuses (R452; log 71). -/
def classifyTile (r id t : Nat) : M Unit := do
  let s ← get
  match s.viewOf id with
  | none => stop (.fault .notEnabled)
  | some v => match v.tile t with
    | none => stop (.fault .notEnabled)
    | some z => do
      need (v.room == r && !z.taken && !z.held && (z.phase == .resolved || z.phase == .shading) &&
        s.classifyFree r (v.post t) id t) .notEnabled
      match (classifyRun v t z).step s z.log with
      | .more s log => set (s.modView id fun v => v.modTile t fun z => { z with log := log })
      | .stop (.miss m) =>
        let f : PFault := { asid := m.asid, va := m.va / 4096 * 4096, kind := 4, readOnly := m.why == .fault true, who := .classify r id t }
        set { (s.modView id fun v => v.modTile t fun z => { z with held := true }) with faults := s.faults ++ [f] }
      | .stop _ => stop (.fault .notEnabled)
      | .done (bins, nomat) s =>
        let s := bins.foldl (fun (s : State) (mat, word, ents, count, flags) =>
          s.sendBin v.suite word (binWaybill v.addr ents count z.handle.toNat mat flags word)) s
        let n := bins.length
        let s := s.modView id fun v => { (v.modTile t fun z => { z with
          taken := true, count := z.count + n, log := []
          phase := if z.count + n = 0 then .released else .shading }) with nomat := v.nomat + nomat }
        set (s.viewStats id)

/-- `VBOUT_WRITE_DONE`: a released tile's store is written where the view asks, a 32-byte unit at a time; then the tile is FREE (R366,
R367). -/
def vboutDone (r id t : Nat) : M Unit := do
  let s ← get
  match s.viewOf id with
  | none => stop (.fault .notEnabled)
  | some v => match v.tile t with
    | none => stop (.fault .notEnabled)
    | some z => do
      need (v.room == r && z.phase == .released) .notEnabled
      let n := if v.wide then 8 else 4
      let bytes := z.store.flatMap fun (id, d) => leBytes n id ++ leBytes 4 d.toNat
      let at_ := v.vbout + t * 1024 * (n + 4) + z.pos
      let k := unitEnd at_ (at_ + (bytes.length - z.pos)) - at_
      if v.vbout ≠ 0 ∧ z.pos < bytes.length then
        set ((s.roomWrite r v.asid at_ ((bytes.drop z.pos).take k)).modView id fun v => v.modTile t fun z => { z with pos := z.pos + k })
      else set ((s.modView id fun v => { v with tiles := Tab.erase v.tiles t }).untrack id)

/-- `BIN_BATCH`: the room's binning unit takes the oldest batch (R361). -/
def binStep (r : Nat) : M Unit := do
  let s ← get
  match Tab.get [] s.binq r with
  | [] => stop (.fault .notEnabled)
  | x :: rest => set ({ s with binq := Tab.set [] s.binq r rest }.binBatch x)

end Sys2Proof.Machine
end

