-- ==== Sys2Proof/Machine/Hits.lean ====
section
/-! DEFINITION. Ray hits in material bins (15 R405) and traversal batches (15 R407, R408). -/
namespace Sys2Proof.Machine
open Sys2Proof

/-! ## Hit-bin descriptors (R405) -/

/-- A hit to push: its identifier's material and that one's word, the identifier, u, v, the hit number, the lane. -/
structure HitRow where
  mat : Nat
  word : Nat
  ident : Nat
  u : Word
  v : Word
  num : Nat
  lane : Nat
  deriving DecidableEq, Repr

/-- What a descriptor's update comes to: its `cursor` and `dropped`, the entries to store, with the lane and the address of each, the waybills to push. -/
structure HitPlan where
  cursor : Nat
  dropped : Nat
  stores : List (Nat × List Byte) := []
  places : List (Nat × Nat) := []
  pushes : List (Nat × List Byte) := []

def HitRow.entry (h : HitRow) : List Byte :=
  leBytes 4 (2 ^ 31 + h.num % 2 ^ 31) ++ leBytes 4 h.ident ++ leBytes 4 h.u.toNat ++ leBytes 4 h.v.toNat

/-- The groups of a descriptor's hits, by ascending material. -/
def hitPlan (desc : List Byte) (rows : List HitRow) : HitPlan :=
  let mats := sortBy (fun (a b : Nat) => decide (a < b)) ((rows.map (·.mat)).eraseDups)
  mats.foldl (fun (p : HitPlan) mat =>
    let g := rows.filter (·.mat == mat)
    let n := g.length
    if p.cursor + n > field desc 16 4 then { p with dropped := p.dropped + n }
    else
      let at_ := field desc 8 8 + 16 * p.cursor
      let word := (g.head?.map (·.word)).getD 0
      { cursor := p.cursor + n, dropped := p.dropped, stores := p.stores ++ [(at_, g.flatMap HitRow.entry)]
        places := p.places ++ g.zipIdx.map fun (h, i) => (h.lane, at_ + 16 * i)
        pushes := p.pushes ++ [(bits word 11 0, binWaybill (field desc 0 8) at_ n 0 mat 2 word)] })
    { cursor := field desc 20 4, dropped := field desc 24 4 }

/-- The hit of a result block with a hit number, by the tables of a view: none without a material (R405). -/
def uHitRow (via : Via) (v : View) (d : List Word) (num lane : Nat) : U (Option HitRow) := do
  let g (i : Nat) : Nat := (d.getD i 0).toNat
  let ident := identOf v.layout (g 5) (g 6) (g 7)
  if 2 ^ 32 ≤ ident then pure none
  else do
    let n ← uNamed via v.itable v.layout ident
    let w ← uMaterial via v.mtable v.mcount n.mat
    pure (w.map fun w => ⟨n.mat, w, ident, d.getD 2 0, d.getD 3 0, num, lane⟩)

/-- `nomat` of a view record grows: of the tracked view, or in memory, as one element (R355, R405). -/
def uNomat (via : Via) (view n : Nat) : U Unit := do
  if n = 0 then pure ()
  else do
    let s ← get
    match s.viewAt (via.asid s) view with
    | some v => set ((s.modView v.id fun v => { v with nomat := v.nomat + n }).viewStats v.id)
    | none => do
      let _ ← uModify via (view + 104) 4 fun r => leBytes 4 (ofLe r + n)

/-- The hits of some result blocks, each with its hit number and its lane, that have a material. -/
def uHits (via : Via) (desc : List Byte) (rows : List (List Word × Nat × Nat)) : U (List HitRow) := do
  let hits := rows.filter fun (d, _) => bits (d.getD 0 0).toNat 7 0 == codeHit
  if hits.isEmpty then pure []
  else do
    let v ← uView via (field desc 0 8)
    let rs ← hits.mapM fun (d, n, l) => uHitRow via v d n l
    uNomat via (field desc 0 8) (rs.filter (·.isNone)).length
    pure (rs.filterMap id)

/-! ## BINHIT (R405) -/

def binhit (k : Issue) (d a : Opnd) (b : Src) : M Unit := do
  let off := (k.uni b).toNat
  let desc ← k.record off 32 32
  let low : Via := .lane k.b k.t (k.lanes.headD 0)
  let rows ← k.unit (uHits low desc (k.lanes.map fun l => (k.regs d 8 l, (k.tm.rd a l).toNat, l)))
  let p := hitPlan desc rows
  watchCheck k false true 16 (sortBy (fun (a b : LaneAddr) => decide (a.1 < b.1)) p.places)
  k.putStash (off + 20) (leBytes 4 p.cursor ++ leBytes 4 p.dropped)
  if p.stores.isEmpty then k.start { kind := .value }
  else k.start { kind := .binPush p.stores p.pushes, els := [waitingEl] }

/-- A waybill enters its queue when there is room; a queue that takes none refuses it. -/
def State.pushOne (s : State) (u q : Nat) (wb : List Byte) : Option State :=
  if !(s.queue u q).accepts || (s.queue u q).kind != 1 then some (s.refuse u 2 (field wb 8 8) q)
  else if (s.suite u).pushes.any (fun e => e.1 == q) then none
  else s.enqueue u q wb

/-- The entries of a `BINHIT` are stored, then its waybills are pushed, each when its queue has room. -/
def binPushStep (b t id : Nat) : M Unit := do
  let s ← get
  let m := s.team b t
  match m.op id with
  | none => stop (.fault .notEnabled)
  | some o => match o.kind with
    | .binPush stores pushes => do
      need (!o.faulted && (s.block b).saved.isNone && m.earlierTranslated id && m.earlierDone id) .notEnabled
      if !stores.isEmpty then
        let low : Via := .lane b t ((lanesOf o.act).headD 0)
        match (stores.forM fun (va, bytes) => uWrite low va bytes : U Unit).step s o.log with
        | .done _ s => set (s.modOp b t id fun o => { o with kind := .binPush [] pushes, els := [], log := [] })
        | .more s log => set (s.modOp b t id fun o => { o with log := log })
        | .stop (.miss x) => set (s.unitStop b t o x)
        | .stop _ => stop (.fault .notEnabled)
      else match pushes with
        | [] => set (s.modTeam b t (·.retireOp o))
        | (q, wb) :: r => match s.pushOne (s.block b).suite q wb with
          | some s => set (if r.isEmpty then s.modTeam b t (·.retireOp o)
              else s.modOp b t id fun o => { o with kind := .binPush [] r })
          | none => stop (.fault .notEnabled)
    | _ => stop (.fault .notEnabled)

/-! ## Traversal batches (R407, R408) -/

structure BatchCtl where
  rays : Nat
  res : Nat
  trecs : Nat
  hbdesc : Nat
  nrays : Nat
  layout : Nat
  tflags : Nat
  ctl : TraceCtl

def BatchCtl.of (e : List Byte) : BatchCtl :=
  { rays := field e 8 8, res := field e 16 8, trecs := field e 24 8, hbdesc := field e 40 8, nrays := field e 48 4
    layout := field e 56 4, tflags := field e 55 1
    ctl := ⟨field e 32 8, field e 52 2, field e 54 1, field e 55 1 % 16, 0⟩ }

/-- What a step of a batch comes to: its end, one more element, or a stop: a page holds it, a page declined or not to be had gives
`alt`, poison ends it. -/
def State.batchTry {α : Type} (s : State) (j : Nat) (st : BatchSt) (r : URun α) (more : State → ULog → State) (alt : Nat → State)
    (k : α → State → State) : Option State :=
  match r with
  | .done x s => some (k x s)
  | .more s log => some (more s log)
  | .stop (.miss m) => match m.why with
    | .fault _ => if st.declined = some (m.va / 4096 * 4096) then some (alt 0x12) else some (s.stopJob j (.page m))
    | .fatal => some (alt 0x12)
    | _ => some (alt 0x07)
  | .stop (.poison _) => some (s.endJob j 3 0)
  | .stop _ => none

/-- The ray that comes next: fresh, or from its record, where a forced save left it or the batch resumes it. -/
def batchRay (via : Via) (c : BatchCtl) (i : Nat) (again : Option (Nat × Nat)) : U RayWalk := do
  let r ← uRead via (c.rays + 32 * i) 32
  let fresh := c.ctl.start ((List.range 8).map (wordAt r))
  match again with
  | some (used, before) => do
    let z ← uRead via (c.trecs + 128 * i) 128
    pure ({ fresh with ended := none, used := used, before := before }.reload z)
  | none =>
    if bit c.tflags 5 then do
      let z ← uRead via (c.trecs + 128 * i) 128
      if recState z = 1 then pure (c.ctl.resume z 0 0) else pure fresh
    else pure fresh

/-- The result block of a ray whose hit cannot be pushed: FAULT (R401, R408). -/
def faultBlock (r : List Byte) (detail : Nat) : List Byte :=
  if field r 0 1 = codeHit then leBytes 4 (field r 2 2 * 65536 + detail * 256 + codeFault) ++ fill 28 0xFF else r

/-- The hits of a group: their entries are stored, and their waybills wait to be pushed. The descriptor's `cursor` and `dropped` are
updated as one element (R408). -/
def batchHits (via : Via) (c : BatchCtl) (lo hi : Nat) : U (List (Nat × List Byte)) := do
  let desc ← uRead via c.hbdesc 32
  let rows ← ((List.range (hi - lo)).map (· + lo)).mapM fun i => do
    let r ← uRead via (c.res + 32 * i) 32
    pure ((List.range 8).map (wordAt r), i, 0)
  let hits ← uHits via desc rows
  let was ← uModify via (c.hbdesc + 20) 8 fun r =>
    let p := hitPlan (desc.take 20 ++ r ++ desc.drop 28) hits
    leBytes 4 p.cursor ++ leBytes 4 p.dropped
  let p := hitPlan (desc.take 20 ++ was ++ desc.drop 28) hits
  p.stores.forM fun (va, bytes) => uWrite via va bytes
  pure p.pushes

/-- What a ray whose walk has ended does next. -/
def batchStage (via : Via) (c : BatchCtl) (i : Nat) (w : RayWalk) (st : BatchSt) : U (List (Nat × List Byte)) :=
  match st.stage with
  | 0 => do uWrite via (c.trecs + 128 * i) (w.record w.endState); pure []
  | 1 => do uWrite via (c.res + 32 * i) ((w.result c.layout).flatMap fun x => leBytes 4 x.toNat); pure []
  | 2 => batchHits via c (i / 16 * 16) (i + 1)
  | _ => do
    ((List.range (i + 1 - i / 16 * 16)).map (· + i / 16 * 16)).forM fun n => do
      let r ← uRead via (c.res + 32 * n) 32
      if field r 0 1 = codeHit then uWrite via (c.res + 32 * n) (faultBlock r st.detail) else pure ()
    pure []

/-- The batch once the ray's stage is over. -/
def BatchCtl.after (c : BatchCtl) (i : Nat) (st : BatchSt) (ps : List (Nat × List Byte)) : BatchSt × Nat :=
  let group := c.hbdesc != 0 && ((i + 1) % 16 == 0 || i + 1 == c.nrays)
  if st.stage = 0 ∨ (st.stage = 1 ∧ group) then ({ st with stage := st.stage + 1, log := [], declined := none }, i)
  else ({ pushes := ps }, i + 1)

/-- The batch when an access of a ray's stage cannot be made: without its record the ray has FAULT; hits that cannot be pushed give
FAULT to their rays; a result that cannot be written is left out (R408; log 72). -/
def BatchCtl.fails (c : BatchCtl) (i : Nat) (st : BatchSt) (w : RayWalk) (d : Nat) : BatchSt × Nat :=
  match st.stage with
  | 0 => ({ st with walk := some (w.fin codeFault d), stage := 1, log := [], declined := none }, i)
  | 1 => c.after i st []
  | 2 => ({ st with stage := 3, detail := d, log := [], declined := none }, i)
  | _ => ({}, i + 1)

/-- `TRAVERSAL_BATCH_COMPLETE`: the batch goes on by an element, a visit, or a push; with none left it completes, and its successors
are released. -/
def batchStep (j : Nat) : M Unit := do
  let s ← get
  match s.job j with
  | none => stop (.fault .notEnabled)
  | some x => match x.kind with
    | .batch body st => do
      need (s.jobRuns j x && !st.parked) .notEnabled
      let c := BatchCtl.of body
      let via : Via := .core x.core x.asid
      let put (s : State) (st : BatchSt) (pos : Nat) : State := s.modJob j fun x => { x with kind := .batch body st, pos := pos }
      let more (s : State) (log : ULog) : State := put s { st with log := log } x.pos
      let walks (s : State) (w : RayWalk) : State := put s { st with walk := some w, log := [], declined := none, again := none } x.pos
      let answer (r : Option State) : M Unit := match r with | some s => set s | none => stop (.fault .notEnabled)
      match st.pushes, st.walk with
      | (q, wb) :: r, _ => match s.pushOne x.suite q wb with
        | some s => set (put s { st with pushes := r } x.pos)
        | none => stop (.fault .notEnabled)
      | [], none =>
        if c.nrays ≤ x.pos then set (s.endJob j 0 0)
        else answer (s.batchTry j st ((batchRay via c x.pos st.again).step s st.log) more
          (fun d => walks s ((c.ctl.start []).fin codeFault d)) fun w s => walks s w)
      | [], some w =>
        if w.ended.isNone then
          answer (s.batchTry j st (w.step ⟨via, some (bit c.tflags 4)⟩ s st.log) more
            (fun d => walks s (w.fin codeFault d)) fun w s => walks s w)
        else
          let end_ (s : State) (r : BatchSt × Nat) : State := put s r.1 r.2
          answer (s.batchTry j st ((batchStage via c x.pos w st).step s st.log) more
            (fun d => end_ s (c.fails x.pos st w d)) fun ps s => end_ s (c.after x.pos st ps))
    | _ => stop (.fault .notEnabled)

/-- A forced save stops a batch: the walk in progress writes its record with `state` 3, and the batch is taken up again once the drain
is over (R408). -/
def State.parkBatch (s : State) (j : Nat) (x : Job) : Option State :=
  match x.kind with
  | .batch body st =>
    if st.parked || x.ended.isSome then none
    else
      let c := BatchCtl.of body
      let park (s : State) (st : BatchSt) : State := s.modJob j fun x => { x with kind := .batch body { st with parked := true } }
      match st.walk with
      | some w => if w.ended.isSome then some (park s st) else
          match s.engWrite x.core x.asid (c.trecs + 128 * x.pos) (w.record 3) with
          | .ok s => some (park s { st with walk := none, log := [], again := some (w.used, w.before) })
          | .error _ => none
      | none => some (park s st)
  | _ => none

end Sys2Proof.Machine
end

