-- ==== Sys2Proof/Machine/Ranges.lean ====
section
/-! DEFINITION. Range preparation (13 R336): pages made present, host pages moved into device memory. -/
namespace Sys2Proof.Machine
open Sys2Proof

/-- A physical run of `size` bytes in a room of the suite, aligned to its size; which one no rule says. -/
def State.takePage (s : State) (u size : Nat) : Option (Nat × State) :=
  let rooms := s.roomsOf u
  (Config.freePage s.free).bind fun n => (rooms[n % rooms.length]?).map fun r =>
    (r * Config.roomBytes + n / rooms.length % (s.roomSize r / size) * size, { s with free := s.free + 1 })

/-- A table entry is written. -/
def State.putEntry (s : State) (asid ea e : Nat) : State := s.agentWrite engineRank ea (leBytes 8 e) asid

/-- The index of an address at a level (07 R191). -/
def levelIndex (va : Nat) : Nat → Nat
  | 3 => bits va 55 42
  | 2 => bits va 41 29
  | 1 => bits va 28 21
  | _ => bits va 20 12

/-- The page of an address becomes present: tables that are missing are made, zeroed; the leaf takes `W`. -/
def State.mapFrom (s : State) (u asid va : Nat) (w : Bool) : Nat → Nat → Option State
  | 0, _ => none
  | lv + 1, table =>
    let ea := table + levelIndex va lv * 8
    let e := ofLe (s.devRead ea 8)
    if lv = 0 then (s.takePage u 4096).map fun (pa, s) => s.putEntry asid ea (pa + 2 * b2n w + 1)
    else if bit e 0 then s.mapFrom u asid va w lv (bits e 51 12 * 4096)
    else
      let size := if lv = 3 then 65536 else 4096
      match s.takePage u size with
      | none => none
      | some (pa, s) =>
        let s := ((s.agentWrite engineRank pa (fill size 0) asid).putEntry asid ea (pa + 1))
        s.mapFrom u asid va w lv pa

/-- The leaf entries that map an address: the first one's place, how many, the entry. -/
def State.leafAt (s : State) (va : Nat) : Nat → Nat → Option (Nat × Nat × Nat)
  | 0, _ => none
  | lv + 1, table =>
    let idx := levelIndex va lv
    let e := ofLe (s.devRead (table + idx * 8) 8)
    if lv = 0 then
      if bit e 6 then some (table + idx / 16 * 16 * 8, 16, e) else some (table + idx * 8, 1, e)
    else if bit e 5 then some (table + idx * 8, 1, e)
    else s.leafAt va lv (bits e 51 12 * 4096)

/-- A host page moves into device memory: its bytes, its entries, and the translations of it (07 R191, R194). -/
def State.migrate (s : State) (u asid root : Nat) (pg : Page) : Option State :=
  match s.leafAt pg.base 4 root, s.takePage u pg.size with
  | some (ea, n, e), some (pa, s) =>
    let s := s.agentWrite engineRank pa (readBytes s.hostMem pg.pa pg.size) asid
    let e' := e - bits e 51 12 * 4096 - 128 + pa
    some (((List.range n).foldl (fun s i => s.putEntry asid (ea + 8 * i) e') s).invalidate asid (some pg.base))
  | _, _ => none

/-- One page of a range. -/
def State.preparePage (s : State) (u asid va intent : Nat) : Option State :=
  match Tab.find s.roots asid with
  | none => none
  | some root => match s.walk asid va with
    | .fatal => none
    | .absent => s.mapFrom u asid va (bit intent 1) 4 root
    | .page pg => if bit intent 2 && pg.h then s.migrate u asid root pg else some s

/-- The ranges of a launch: base, pages, intent. -/
def State.prepare (s : State) (u asid : Nat) (ranges : List (Nat × Nat × Nat)) : Option State :=
  ranges.foldlM (fun s (base, pages, intent) =>
    (List.range pages).foldlM (fun s i => s.preparePage u asid (base + 4096 * i) intent) s) s

end Sys2Proof.Machine
end

