-- ==== Sys2Proof/Machine/Ostler.lean ====
section
/-! DEFINITION. The ostler (13 R331-R350): what it reads of launch records and waybills, its candidates and their order,
placing blocks, starting engine jobs, retirement. -/
namespace Sys2Proof.Machine
open Sys2Proof

/-! ## Launch records (R335) -/

/-- What a launch asks for: its record's header, its ranges, its channel entries, its waybill. -/
structure Asked where
  record : List Byte
  ranges : List (Nat × Nat × Nat) := []
  chtab : List Byte := []
  waybill : Option (List Byte) := none
  deriving DecidableEq, Repr

def recTeams (r : List Byte) : Nat := field r 40 1
def recRegs (r : List Byte) : Nat := field r 41 1
def recCtl (r : List Byte) : Nat := field r 42 1
def recStash (r : List Byte) : Nat := field r 36 4
def recBlocks (r : List Byte) : Nat := field r 32 4
def recHandler (r : List Byte) : Nat := field r 48 2
def recMtx (r : List Byte) : Bool := bit (recCtl r) 5

/-- The rooms that a launch may use. -/
def State.recRooms (s : State) (u : Nat) (r : List Byte) : List Nat :=
  let m := field r 44 1
  (s.roomsOf u).filter fun k => m == 0 || bit m k

/-- A range entry, or none where it is bad. -/
def rangeEntry (r : List Byte) (o : Nat) : Option (Nat × Nat × Nat) :=
  if field r o 8 % 4096 ≠ 0 ∨ field r (o + 12) 1 / 8 ≠ 0 ∨ field r (o + 13) 3 ≠ 0 then none
  else some (field r o 8, field r (o + 8) 4, field r (o + 12) 1)

/-- The header's fields are in range and its reserved bits 0 (R335; 02 R66). -/
def recordOk (rooms : List Nat) (r : List Byte) : Bool :=
  decide (1 ≤ recTeams r) && decide (recTeams r ≤ 64) && decide (recRegs r % 8 = 0) && decide (8 ≤ recRegs r) &&
    decide (recRegs r ≤ 96) && decide (recStash r ≤ 262144) && decide (1 ≤ recBlocks r) &&
    decide (1 ≤ field r 45 1) && decide (field r 45 1 ≤ 16) && decide (field r 43 1 ≤ 8) && decide (field r 52 1 ≤ 64) &&
    decide (recCtl r / 64 = 0) && decide (field r 53 11 = 0) && decide (field r 46 2 / 1024 = 0) &&
    decide (bits (recHandler r) 14 12 = 0) && decide (field r 50 2 / 4096 = 0) && decide (field r 8 8 ≠ 0) &&
    (List.range 8).all fun k => !bit (field r 44 1) k || rooms.contains k

/-- A record or template at hand becomes what it asks for; a bad one gives code 2. A record that no empty core could hold has a field
out of R335's range, and is refused for that field: code 2, not 1 (log 103). -/
def State.askedOf (s : State) (u : Nat) (r : List Byte) (wb : Option (List Byte)) : Except Nat Asked :=
  if !recordOk (s.roomsOf u) r then .error 2
  else
    let n := field r 43 1
    let ranges := (List.range n).filterMap fun i => rangeEntry r (64 + 16 * i)
    let tab := (s.ostRead u (field r 24 8) (8 * field r 52 1)).1
    if ranges.length ≠ n ∨ (List.range (field r 52 1)).any (fun i => decide (field tab (8 * i + 4) 1 > 3) || decide (field tab (8 * i + 5) 3 ≠ 0)) then .error 2
    else match wb with
      | some w => if recStash r < w.length then .error 5
          else .ok { record := r.take 64, ranges := ranges, chtab := tab, waybill := wb }
      | none => .ok { record := r.take 64, ranges := ranges, chtab := tab }

/-- The template a kernel waybill names, if its entry is not 0. -/
def State.template (s : State) (u idx : Nat) : Option (List Byte) :=
  let e := field (s.ostRead u ((s.suite u).used.ktable.toNat + 8 * idx) 8).1 0 8
  if e = 0 then none
  else
    let h := (s.ostRead u e 64).1
    some (h ++ (s.ostRead u (e + 64) (16 * min 8 (field h 43 1))).1)

/-- What the head of a queue asks for, if it is a launch: a record, or a waybill of kind 0, 1 or 4 (R340, R341). -/
def State.asked (s : State) (u q : Nat) (e : List Byte) : Except Nat Asked :=
  if (s.queue u q).kind = 0 then s.askedOf u e none
  else
    let w := Waybill.of e
    if w.malformed then .error 5
    else match s.template u w.index with
      | none => .error 4
      | some r => s.askedOf u r (some (e.take (32 * w.len)))

/-- The head starts an engine job or a traversal batch. -/
def isEngine (kind : Nat) (e : List Byte) : Bool :=
  kind == 1 && ((Waybill.of e).kind == 2 || (Waybill.of e).kind == 3) && !(Waybill.of e).malformed

/-! ## Candidates (R339) -/

inductive Cand where
  | head (q : Nat)
  | launch (l : Nat)
  | saved (b : Nat)
  deriving DecidableEq, Repr

/-- What the order of candidates rests on. -/
structure CandInfo where
  cand : Cand
  queue : Nat
  level : Nat
  enq : Nat
  rooms : List Nat
  pinned : Option Nat
  overdue : Option Nat
  deriving DecidableEq, Repr

/-- When the head entered its queue. -/
def Queue.headTick (q : Queue) : Nat :=
  match q.segs.find? fun x => !x.skip with
  | some g => g.tick
  | none => 0

/-- The head entry came as a remote invocation (R351). -/
def Queue.headPacket (q : Queue) : Bool := (q.segs.find? fun x => !x.skip).any (·.packet)

/-- The head of a queue that the ostler consumes. -/
def State.headCand (s : State) (u q : Nat) : Option CandInfo :=
  let x := s.queue u q
  if !(x.enabled && !x.byTeams && decide (x.kind < 2)) then none
  else match (s.headEntry u q).1 with
    | none => none
    | some e =>
      let level := if x.kind = 0 then recCtl e % 8
        else if x.headPacket then bits (field e 8 8) 17 16 else x.level
      let rooms := match s.asked u q e with
        | .ok a => if isEngine x.kind e then s.roomsOf u else s.recRooms u a.record
        | .error _ => s.roomsOf u
      some { cand := .head q, queue := q, level := level, enq := x.headTick, rooms := rooms
             pinned := x.pinned, overdue := x.overdue }

/-- The suite's started launches with blocks to place. -/
def State.launchCands (s : State) (u : Nat) : List CandInfo :=
  s.launches.filterMap fun (l, x) =>
    if x.suite = u ∧ x.next < recBlocks x.record then
      some { cand := .launch l, queue := x.queue, level := x.level, enq := x.enq, rooms := s.recRooms u x.record
             pinned := x.pinned, overdue := x.overdue }
    else none

def State.cands (s : State) (u : Nat) : List CandInfo :=
  s.launchCands u ++ (s.suite u).queues.filterMap fun e => s.headCand u e.1

/-- A saved block that no page, drain or `CSAVE` keeps from its restore (R350). -/
def State.restorable (s : State) (b : Nat) : Bool :=
  let x := s.block b
  x.saved.isSome && !x.parked && !s.faults.any fun f => f.who == .block b

/-- The rooms a saved block may return to. -/
def Block.backRooms (x : Block) : List Nat := [roomOfCore x.core]

/-- The suite's restorable blocks, the one saved first at the front. -/
def State.savedCands (s : State) (u : Nat) : List (Nat × Block) :=
  sortBy (fun a b => decide (a.2.savedAt < b.2.savedAt)) (s.blocks.filter fun (b, x) => x.suite == u && s.restorable b)

def ageTicks : Nat := 2 ^ 20
def pinTicks : Nat := 2 ^ 22

/-- `eff` of R339. -/
def CandInfo.eff (c : CandInfo) (tick : Nat) : Nat := c.level - (tick - c.enq) / ageTicks
/-- When the candidate's effective level came to 0. -/
def CandInfo.zero (c : CandInfo) : Nat := c.enq + c.level * ageTicks

/-- The candidate is held, so that its consumers' queue drains first. -/
def Queue.held (q : Queue) (tick : Nat) : Bool :=
  match q.hold with
  | some h => !q.holdSpent && decide (tick < h + ageTicks)
  | none => false

/-- The deadline of a frame-critical queue, if its head scans (R348). -/
def State.deadlineOf (s : State) (q : Queue) : Option Int :=
  let h : Head := Tab.get {} s.heads q.dhead
  if h.dctl.getLsbD 0 then some ((h.dnext.toNat : Int) - q.offset) else none

def before (a b : Option Int × Nat) : Bool :=
  match a.1, b.1 with
  | some x, some y => decide (x < y) || (decide (x = y) && decide (a.2 < b.2))
  | some _, none => true
  | none, some _ => false
  | none, none => decide (a.2 < b.2)

/-- The order in which the pick takes candidates, with the level at which a queue is served (R339). -/
def State.pickOrder (s : State) (u : Nat) : List (Cand × Option (Nat × Nat)) :=
  let x := s.suite u
  let cs := s.cands u
  let overdue := sortBy (fun a b => decide (a.overdue.getD 0 < b.overdue.getD 0)) (cs.filter (·.overdue.isSome))
  let o := overdue.head?
  let saved := (s.savedCands u).map fun (b, y) => (b, y.savedAt)
  let since := (o.bind (·.overdue)).getD (s.tick + 1)
  let first := saved.filter fun e => decide (e.2 < since)
  let later := saved.filter fun e => !decide (e.2 < since)
  let rest := cs.filter fun c => some c.cand != o.map (·.cand) && !(x.queue c.queue).held s.tick
  let fc := sortBy (fun a b => before (s.deadlineOf (x.queue a.queue), a.queue) (s.deadlineOf (x.queue b.queue), b.queue))
    (rest.filter fun c => (x.queue c.queue).critical)
  let eff (c : CandInfo) : Nat := if (x.queue c.queue).high && !(x.queue c.queue).byTeams then 0 else c.eff s.tick
  let turn (c : CandInfo) : Nat := match Tab.find x.served (eff c) with
    | some q => (c.queue + 4095 - q) % 4096
    | none => c.queue
  let others := sortBy (fun a b => decide (eff a < eff b) || (decide (eff a = eff b) && decide (turn a < turn b)))
    (rest.filter fun c => !(x.queue c.queue).critical)
  first.map (fun e => (.saved e.1, none)) ++ (o.toList.map fun c => (c.cand, none)) ++
    later.map (fun e => (.saved e.1, none)) ++ fc.map (fun c => (c.cand, none)) ++
    others.map fun c => (c.cand, some (eff c, c.queue))

/-- A candidate may be placed in a room: pinned and overdue candidates keep the rooms they may use. Among pinned candidates the one
pinned first goes first, and none of them keeps back the candidate that became overdue first: R339 bounds every wait, which
candidates that keep one another back would not (log 104). -/
def State.roomFree (s : State) (u r : Nat) (c : Cand) : Bool :=
  let cs := s.cands u
  let late := sortBy (fun a b => decide (a.overdue.getD 0 < b.overdue.getD 0)) (cs.filter (·.overdue.isSome))
  let critical := match cs.find? fun y => y.cand == c with
    | some y => ((s.suite u).queue y.queue).critical
    | none => false
  let isSaved := match c with | .saved _ => true | _ => false
  (late.head?).all (fun o => o.cand == c || !o.rooms.contains r ||
    (match c with | .saved b => decide ((s.block b).savedAt < o.overdue.getD 0) | _ => false)) &&
  let pins := sortBy (fun a b => decide (a.pinned.getD 0 < b.pinned.getD 0)) (cs.filter (·.pinned.isSome))
  (isSaved || critical || (late.head?).any (fun o => o.cand == c) || (pins.takeWhile (·.cand != c)).all fun p => !p.rooms.contains r)

/-! ## Cores (01 R24; R340) -/

/-- Blocks resident on a core. -/
def State.resident (s : State) (c : Nat) : List (Nat × Block) := s.blocks.filter fun (_, x) => x.core == c && x.saved.isNone

/-- The core accepts a block (R24). -/
def State.accepts (s : State) (c teams regs stash : Nat) (mtx : Bool) : Bool :=
  let xs := (s.resident c).map Prod.snd
  let sum (f : Block → Nat) : Nat := (xs.map f).sum
  decide (sum (fun x => x.teams.length * x.regs * 64) + teams * regs * 64 ≤ Config.regFileBytes) &&
    decide (sum (·.teams.length) + teams ≤ Config.teamSlots) && decide (xs.length < Config.maxBlocks) &&
    decide (sum (fun x => roundUp x.stashSize 1024) + roundUp stash 1024 ≤ Config.stashBytes) &&
    (!mtx || decide ((xs.filter (·.usesMtx)).length < Config.matrixContexts))

/-- The cores of a room, from one past the core of its last placement. -/
def State.coreOrder (s : State) (r : Nat) : List Nat :=
  let first := Tab.get 0 s.lastCore r
  ((List.range Config.coresPerRoom).map fun i => r * Config.coresPerRoom + (first + i) % Config.coresPerRoom).filter s.present

def State.coreFor (s : State) (r : Nat) (rec : List Byte) : Option Nat :=
  (s.coreOrder r).find? fun c => s.accepts c (recTeams rec) (recRegs rec) (recStash rec) (recMtx rec)

/-- The free team slots of a core, ascending. -/
def State.freeSlots (s : State) (c : Nat) : List Nat :=
  let used := (s.resident c).flatMap fun (_, x) => x.teams.map (·.slot)
  (List.range Config.teamSlots).filter fun n => !used.contains n

/-- The lowest free resident number of a core. -/
def State.residentNo (s : State) (c : Nat) : Nat :=
  let used := (s.resident c).map fun (_, x) => x.resident
  ((List.range Config.maxBlocks).find? fun n => !used.contains n).getD 0

/-! ## Placing (R340, 02 R57) -/

/-- A team at its start, in service context where its block is one of the service firmware's (16 R410). -/
def freshTeam (slot : Nat) (args : DWord) (bindex blocks : Nat) (e : Entry) (service : Bool) : Team :=
  { slot := slot, frontier := [e], context := if service then .service else .normal
    sregs := Tab.set 0 (Tab.set 0 (Tab.set 0 (Tab.set 0 [] 0 (args.setWidth 32)) 1 ((args >>> 32).setWidth 32)) 2
      (BitVec.ofNat 32 bindex)) 3 (BitVec.ofNat 32 blocks) }

/-- The channel table of a launch. -/
def chansOf (tab : List Byte) : Tab Chan :=
  (List.range (tab.length / 8)).foldl (fun t i =>
    Tab.set {} t i { kind := field tab (8 * i + 4) 1, target := field tab (8 * i) 4 }) []

/-- Where the lane-private area of a block begins (07 R173): an area of its own for each block, of the 16 MiB that 64 teams of
16 KiB a lane take (log 6). -/
def laneArea (b : Nat) : DWord := BitVec.ofNat 64 ((Config.laneOrigin + b) % 2 ^ 32 * 2 ^ 24)

/-- The next block of launch `l` on core `c`, which starts after all that the ostler has seen (08 R210). -/
def State.placeBlock (s : State) (l c : Nat) : State :=
  match Tab.find s.launches l with
  | none => s
  | some x =>
    let r := x.record
    let asid := ostAsid x.suite
    let kernel := field r 0 8
    let (prio, s) := match s.marked c asid kernel with
      | (.ok (some p), s) => (p, s)
      | (_, s) => (0, s)
    let slots := s.freeSlots c
    let e : Entry := { pc := kernel, prio := prio, mask := 0xFFFF }
    let b := s.nextBlock
    let wb := x.waybill.getD []
    let h := if (Waybill.of wb).kind = 4 then BitVec.ofNat 32 (field wb 28 4) else 0
    let s := if h ≠ 0 ∧ x.next ≠ 0 then s.modTile h TileSt.gain else s
    let svc := s.svcQueues.contains (x.suite, x.queue)
    let y : Block :=
      { asid := asid, service := svc, suite := x.suite, core := c, resident := s.residentNo c, regs := recRegs r, stashSize := recStash r
        lpsize := 1024 * field r 45 1, lpbase := laneArea b
        trapvec := field r 8 8, stashhash := BitVec.ofNat 32 (field r 46 2), bindex := x.next
        teams := (List.range (recTeams r)).map fun t =>
          freshTeam (slots.getD t 0) (BitVec.ofNat 64 (field r 16 8)) x.next (recBlocks r) e svc
        stash := writeBytes [] 0 wb, chans := chansOf x.chtab, launch := l, blocks := recBlocks r, kernel := kernel
        frameCrit := (s.queue x.suite x.queue).critical, persistent := bit (recCtl r) 3, meshCheck := bit (recCtl r) 4, usesMtx := recMtx r, lrec := x.addr
        refs := if h = 0 then [] else [h] }
    let all := x.next + 1 ≥ recBlocks r
    let s := s.seeAgents c
    State.trimL1 (c := c) { s with
      blocks := Tab.put s.blocks b y
      nextBlock := b + 1
      lastCore := Tab.set 0 s.lastCore (roomOfCore c) ((c + 1) % Config.coresPerRoom)
      launches := Tab.put s.launches l { x with next := x.next + 1, held := if all then 0 else x.held } }

/-! ## Taking a launch (R336, R340, R341) -/

/-- What becomes of a queue's head. -/
inductive Taken where
  | waits (s : State)
  | refused (s : State)
  | launch (l : Nat) (s : State)

/-- The head is dropped and recorded (R338). -/
def State.refuseHead (s : State) (u q n code : Nat) : State :=
  let x := s.queue u q
  (s.modQueue u q (·.consume n)).refuse u code (x.base + x.head) q

/-- The entry clause's header (R340): marked, or the code that refuses the launch, or a fault to wait for. -/
def State.entryCheck (s : State) (u kernel : Nat) : Option (Option Nat) × State :=
  if kernel ≥ 2 ^ 56 then (some (some 3), s)
  else match s.engRead (ostCore u) (ostAsid u) kernel 4 with
    | .ok (.ok bs, s) => (some (if bit (ofLe bs) 0 then none else some 2), s)
    | .ok (.poison, s) => (some (some 3), s)
    | .error m => match m.why with
      | .fault _ => (none, s)
      | _ => (some (some 3), s)

/-- The head of a queue, a launch record or a kernel waybill, is taken as a launch, or refused. -/
def State.takeHead (s : State) (u q : Nat) (e : List Byte) : Taken :=
  let x := s.queue u q
  let refuse (s : State) (code : Nat) : Taken := .refused (s.refuseHead u q e.length code)
  match s.asked u q e with
  | .error code => refuse s code
  | .ok a =>
    if s.faults.any fun f => f.who == .entry u q then .waits s
    else match s.prepare u (ostAsid u) a.ranges with
    | none => refuse s 3
    | some s =>
      let kernel := field a.record 0 8
      match s.entryCheck u kernel with
      | (none, s) =>
        .waits { s with faults := s.faults ++ [{ asid := ostAsid u, va := kernel / 4096 * 4096, kind := 2, readOnly := false
                                                 who := .entry u q, addr := kernel }] }
      | (some (some code), s) => refuse s code
      | (some none, s) =>
        let h := recHandler a.record
        let idx := bits h 11 0
        let live := if bit h 15 then (s.handlerOf u idx).1.isSome else false
        if live then refuse s 6
        else
          let s := if bit h 15 then
              s.ostWrite u ((s.suite u).used.htable.toNat + 4 * idx) (leBytes 4 (2 ^ 31 + field a.record 50 2))
            else s
          let level := match s.headCand u q with | some c => c.level | none => x.level
          let l := s.nextLaunch
          let n : Launch :=
            { suite := u, record := a.record, chtab := a.chtab, level := level, enq := x.headTick, queue := q
              addr := x.base + x.head, held := if x.kind = 0 then e.length else 0, frameCrit := x.critical
              waybill := a.waybill, handler := if bit h 15 then some idx else none, pinned := x.pinned, overdue := x.overdue }
          .launch l { (s.modQueue u q (·.consume e.length)) with
            launches := Tab.put s.launches l n, nextLaunch := l + 1 }

/-! ## Engine waybills (R337, 15 R407, R408) -/

/-- A traversal batch's payload is good. -/
def batchOk (w : Waybill) (e : List Byte) : Bool :=
  let a (o al : Nat) : Bool := decide (field e o 8 % al = 0) && decide (field e o 8 < 2 ^ 56)
  let res := 32 * w.len - 4 * w.nsucc - 60
  decide (3 ≤ w.len) && decide (1 ≤ field e 48 4) && decide (field e 48 4 ≤ 65536) && a 8 32 && a 16 32 && a 24 128 && a 32 64 &&
    a 40 32 && decide (field e 55 1 / 64 = 0) && decide (bits (field e 56 4) 30 24 = 0) && decide (bits (field e 0 8) 15 12 = 0) &&
    decide (field e 60 res = 0)

/-- The footprint of a batch (R408): its rays, its records and results, its descriptor and the hit area that one names now. -/
def State.batchFoot (s : State) (u : Nat) (e : List Byte) : List Foot :=
  let n := field e 48 4
  let f (lo len : Nat) (rd wr : Bool) : Foot := { lo := lo, len := len, stash := false, rd := rd, wr := wr }
  let h := field e 40 8
  let desc := (s.ostRead u h 32).1
  [f (field e 8 8) (32 * n) true false, f (field e 24 8) (128 * n) true true, f (field e 16 8) (32 * n) false true] ++
    (if h = 0 then [] else [f h 32 true true, f (field desc 8 8) (16 * field desc 16 4) false true])

/-- A job of the suite, started by core `c`'s engines for a waybill. -/
def State.engineJob (s : State) (u c : Nat) (kind : JobKind) (foot : List Foot) (e : List Byte) : State :=
  let j := s.nextJob
  let x : Job := { owner := none, suite := u, core := c, asid := ostAsid u, kind := kind, foot := foot, entry := false
                   waybill := some e }
  let s := { (s.putJob j x) with nextJob := j + 1 }
  match kind with
  | .near sel .. => { s with nearQueue := s.nearQueue ++ [(roomOfCore c, sel, j)] }
  | _ => s

/-- The core after `last` among the suite's. -/
def State.nextUnit (s : State) (u : Nat) : Nat :=
  let cores := ((s.roomsOf u).flatMap fun r => (List.range Config.coresPerRoom).map fun i => r * Config.coresPerRoom + i).filter s.present
  let last := (s.suite u).lastBatch
  match cores.find? fun c => match last with | some l => decide (l < c) | none => true with
  | some c => c
  | none => cores.headD 0

/-- A parked batch goes on, on the unit of the next core of its suite (R408). -/
def State.unparkBatches (s : State) (u : Nat) : State :=
  s.jobs.foldl (fun s (j, x) => match x.kind with
    | .batch body st =>
      if x.suite = u ∧ st.parked then
        let c := s.nextUnit u
        (s.modJob j fun x => { x with core := c, kind := .batch body { st with parked := false } }).modSuite u fun y => { y with lastBatch := some c }
      else s
    | _ => s) s

/-- The head, an engine waybill, starts as a job, by room `r`'s unit. -/
def State.startEngine (s : State) (u q r : Nat) (e : List Byte) : State :=
  let w := Waybill.of e
  let e' := e.take (32 * w.len)
  if w.kind = 3 then
    if !batchOk w e then s.refuseHead u q e.length 2
    else
      let c := s.nextUnit u
      let s := (s.modQueue u q (·.consume e.length)).modSuite u fun x => { x with lastBatch := some c }
      s.engineJob u c (.batch e' {}) (s.batchFoot u e') e'
  else if w.len < 5 then s.refuseHead u q e.length 2
  else
    let card := (e.drop 8).take 128
    (s.modQueue u q (·.consume e.length)).engineJob u (r * Config.coresPerRoom) (cardKind card) (cardFoot card) e'

/-! ## The pick (R339) -/

/-- A queue has been served at a level. -/
def State.noteServed (s : State) (u : Nat) (at_ : Option (Nat × Nat)) : State :=
  match at_ with
  | some (lv, q) => s.modSuite u fun x => { x with served := Tab.put x.served lv q }
  | none => s

/-- The head of queue `q` in room `r`: a launch's first block, or an engine job. -/
def State.placeHead (s : State) (u q r : Nat) : Option State :=
  match (s.headEntry u q).1 with
  | none => none
  | some e =>
    if isEngine (s.queue u q).kind e then some (s.startEngine u q r e)
    else match s.asked u q e with
      | .error code => some (s.refuseHead u q e.length code)
      | .ok a =>
        if !(s.recRooms u a.record).contains r then none
        else match s.coreFor r a.record with
          | none => none
          | some c => match s.takeHead u q e with
            | .waits s' => if s'.faults.length = s.faults.length then none else some s'
            | .refused s => some s
            | .launch l s => some (s.placeBlock l c)

/-- A started launch's next block in room `r`. -/
def State.placeNext (s : State) (u l r : Nat) : Option State :=
  match Tab.find s.launches l with
  | none => none
  | some x =>
    if !(s.recRooms u x.record).contains r then none
    else (s.coreFor r x.record).map fun c => s.placeBlock l c

/-- Dispatch goes on in the suite: enabled, and no drain (R331, R349). -/
def Suite.dispatches (x : Suite) : Bool := x.ctl.getLsbD 0 && x.drainAt.isNone

/-- `LAUNCH_TAKE`: the head of queue `q` that a room picks is taken, and its first block placed; a bad one is refused. -/
def launchTake (u q : Nat) : M Unit := do
  let s ← get
  need (s.suite u).dispatches .notEnabled
  match s.headCand u q, (s.headEntry u q).1 with
  | some _, some e => do
    need (!isEngine (s.queue u q).kind e) .notEnabled
    match s.asked u q e with
    | .error code => set (s.refuseHead u q e.length code)
    | .ok _ => match firstOf (fun r => if s.roomFree u r (.head q) then s.placeHead u q r else none) (s.roomsOf u) with
      | some s => set s
      | none => stop (.fault .notEnabled)
  | _, _ => stop (.fault .notEnabled)

/-- A candidate's wait makes it pinned, then overdue: candidate `c` below 4096 is the head of that queue, above it a
launch. -/
def candOf (c : Nat) : Cand := if c < 4096 then .head c else .launch (c - 4096)

def State.markCand (s : State) (u : Nat) (c : Cand) (pinned overdue : Option Nat) : State :=
  match c with
  | .head q => s.modQueue u q fun x => { x with pinned := pinned, overdue := overdue }
  | .launch l => match Tab.find s.launches l with
    | some x => { s with launches := Tab.put s.launches l { x with pinned := pinned, overdue := overdue } }
    | none => s
  | .saved _ => s

/-- `CANDIDATE_PINNED`. -/
def pinCand (u c : Nat) : M Unit := do
  let s ← get
  match (s.cands u).find? fun x => x.cand == candOf c with
  | some x => do
    need (x.pinned.isNone && decide (x.zero + pinTicks ≤ s.tick)) .notEnabled
    set (s.markCand u x.cand (some s.tick) none)
  | none => stop (.fault .notEnabled)

/-- `CANDIDATE_OVERDUE`. -/
def overdueCand (u c : Nat) : M Unit := do
  let s ← get
  match (s.cands u).find? fun x => x.cand == candOf c with
  | some x => match x.pinned with
    | some p => do
      need (x.overdue.isNone && decide (p + pinTicks ≤ s.tick)) .notEnabled
      set (s.markCand u x.cand (some p) (some s.tick))
    | none => stop (.fault .notEnabled)
  | none => stop (.fault .notEnabled)

/-- `DRAIN_FIRST_HOLD_END`. -/
def holdEnd (u q : Nat) : M Unit := do
  let s ← get
  match (s.queue u q).hold with
  | some h => do
    need (!(s.queue u q).holdSpent && decide (h + ageTicks ≤ s.tick)) .notEnabled
    set (s.modQueue u q fun x => { x with holdSpent := true })
  | none => stop (.fault .notEnabled)

/-! ## Retirement (01 R33; R341, R344) -/

/-- The launch has one block less to wait for; with its last one its handler and its waybill are done. -/
def State.blockDone (s : State) (l : Nat) : State :=
  match Tab.find s.launches l with
  | none => s
  | some x =>
    if x.done + 1 < recBlocks x.record then
      { s with launches := Tab.put s.launches l { x with done := x.done + 1 } }
    else
      let u := x.suite
      let s := { s with launches := Tab.erase s.launches l }
      let s := match x.handler with
        | some i => s.ostWrite u ((s.suite u).used.htable.toNat + 4 * i) (leBytes 4 0)
        | none => s
      match x.waybill with
      | some w => s.doneHandles u (handlesOf w)
      | none => s

/-- A job of the block has not ended. -/
def State.jobsOwed (s : State) (b : Nat) : Bool := s.jobs.any fun (_, j) => j.owner == some b

/-- The block's mapped lines go back to memory. -/
def State.flushMaps (s : State) (b : Nat) : State :=
  (s.block b).maps.foldl (fun s (i, m) => m.dirty.foldl (fun s k => s.writeBack b i k) s) s

/-- The block is gone: what it held goes back, peers' arrivals still on their way are discarded (03 R104), and its launch counts
it. -/
def FaultWho.ofBlock (w : FaultWho) (b : Nat) : Bool :=
  match w with
  | .block q => q == b
  | .seq q => q == b
  | .walk q _ _ => q == b
  | _ => false

def State.retireBlock (s : State) (b : Nat) : State :=
  let x := s.block b
  let s := s.joinClock x.core
  let s' := x.barOps.foldl (fun s m => s.applyDead m.op) ((s.releaseBlock b).flushMaps b)
  let s' := { s' with blocks := Tab.erase s'.blocks b, faults := s'.faults.filter fun f => !f.who.ofBlock b }
  s.drainedCause (s'.blockDone x.launch) x.suite

/-- `BLOCK_RETIRE`: open stamps are retired first (10 R272); then a block whose teams, jobs and programs are over. A block of a
persistent launch retires only in a drain (01 R33; R339, R349; log 105). -/
def blockRetire (b : Nat) : M Unit := do
  let s ← get
  match Tab.find s.blocks b with
  | none => stop (.fault .notEnabled)
  | some x => do
    need (x.saved.isNone && (!x.persistent || x.drain || x.killed.isSome) && x.teams.all (fun m => m.done && m.ops.isEmpty) &&
      (!x.mtx.midway || x.mtx.held) &&
      (x.killed.isSome || (x.fork.isNone && !bit x.mtx.qstat.toNat 31))) .notEnabled
    let opened := (List.range 4).filter fun n => (x.stampAt n).isSome
    if x.killed.isNone && !opened.isEmpty then set (opened.foldl (fun s n => (s.stampRetire b n false { fmt := x.fmtWord, books := x.codebooks } none).2) s)
    else do
      need (!s.jobsOwed b) .notEnabled
      set (s.retireBlock b)

/-! ## Submission, drains (R331, R334, R344, R349) -/

/-- `TAIL_WRITE`. -/
def tailWrite (u q : Nat) (v : DWord) : M Unit := do
  let s ← get
  need (decide (q < 4096)) .notEnabled
  let x := s.queue u q
  let v := v.toNat
  -- a queue that the host writes is none of the service firmware's (16 R410)
  let s := { s with svcQueues := s.svcQueues.filter (· != (u, q)) }
  set s
  let where_ := x.base + (if x.size = 0 then v else v % x.size)
  if !x.hostMade then pure ()
  else if !x.enabled then set (s.refuse u 7 where_ q)
  else
    let n := (v + x.size - x.tail) % x.size
    if v % 32 ≠ 0 ∨ v ≥ x.size ∨ x.total + s.queueHeld u q + n > x.size then set (s.refuse u 7 where_ q)
    else if n = 0 then pure ()
    else set (s.modQueue u q fun x => { x with segs := x.segs ++ [{ len := n, tick := s.tick }] })

/-- `CTL_ENABLE`: the page and the descriptors are read, and dispatch starts. -/
def ctlEnable (u : Nat) : M Unit := do
  let s ← get
  need (!(s.suite u).ctl.getLsbD 0) .notEnabled
  let s := s.modSuite u fun x => { x with used := x.page, ctl := x.ctl ||| 1 }
  set ((List.range 4096).foldl (fun s q => s.loadQueue u q) s)

/-- The block's `sr.drain`; a drain wakes its sleepers (03 R91). -/
def Block.setDrain (x : Block) (on : Bool) : Block :=
  if on then { x with drain := true }.wake else { x with drain := false }

def State.eachBlock (s : State) (u : Nat) (f : Block → Block) : State :=
  { s with blocks := s.blocks.map fun (b, x) => (b, if x.suite = u then f x else x) }

/-- `CTL_DRAIN`: nothing is picked from now on; waits that a drain ends find `sr.drain` set. -/
def ctlDrain (u : Nat) : M Unit := do
  let s ← get
  need (!(s.suite u).ctl.getLsbD 1) .notEnabled
  set ((s.modSuite u fun x => { x with ctl := x.ctl ||| 2, drainAt := some s.tick }).eachBlock u fun x => x.setDrain true)

/-- `CTL_DRAIN_END`: saved blocks become restorable, and dispatch goes on. -/
def ctlDrainEnd (u : Nat) : M Unit := do
  let s ← get
  need ((s.suite u).ctl.getLsbD 1) .notEnabled
  set ((s.modSuite u fun x => { x with ctl := x.ctl &&& ~~~2, drainAt := none }).eachBlock u (fun x => x.setDrain false) |>.unparkBatches u)

/-- `WAYBILL_READY_COPY`: the oldest waiting copy, of the arena or of a unit, whose queue has room now enters it. -/
def readyCopyStep (u : Nat) : M Unit := do
  let s ← get
  let x := s.suite u
  let arena (h : Nat) : Nat := x.used.arena.toNat + 32 * h
  let queueOf (h : Nat) : Nat := (Waybill.of (s.ostRead u (arena h) 8).1).queue
  let first (q : Nat) (qs : List Nat) : Bool := !qs.contains q
  let tryArena := firstOf (fun i => (x.ready[i]?).bind fun h =>
    let q := queueOf h
    if first q ((x.ready.take i).map queueOf) then
      let n := 32 * (Waybill.of (s.ostRead u (arena h) 8).1).len
      (s.enqueue u q (s.ostRead u (arena h) n).1).map fun s => s.modSuite u fun y => { y with ready := y.ready.eraseIdx i }
    else none) (List.range x.ready.length)
  let tryPush := firstOf (fun i => (x.pushes[i]?).bind fun (q, bytes) =>
    if first q ((x.pushes.take i).map Prod.fst) then
      (s.enqueue u q bytes).map fun s => s.modSuite u fun y => { y with pushes := y.pushes.eraseIdx i }
    else none) (List.range x.pushes.length)
  match tryArena, tryPush with
  | some s, _ => set s
  | none, some s => set s
  | none, none => stop (.fault .notEnabled)

end Sys2Proof.Machine
end

