-- ==== Sys2Proof/Machine/Faults.lean ====
section
/-! DEFINITION. The suite's fault queue and what its answers do (07 R196, R477). -/
namespace Sys2Proof.Machine
open Sys2Proof

/-- A fault of the suite that waits on a page: on the entry itself, or not posted yet. -/
def PFault.on (f : PFault) (e : FEntry) : Bool := f.asid == e.asid && f.va == e.va && (f.tag == some e.tag || f.tag.isNone)

/-! ## Invalidation (07 R194) -/

/-- An access of the ASID that is translated and has not performed: a piece of a team's instruction, or what an open transaction
has read or holds. -/
def State.asidBusy (s : State) (asid : Nat) : Bool :=
  s.blocks.any fun (b, x) => x.teams.any fun m =>
    (m.ops.any fun o => o.els.any fun e => !e.done && e.place.isSome && !e.isStash && s.accessAsid b e == asid) ||
    (x.asid == asid && m.txs.any fun z => match z.2 with | some z => !(z.rlines.isEmpty && z.wlines.isEmpty) | none => false)

/-- An access held until a saved owner of its line is restored (09 R220) is translated again then. -/
def State.sweep (s : State) (asid : Nat) (va : Option Nat) : State :=
  let held (e : Elem) : Bool := !e.done && (match e.via with
    | some (h, _) => (s.block h).asid == asid && !s.stashUp h
    | none => false)
  let s := s.invalidate asid va
  { s with blocks := s.blocks.map fun (b, x) => (b, { x with teams := x.teams.map fun m => { m with
      ops := m.ops.map fun o => { o with els := o.els.map fun e => if held e then { e with place := none } else e } } }) }

/-- The first fault of the suite without an entry. -/
def State.nextFault (s : State) (u : Nat) : Option (Nat × PFault) :=
  (s.faults.zipIdx.find? fun (f, _) => f.tag.isNone && s.suiteOfAsid f.asid == u).map fun (f, i) => (i, f)

/-- An entry is posted, or the fault waits on the one outstanding for its page. -/
def postNext (u : Nat) : M Unit := do
  let s ← get
  match s.nextFault u with
  | none => stop (.fault .notEnabled)
  | some (i, f) =>
    let x := s.suite u
    let tagged (tag : Nat) : State := { s with faults := setAt s.faults i { f with tag := some tag } }
    match x.pfout.find? fun e => e.asid == f.asid && e.va == f.va with
    | some e => set (tagged e.tag)
    | none => do
      need (decide (x.pfq.length < 64) && decide (x.pfout.length < 256)) .notEnabled
      let e : FEntry := { asid := f.asid, va := f.va, kind := f.kind, readOnly := f.readOnly, tag := x.pftag, tick := s.tick }
      set (((tagged e.tag).modSuite u fun x => { x with
        pfq := x.pfq ++ [e], pfout := x.pfout ++ [e], pftag := (x.pftag + 1) % 2 ^ 32 }).raiseCause u 6)

/-- A fault entry (R477). -/
def FEntry.bytes (e : FEntry) : List Byte :=
  leBytes 8 e.va ++ leBytes 2 e.asid ++ leBytes 1 e.kind ++ leBytes 1 (b2n e.readOnly) ++ leBytes 4 e.tag ++ leBytes 8 e.tick ++ fill 8 0

/-- `PFPOP`: the oldest entry leaves the registers. -/
def State.popFault (s : State) (u : Nat) : State := s.modSuite u fun x => { x with pfq := x.pfq.drop 1 }

/-- `MCPOP` (17 R436): the oldest machine-check record is removed. -/
def State.popCheck (s : State) (u : Nat) : State := s.modSuite u fun x => { x with mcq := x.mcq.drop 1 }

/-- The trap of a declined fault (R196): its access and those kept behind it are discarded. -/
def State.declineOp (s : State) (b : Nat) (f : PFault) : State :=
  match f.op with
  | none => s.modTeam b f.t (·.delay .pagefatal f.pc f.addr)
  | some id => match (s.team b f.t).op id with
    | none => s
    | some o => match o.kind with
      | .task _ => (s.taskDrop b f.t o).modTeam b f.t (·.delay .pagefatal f.pc f.addr)
      | _ => s.modTeam b f.t fun m => (m.discardFrom id).delay .pagefatal f.pc f.addr

/-- The accesses that waited on the faults of a block go on, and the declined ones are delivered: at its restore, or at
once for a block that is killed. -/
def State.faultsOver (s : State) (b : Nat) : State :=
  let ds := (s.block b).declined
  let s := s.modBlock b fun x => { x with
    faulted := [], declined := []
    teams := x.teams.map fun m => { m with ops := m.ops.map fun o => if o.isWalk then o else { o with faulted := false } } }
  ds.foldl (fun s f => s.declineOp b f) s

/-- A block none of whose faults wait any longer. -/
def State.settleFaults (s : State) (b : Nat) : State :=
  if (s.block b).killed.isSome && !(s.faults.any fun f => f.who == FaultWho.block b) then s.faultsOver b else s

/-- A fault whose page is resolved goes on. -/
def State.faultResolved (s : State) (f : PFault) : State :=
  match f.who with
  | .block b => s.settleFaults b
  | .job j => s.modJob j fun x => { x with held := false }
  | .seq b => s.modMtx b fun m => { m with held := false }
  | .walk b t op => s.modOp b t op fun o => { o with faulted := false }
  | .classify _ v t => s.modView v fun v => v.modTile t fun z => { z with held := false }
  | .entry .. => s
  | .retry => s

/-- A fault whose page is declined takes the outcome its own rule gives for a fatal entry. -/
def State.faultDeclined (s : State) (f : PFault) : State :=
  match f.who with
  | .block b => (s.modBlock b fun x => { x with declined := x.declined ++ [f] }).settleFaults b
  | .job j => match s.job j with
    | none => s
    | some y => match y.kind with
      | .batch body st => s.modJob j fun x => { x with held := false, kind := .batch body { st with declined := some f.va } }
      | _ => (s.modJob j fun x => { x with held := false }).endJob j 2 TrapCode.pagefatal.num
  | .seq b =>
    let s := s.modMtx b fun m => { m with held := false }
    match (s.block b).mtx.clause with
    | none => s.seqTrap b .pagefatal (s.block b).mtx.pc f.addr
    | some cl => s.seqTrap b .pagefatal cl.pc 0
  | .walk b t op => s.modOp b t op Op.walkDeclined
  | .classify _ v t => s.modView v fun v => v.modTile t fun z => { z with held := false, declined := addNew f.va z.declined }
  | .entry u q => match (s.headEntry u q).1 with
    | some e => s.refuseHead u q e.length 3
    | none => s
  | .retry => s

/-- An entry is outstanding no longer, and every fault that waited on it goes on. -/
def State.settleEntry (s : State) (u : Nat) (e : FEntry) (go : State → PFault → State) : State :=
  let waiting := s.faults.filter (·.on e)
  waiting.foldl go (({ s with faults := s.faults.filter fun f => !f.on e }).modSuite u fun x => { x with
    pfout := x.pfout.filter (·.tag != e.tag) })

/-- The verdict on an outstanding entry (R477): resolved, the page's translations are invalidated, and what waited goes
on once every access by them has performed (R194). -/
def State.faultDone (s : State) (u tag : Nat) (declined : Bool) : State :=
  match (s.suite u).pfout.find? fun e => e.tag == tag && !e.resolved with
  | none => s
  | some e =>
    if declined then s.settleEntry u e State.faultDeclined
    else
      let s := s.sweep e.asid (some e.va)
      if s.asidBusy e.asid then s.modSuite u fun x => { x with
        pfout := x.pfout.map fun z => if z.tag = tag then { z with resolved := true } else z }
      else s.settleEntry u e State.faultResolved

/-- `FAULT_ENTRY_POST`: a page resolved before lets its faults go on, when nothing uses its old translation any longer; else the next
fault is posted. -/
def faultPost (u : Nat) : M Unit := do
  let s ← get
  match (s.suite u).pfout.find? fun e => e.resolved && !s.asidBusy e.asid with
  | some e => set (s.settleEntry u e State.faultResolved)
  | none => postNext u

end Sys2Proof.Machine
end

