-- ==== Sys2Proof/Machine/Sys.lean ====
section
/-! DEFINITION. The system class (16 R410-R425): special registers, the return from a trap, the tick, translations, events,
halts and the clock stop. -/
namespace Sys2Proof.Machine
open Sys2Proof

/-- Privileged instructions run in trap and service context (R410). -/
def Issue.privileged (k : Issue) : M Unit := trapIf (k.tm.context == .normal) .prot

/-! ## Special registers (R416, R417) -/

/-- The number of posts of a room's core (01 R11). -/
def postInRoom (c : Nat) : Nat := postOfCore c % Config.postsPerRoom
def coreInPost (c : Nat) : Nat := c % Config.coresPerPost

/-- The value of special register `n` for lane `l` (R416). -/
def Issue.sysReg (k : Issue) (s : State) (n l : Nat) : DWord :=
  let nat (x : Nat) : DWord := BitVec.ofNat 64 x
  let w (x : Word) : DWord := x.setWidth 64
  let x := k.blk
  let m := k.tm
  if n = 0x00 then nat l
  else if n = 0x01 then nat k.t
  else if n = 0x02 then nat x.bindex
  else if n = 0x03 then nat (coreInPost x.core)
  else if n = 0x04 then nat (postInRoom x.core)
  else if n = 0x05 then nat (roomOfCore x.core)
  else if n = 0x06 then nat s.device
  else if n = 0x07 then nat m.slot
  else if n = 0x08 then nat k.tick
  else if n = 0x09 then nat x.asid
  else if n = 0x0A then w m.fmode
  else if n = 0x0B then w m.rejoinlost
  else if n = 0x0C then nat (Tab.get 0 m.depth l)
  else if n = 0x0D then nat (match x.hitch with | some (_, q) => q | none => 0xFFFFFFFF)
  else if n = 0x0E then nat (b2n x.drain)
  else if n = 0x0F then w m.vblayout
  else if n = 0x10 then w x.mstat
  else if n = 0x11 then w x.mtx.qstat
  else if n = 0x12 then x.lpbase
  else if n = 0x13 then nat x.lpsize
  else if n = 0x14 then w x.stashhash
  else if n = 0x15 then nat (s.suite x.suite).mcq.length
  else if n = 0x18 then w m.trapcode
  else if n = 0x19 then m.trappc
  else if n = 0x1A then m.trapaddr
  else if n = 0x1B then m.trapresume
  else if n = 0x1C then nat x.trapvec
  else if n = 0x1D then x.watch0
  else if n = 0x1E then x.watch1
  else if n = 0x1F then w x.watchctl
  else w (Tab.get 0 x.banks (n - 0x20))

/-- `SRD`: a 64-bit register goes to a pair. -/
def srd (k : Issue) (d : Opnd) (n : Nat) : M Unit := do
  let s ← get
  if srWide n then k.writePair d (k.sysReg s n)
  else k.write d fun l => (k.sysReg s n l).setWidth 32

/-- What a write leaves in `sr.mstat` (11 R280, 14 R363): bits [2:0] clear on 1, and bit 1 takes [31:16] with it; bits
[15:8] are written. -/
def mstatWrite (old w : Word) : Word :=
  let clear : Word := (w &&& 7) ||| (if w.getLsbD 1 then 0xFFFF0000 else 0)
  ((old &&& ~~~clear) &&& 0xFFFF00FF) ||| (w &&& 0xFF00)

/-- `sr.watchctl` keeps its fields (R418), `sr.trapcode` its (R412). -/
def watchMask (w : Word) : Word := w &&& 0x03FF000F
def trapMask (w : Word) : Word := w &&& 0x3FF

/-- The registers that only trap and service context may write (R416). -/
def srProtected (n : Nat) : Bool := decide (0x18 ≤ n) && decide (n ≤ 0x1F) && n != 0x1C

/-- `SWR`: a register that only reads keeps its value (01 R6). -/
def swr (k : Issue) (n : Nat) (a : Src) : M Unit := do
  if srProtected n then k.privileged else pure ()
  let w := k.uni a
  let q := k.srcW a 0
  if n = 0x0A then k.mod fun m => { m with fmode := fmodeOf w }
  else if n = 0x0B then k.mod fun m => { m with rejoinlost := w }
  else if n = 0x0F then k.mod fun m => { m with vblayout := vbMask w }
  else if n = 0x10 then k.modB fun x => { x with mstat := mstatWrite x.mstat w }
  else if n = 0x18 then k.mod fun m => { m with trapcode := trapMask w }
  else if n = 0x19 then k.mod fun m => { m with trappc := q }
  else if n = 0x1A then k.mod fun m => { m with trapaddr := q }
  else if n = 0x1B then k.mod fun m => { m with trapresume := q }
  else if n = 0x1D then k.modB fun x => { x with watch0 := q }
  else if n = 0x1E then k.modB fun x => { x with watch1 := q }
  else if n = 0x1F then k.modB fun x => { x with watchctl := watchMask w }
  else if 0x20 ≤ n then k.modB fun x => { x with banks := Tab.set 0 x.banks (n - 0x20) w }
  else pure ()

/-! ## Traps, time, events, halts -/

/-- `TRET` (R414): a pending halt is taken first, and the instruction completes when the team is resumed. -/
def tret (k : Issue) : M Unit := do
  if k.tm.context != .trap then trap .illegal
  else if k.tm.haltPending then do
    update fun s => (s.haltTeam k.b k.t).modTeam k.b k.t fun m => { m with haltPending := false }
    k.mod Team.retry
  else do
    let s ← get
    match s.trapReturn k.b k.t k.pc with
    | .error e => stop e
    | .ok s => set (s.modTeam k.b k.t fun m => { m with count := m.count + 1, prev := none })

/-- `TICK` (R419). -/
def tickIns (k : Issue) (d : Opnd) : M Unit := k.writePair d fun _ => BitVec.ofNat 64 k.tick
/-- `TICK.c`: once every earlier tracked instruction of the team has completed. -/
def tickDone (k : Issue) (d : Opnd) : M Unit := if k.tm.ops.isEmpty then tickIns k d else stallM

/-- The ASID an operand names lies in the caller's suite (R421, R422). -/
def Issue.ownAsid (k : Issue) (s : State) (asid : Nat) : Bool := s.suiteOfAsid asid == k.blk.suite

/-- `TLBINV` (R421): the entries are dropped, and the team waits until no access uses one of them (07 R194). -/
def tlbinv (k : Issue) (a : Opnd) (b : Option Opnd) : M Unit := do
  k.privileged
  let w := (k.tm.rd a 0).toNat
  let asid := w % 8192
  trapIf (w != asid) .illegal
  let s ← get
  trapIf (!k.ownAsid s asid && k.tm.context != .service) .prot
  let va := b.map fun o => (k.tm.rdPair o 0).toNat
  set (s.sweep asid va)
  if s.asidBusy asid then k.mod Team.retry else pure ()

/-- `ASIDSET` (R422). -/
def asidset (k : Issue) (a : Opnd) (b : Option Opnd) : M Unit := do
  k.privileged
  let asid := (k.tm.rd a 0).toNat % 8192
  let s ← get
  let root := b.map fun o => (k.tm.rdPair o 0).toNat
  trapIf (root.any fun r => r % 131072 != 0) .misalign
  trapIf (!k.ownAsid s asid) .prot
  set { s with roots := match root with
    | some r => Tab.put s.roots asid r
    | none => Tab.erase s.roots asid }

/-- `EVENT` with `m` = 1 (R425; 17 R436, R437): the 16-entry mailbox takes the value, or it is lost. -/
def eventPost (k : Issue) (v : Word) : M Unit := do
  let s ← get
  let u := k.blk.suite
  if (s.suite u).evq.length < 16 then
    set ((s.modSuite u fun x => { x with evq := x.evq ++ [v] }).raiseCause u 1)
  else set (s.modSuite u fun x => { x with evlost := x.evlost + 1 })

/-- `HALT` (R420). -/
def haltIns (k : Issue) : M Unit := do
  let s ← get
  if (s.suite k.blk.suite).dbgctl.getLsbD 0 then set (s.haltTeam k.b k.t) else trap .bkpt

/-- `DBGSTOP` (R424). -/
def dbgstop (k : Issue) (a : Opnd) : M Unit := do
  k.privileged
  let t := (k.tm.rdPair a 0).toNat
  update fun s => { s with armed := some (max t (k.tick + 64)) }

/-! ## Halt requests (R420; 17 R436) -/

/-- A halt request reaches a team: it halts at once where it runs no clause or waits in one, else at the clause's end; in
trap context at `TRET`. -/
def State.haltRequest (s : State) (b t : Nat) : State :=
  let m := s.team b t
  if m.done || m.halted then s
  else if m.context = .trap then s.modTeam b t fun m => { m with haltPending := true }
  else if m.clause.isNone || m.stall.isSome then s.haltTeam b t
  else s.modTeam b t fun m => { m with haltPending := true }

/-- The blocks resident on core `c` under number `n`. -/
def State.residents (s : State) (c n : Nat) : List Nat :=
  (s.blocks.filter fun (_, x) => x.core == c && x.resident == n && x.saved.isNone).map Prod.fst

/-- The teams a write to `haltreq` of suite `u` names. -/
def State.haltNames (s : State) (u : Nat) (v : DWord) : List (Nat × Nat) :=
  let n := v.toNat
  ((s.residents (bits n 8 0) (bits n 13 9)).filter fun b => (s.block b).suite == u && (s.block b).killed.isNone).flatMap fun b =>
    (List.range (s.block b).teams.length).filterMap fun t => if bit n 20 || t == bits n 19 14 then some (b, t) else none

def haltRequest (u : Nat) (v : DWord) : M Unit :=
  update fun s => (s.haltNames u v).foldl (fun s e => s.haltRequest e.1 e.2) s

def haltResume (u : Nat) (v : DWord) : M Unit :=
  update fun s => (s.haltNames u v).foldl (fun s e => s.modTeam e.1 e.2 fun m => { m with halted := false }) s

end Sys2Proof.Machine
end

