-- ==== Sys2Proof/Machine/FrameBytes.lean ====
section
/-! DEFINITION. The bytes of a frame (16 R428-R432). -/
namespace Sys2Proof.Machine
open Sys2Proof

/-- `n` bytes, zero but for the parts given with their offsets. -/
def layOut (n : Nat) (parts : List (Nat × List Byte)) : List Byte :=
  readBytes (parts.foldl (fun t p => writeBytes t p.1 p.2) []) 0 n

/-- Words of a table, one after the other. -/
def rowParts (o w n : Nat) (f : Nat → Nat) : List (Nat × List Byte) := (List.range n).map fun i => (o + w * i, leBytes w (f i))

/-! ## Team records (R429) -/

def Entry.frameBytes (e : Entry) : List Byte :=
  leBytes 8 (2 ^ 63 + e.pc % 2 ^ 63) ++ leBytes 2 e.mask.toNat ++ leBytes 2 (e.prio % 4096) ++
    leBytes 1 (match e.held with | none => 0 | some n => 1 + 2 * n) ++ fill 3 0

def frontierParts (o : Nat) (es : List Entry) : List (Nat × List Byte) :=
  (es.take 16).zipIdx.map fun (e, i) => (o + 16 * i, e.frameBytes)

/-- The frontier as a frame keeps it: the entry of the clause that has begun names its next word. -/
def Team.frontierNow (m : Team) : List Entry :=
  match m.clause with
  | none => m.frontier
  | some cl => m.frontier.map fun e => if e.mask = cl.mask then { e with pc := if cl.pc = cl.body then cl.addr else cl.pc } else e

/-- The byte of an operand's tag. -/
def tagByte : Option Tag → Nat
  | none => 0
  | some (.flag f) => 16 + f
  | some .token => 32

def Team.frameState (m : Team) : Nat :=
  b2n m.done + 2 * b2n (match m.stall with | some (.sleep _) => true | _ => false) + 4 * b2n m.haltPending + 8 * b2n m.halted

/-- A team record, 1280 bytes. -/
def Team.frame (m : Team) : List Byte :=
  layOut 1280 <|
    rowParts 0 4 32 (fun i => (m.s i).toNat) ++ frontierParts 128 m.frontierNow ++ rowParts 384 2 8 (fun i => (m.p i).toNat) ++
    rowParts 400 4 8 (fun i => (m.join i).expect.toNat + 65536 * (m.join i).arrived.toNat) ++
    [(432, leBytes 4 (((List.range 12).map fun f => b2n (m.busy f) * 2 ^ f).sum + 65536 * b2n (m.context == .trap) +
        131072 * b2n (m.context == .trap && m.recorded == .service))),
     (436, leBytes 4 m.fmode.toNat), (440, leBytes 4 m.rng.toNat), (444, leBytes 4 m.rejoinlost.toNat),
     (448, leBytes 4 m.trapcode.toNat), (452, leBytes 4 m.vblayout.toNat), (456, leBytes 8 m.trappc.toNat),
     (464, leBytes 8 m.trapaddr.toNat), (472, leBytes 8 m.trapresume.toNat)] ++
    rowParts 480 1 16 (fun l => Tab.get 0 m.depth l) ++
    [(496, leBytes 4 (m.armed.toNat + 65536 * m.seen.toNat)), (500, leBytes 1 m.frameState), (504, leBytes 8 (m.view.getD 0))] ++
    rowParts 512 1 128 (fun k => tagByte (m.tag k)) ++
    (match m.kept with | some k => frontierParts 640 k.frontier | none => []) ++
    rowParts 896 1 256 (fun i => ((List.range 8).map fun j => b2n (m.lpTouched.contains (8 * i + j)) * 2 ^ j).sum)

/-! ## Vector registers, stash -/

def Team.vregBytes (m : Team) (w : Nat) : List Byte := (List.range (16 * w)).flatMap fun k => leBytes 4 (m.v (k / 16) (k % 16)).toNat

/-! ## Block state (R430) -/

/-- A layout in the form of its record (10 R255). -/
def Layout.bytes64 (l : Layout) : List Byte :=
  layOut 64 <|
    [(0, leBytes 8 l.base), (8, leBytes 1 l.esz), (9, leBytes 1 l.dims), (10, leBytes 1 l.order)] ++
    rowParts 12 4 l.dims (fun i => l.ext.getD i 1) ++ rowParts 32 4 (l.dims - 1) (fun i => l.stride.getD (i + 1) 0) ++
    rowParts 48 2 l.dims (fun i => l.box.getD i 1)

def forkParts (x : Block) : List (Nat × List Byte) :=
  let owner := match x.fork, x.forkRun with
    | some f, _ => f.owner
    | none, some f => f.owner
    | none, none => 0
  let arrivals := match x.fork with | some f => f.arrivals | none => 0
  let running := match x.forkRun with | some f => f.codes.any Option.isNone || (f.mtx && bit x.mtx.qstat.toNat 31) | none => false
  [(1888, x.forkImage.take 64), (1952, leBytes 4 arrivals), (1956, leBytes 1 owner),
   (1957, leBytes 1 (b2n x.fork.isSome + 2 * b2n running)), (1960, leBytes 4 x.fmtWord.toNat)]

def ringParts (x : Block) : List (Nat × List Byte) :=
  (List.range 16).flatMap fun i =>
    let o := 2232 + 80 * i
    match x.rings[i]? with
    | none => [(o, leBytes 4 0xFFFFFFFF)]
    | some (hdr, r) => (o, leBytes 4 hdr) :: (o + 4, leBytes 4 r.work) :: rowParts (o + 8) 1 64 (fun j => Tab.get 0 r.rel j)

def mapBytes (m : MapEntry) : List Byte := leBytes 8 m.va ++ leBytes 2 m.line ++ leBytes 2 m.count ++ leBytes 1 1 ++ fill 3 0

/-- The block state, 4096 bytes. -/
def Block.frame (x : Block) (core : Nat) : List Byte :=
  let vote (n : Nat) : Vote := Tab.get {} x.votes n
  layOut 4096 <|
    rowParts 0 4 16 (fun n => (x.bar n).word) ++
    x.chans.map (fun (i, c) => (64 + 8 * i, leBytes 4 c.target ++ leBytes 1 c.kind ++ leBytes 3 c.cursor)) ++
    rowParts 576 2 128 (fun i => (Tab.get 0 x.codebooks i).toNat) ++
    x.maps.map (fun (i, m) => (832 + 16 * i, mapBytes m)) ++
    (x.layouts.filterMap fun (i, l) => l.map fun l => (1088 + 64 * i, l.bytes64)) ++
    (x.stamps.filterMap fun (i, z) => z.map fun z => (1600 + 64 * i, z.bytes core 0)) ++
    (x.stamps.filterMap fun (i, z) => z.map fun z => (1856 + 8 * i, leBytes 8 z.addr)) ++
    forkParts x ++ rowParts 1964 4 16 (fun n => ((vote n).now.getD 0).toNat) ++
    [(2028, leBytes 2 ((List.range 16).map fun n => b2n (vote n).now.isSome * 2 ^ n).sum),
     (2032, leBytes 4 (match x.hitch with | some (k, _) => k.toNat | none => 0)),
     (2036, leBytes 1 (match x.hitch with | some (_, n) => n | none => 0)),
     (2037, leBytes 1 (x.windows.map fun n => 2 ^ n).sum)] ++
    (x.refs.take 8).zipIdx.map (fun (h, i) => (2040 + 4 * i, leBytes 4 h.toNat)) ++
    [(2072, leBytes 4 x.mstat.toNat), (2076, leBytes 4 x.stashhash.toNat)] ++ rowParts 2080 4 32 (fun i => (Tab.get 0 x.banks i).toNat) ++
    [(2208, leBytes 8 x.watch0.toNat), (2216, leBytes 8 x.watch1.toNat), (2224, leBytes 4 x.watchctl.toNat)] ++ ringParts x

/-! ## Jobs, blocked accesses, mesh batches (R431) -/

/-- A job's entry: of a `LAYOUT` the record holds its address and its slot, of a stamp's retirement the image and its address; of a stream
the next unit is its tile, the form of a forked one the number of its program (log 41). -/
def Job.frame (j : Job) : List Byte :=
  let tok := j.toks.head?
  let raw := match j.kind with
    | .layout a n _ => leBytes 8 a ++ leBytes 1 n
    | .write a d => d ++ leBytes 8 a
    | _ => j.raw
  let pos := match j.kind with | .stream z => if z.started then z.tile else 0 | _ => j.pos
  let form := match j.kind with | .stream z => z.prog.getD 0 | .write .. => 0x20 | _ => 0
  layOut 512 <|
    [(0, raw.take 128), (128, leBytes 4 j.snap.fmt.toNat), (132, leBytes 4 j.snap.fmode.toNat)] ++
    rowParts 136 2 128 (fun i => (Tab.get 0 j.snap.books i).toNat) ++
    [(392, leBytes 8 pos), (400, leBytes 1 (j.word.toNat / 2 ^ 24 % 128)), (401, leBytes 1 form),
     (404, leBytes 2 ((tok.bind (·.reg)).getD 0xFFFF)), (406, leBytes 2 ((tok.map (·.t)).getD 0))]

/-- The lanes of an access that have not performed. -/
def Op.lanesLeft (o : Op) : List Nat := (o.els.filter (!·.done)).foldl (fun a e => addNew e.lane a) []

/-- The address of a piece as its instruction forms it (07 R176): a stash offset, also of a mapped line, or an offset in lane-private
memory. -/
def State.addrOf (s : State) (b : Nat) (o : Op) (e : Elem) : Nat :=
  if o.isLaneAccess then e.data2
  else match e.via with
    | none => e.va
    | some (h, l) => l * 128 + e.va % 128 + (if h = b then 0 else match (s.block h).hitch with
        | some (_, n) => Config.windowBase * (n + 1)
        | none => 0)

/-- What a lane stores, or gives an atomic. -/
def Op.laneData (o : Op) (l : Nat) : Nat :=
  let es := o.els.filter (·.lane == l)
  if o.isLaneAccess then es.foldl (fun a e => a + e.data * 2 ^ (32 * e.reg)) 0
  else (es.head?.map fun e => e.data + e.data2 * 2 ^ (8 * e.n)).getD 0

/-- The entry of a blocked access of team `t`. -/
def State.opFrame (s : State) (b t : Nat) (o : Op) : List Byte :=
  let ls := o.lanesLeft
  layOut 512 <|
    [(0, leBytes 8 o.pc), (8, leBytes 4 o.word.toNat), (12, leBytes 4 (if bit o.word.toNat 31 then o.lit.toNat else 0)),
     (16, leBytes 2 (maskOf ls.contains).toNat), (18, leBytes 1 t), (19, leBytes 1 (b2n o.prov)), (20, leBytes 4 o.seq)] ++
    rowParts 24 8 16 (fun l => ((o.els.find? (·.lane == l)).map (s.addrOf b o)).getD 0) ++
    rowParts 152 16 16 o.laneData

/-- The blocked accesses, in program order per team. -/
def Block.blocked (x : Block) : List (Nat × Op) :=
  x.teams.zipIdx.flatMap fun (m, t) => (m.ops.filter fun o => (o.isAccess || o.isLaneAccess) && !o.performed).map fun o => (t, o)

def Batch.frame (q : Batch) (view t : Nat) : List Byte :=
  layOut 8192 <|
    q.pos.map (fun (i, ws) => (16 * i, ws.flatMap fun w => leBytes 4 w.toNat)) ++
    q.prims.map (fun (i, p) => (4096 + 12 * i,
      leBytes 4 (p.1.zipIdx.map fun (v, k) => v * 2 ^ (8 * k)).sum ++ leBytes 8 p.2)) ++
    [(7168, leBytes 8 view), (7176, leBytes 2 q.nv), (7178, leBytes 2 q.np), (7180, leBytes 1 t)]

def State.batches (s : State) (x : Block) : List (List Byte) :=
  x.teams.zipIdx.filterMap fun (m, t) => m.batch.map fun q => q.frame ((s.viewOf q.view).map (·.addr) |>.getD 0) t

/-! ## The matrix context (R432) -/

/-- The matrix context; the places of its last small items within bytes 136 to 255 of their section are the model's
(log 41). -/
def Mtx.frame (m : Mtx) : List Byte :=
  let tag (n : Nat) : Nat := match Tab.find m.tags n with | some (f, c) => 16 + f + 32 * b2n c | none => 0
  let busy := ((List.range 12).map fun f => b2n (m.ops.any fun o => o.flag == some f) * 2 ^ f).sum
  let pc := match m.ops.find? (·.mma.isSome), m.clause with
    | some o, _ => o.pc
    | none, some cl => if cl.pc = cl.body then cl.addr else cl.pc
    | none, none => m.pc
  let o := 126976
  layOut 131072 <|
    (List.range 8).map (fun i => (4096 * i, leBytes 4096 (m.tile i).data.toNat)) ++
    (List.range 8).map (fun i => (32768 + 1024 * i, leBytes 1024 ((m.tile i).bitmap.getD 0).toNat)) ++
    (List.range 8).map (fun i => (40960 + 2048 * i, leBytes 2048 ((m.tile i).idx.getD 0).toNat)) ++
    (List.range 8).flatMap (fun i => ((m.tile i).res.take 64).zipIdx.map fun (e, k) =>
      (57344 + 512 * i + 8 * k, leBytes 1 e.1 ++ leBytes 1 e.2.1 ++ leBytes 2 e.2.2)) ++
    (List.range 8).map (fun i => (61440 + 2048 * i,
      (List.range 512).flatMap fun k => leBytes 4 (Tab.get 0x3F8000 (m.tile i).scales k * 256))) ++
    (List.range 4).flatMap (fun i => (m.acc i).els.map fun (k, v) => (77824 + 12288 * i + 12 * k, leBytes 12 v.toNat)) ++
    rowParts o 4 8 (fun i => (m.tile i).ctl.toNat) ++ rowParts (o + 32) 4 4 (fun i => (m.acc i).ctl.toNat) ++
    rowParts (o + 48) 4 16 (fun i => (m.qr i).toNat) ++
    [(o + 112, leBytes 4 m.qstep), (o + 116, leBytes 4 m.qstat.toNat), (o + 120, leBytes 8 pc), (o + 128, leBytes 4 m.rng.toNat),
     (o + 132, leBytes 4 m.fmt.toNat), (o + 136, leBytes 4 busy)] ++ rowParts (o + 140) 1 32 tag ++
    rowParts (o + 172) 1 8 (fun i => (m.tile i).res.length) ++
    [(o + 180, leBytes 1 ((List.range 8).map fun i => b2n (m.tile i).bitmap.isSome * 2 ^ i).sum),
     (o + 181, leBytes 1 ((List.range 8).map fun i => b2n (m.tile i).idx.isSome * 2 ^ i).sum),
     (o + 184, leBytes 4 (m.armed.toNat + 65536 * m.seen.toNat))] ++
    rowParts 127232 2 128 (fun i => (Tab.get 0 m.books i).toNat)

/-! ## The header (R428) -/

/-- The sizes of a frame's sections, in their order. -/
def sectionSizes (teams regs stash jobs pend mesh : Nat) (mtx : Bool) : List Nat :=
  [1280 * teams, 64 * regs * teams, roundUp stash 1024, 4096, 512 * jobs, 512 * pend, 8192 * mesh, if mtx then 131072 else 0]

/-- Where each section begins; 0 where it is absent. -/
def sectionOffsets : Nat → List Nat → List Nat
  | _, [] => []
  | o, n :: r => (if n = 0 then 0 else o) :: sectionOffsets (o + n) r

def frameVersion : Nat := 0x00010009

/-- The header's fields whose meaning the sections depend on. -/
structure FrameHdr where
  teams : Nat
  regs : Nat
  stash : Nat
  jobs : Nat
  pend : Nat
  mesh : Nat
  mtx : Bool
  deriving DecidableEq, Repr

def FrameHdr.sizes (h : FrameHdr) : List Nat := sectionSizes h.teams h.regs h.stash h.jobs h.pend h.mesh h.mtx
def FrameHdr.offsets (h : FrameHdr) : List Nat := sectionOffsets 256 h.sizes
def FrameHdr.total (h : FrameHdr) : Nat := 256 + h.sizes.sum

def FrameHdr.of (r : List Byte) : FrameHdr :=
  { teams := field r 20 1, regs := field r 21 1, stash := field r 24 4, jobs := field r 84 4, pend := field r 92 4
    mesh := field r 104 4, mtx := bit (field r 22 1) 1 }

/-- The places of the section offsets in the header, in the order of the sections. -/
def offsetPlaces : List Nat := [64, 68, 72, 76, 80, 88, 100, 96]

/-- The header agrees with its sections (R428). -/
def frameOk (r : List Byte) : Bool :=
  let h := FrameHdr.of r
  field r 0 4 == frameVersion && field r 4 4 == h.total && offsetPlaces.map (field r · 4) == h.offsets

def Block.hdr (x : Block) (jobs mesh : Nat) : FrameHdr :=
  { teams := x.teams.length, regs := x.regs, stash := x.stashSize, jobs := jobs, pend := x.blocked.length, mesh := mesh
    mtx := x.usesMtx }

/-- The jobs of a block that have not ended, oldest first. -/
def State.jobsOf (s : State) (b : Nat) : List Job := (s.jobs.filter fun (_, j) => j.owner == some b).map Prod.snd

/-- The header's 256 bytes. -/
def Block.hdrBytes (x : Block) (h : FrameHdr) (tick : Nat) : List Byte :=
  let flags := b2n x.hitch.isSome + 2 * b2n x.usesMtx + 4 * b2n x.forced + 8 * b2n (!x.faulted.isEmpty) +
    16 * b2n (x.teams.any (·.halted))
  layOut 256 <|
    [(0, leBytes 4 frameVersion), (4, leBytes 4 h.total), (8, leBytes 8 x.lrec), (16, leBytes 4 x.bindex), (20, leBytes 1 h.teams),
     (21, leBytes 1 h.regs), (22, leBytes 1 flags), (23, leBytes 1 (match x.hitch with | some (_, n) => n | none => 0)),
     (24, leBytes 4 h.stash), (28, leBytes 4 (match x.hitch with | some (k, _) => k.toNat | none => 0)),
     (32, leBytes 8 x.lpbase.toNat), (40, leBytes 8 x.trapvec), (48, leBytes 8 tick), (56, leBytes 2 x.core),
     (84, leBytes 4 h.jobs), (92, leBytes 4 h.pend), (104, leBytes 4 h.mesh)] ++
    (offsetPlaces.zip h.offsets).map fun (p, o) => (p, leBytes 4 o)

/-- The whole frame of a block that is being saved. -/
def State.frameBytes (s : State) (b : Nat) (tick : Nat) : List Byte :=
  let x := s.block b
  let js := s.jobsOf b
  let qs := s.batches x
  x.hdrBytes (x.hdr js.length qs.length) tick ++ x.teams.flatMap Team.frame ++ x.teams.flatMap (·.vregBytes x.regs) ++
    readBytes x.stash 0 (roundUp x.stashSize 1024) ++ x.frame x.core ++ js.flatMap Job.frame ++
    x.blocked.flatMap (fun (t, o) => s.opFrame b t o) ++ qs.flatMap id ++ (if x.usesMtx then x.mtx.frame else [])

end Sys2Proof.Machine
end

