-- ==== Sys2Proof/Machine/Unframe.lean ====
section
/-! DEFINITION. What a frame holds, read back (16 R428-R432): a section, or an item of one, that stands as the save wrote it is left
as the block has it; any other is read from its bytes (log 40). -/
namespace Sys2Proof.Machine
open Sys2Proof

/-! ## Team records -/

/-- A frontier read back. -/
def readFrontier (r : List Byte) (o : Nat) : List Entry :=
  (List.range 16).filterMap fun i =>
    let e := (r.drop (o + 16 * i)).take 16
    if bit (field e 0 8) 63 then
      some { pc := field e 0 8 % 2 ^ 63, mask := BitVec.ofNat 16 (field e 8 2), prio := field e 10 2 % 4096
             held := if bit (field e 12 1) 0 then some (bits (field e 12 1) 3 1) else none }
    else none

def byteTag (x : Nat) : Option Tag := if bit x 5 then some .token else if bit x 4 then some (.flag (x % 16)) else none

/-- A team whose record was changed while it was saved: what the record holds. -/
def Team.unframe (m : Team) (r : List Byte) : Team :=
  let w (o : Nat) : Word := BitVec.ofNat 32 (field r o 4)
  let d (o : Nat) : DWord := BitVec.ofNat 64 (field r o 8)
  let trap_ := bit (field r 432 4) 16
  let es := readFrontier r 128
  let keep := es == m.frontierNow
  { m with
    sregs := (List.range 32).foldl (fun t i => Tab.set 0 t i (w (4 * i))) []
    frontier := if keep then m.frontier else es
    clause := if keep then m.clause else none
    stall := if keep then m.stall else none
    preds := (List.range 8).foldl (fun t i => Tab.set 0 t i (BitVec.ofNat 16 (field r (384 + 2 * i) 2))) []
    joins := (List.range 8).foldl (fun t i => Tab.set {} t i
      ⟨BitVec.ofNat 16 (field r (400 + 4 * i) 2), BitVec.ofNat 16 (field r (402 + 4 * i) 2)⟩) []
    context := if trap_ then .trap else if m.context = .trap then m.recorded else m.context
    recorded := if trap_ then (if bit (field r 432 4) 17 then .service else .normal) else m.recorded
    fmode := fmodeOf (w 436), rng := w 440, rejoinlost := w 444, trapcode := trapMask (w 448), vblayout := vbMask (w 452)
    trappc := d 456, trapaddr := d 464, trapresume := d 472
    depth := (List.range 16).foldl (fun t l => Tab.set 0 t l (field r (480 + l) 1)) []
    armed := BitVec.ofNat 16 (field r 496 2), seen := BitVec.ofNat 16 (field r 498 2)
    done := bit (field r 500 1) 0, haltPending := bit (field r 500 1) 2, halted := bit (field r 500 1) 3
    view := if field r 504 8 = m.view.getD 0 then m.view else some (field r 504 8)
    tags := (List.range 128).foldl (fun t k => match byteTag (field r (512 + k) 1) with
      | some g => Tab.put t k g
      | none => t) []
    kept := m.kept.map fun k => { k with frontier := readFrontier r 640 }
    lpTouched := (List.range 2048).filter fun n => bit (field r (896 + n / 8) 1) (n % 8) }

/-! ## Vector registers -/

def Team.setVregs (m : Team) (w : Nat) (r : List Byte) : Team :=
  { m with vregs := (List.range (16 * w)).foldl (fun t k => Tab.set 0 t k (BitVec.ofNat 32 (field r (4 * k) 4))) [] }

/-! ## Block state -/

def barrierOf (w : Nat) : Barrier := ⟨bit w 31, bit w 30, bits w 27 16, bits w 15 0⟩

/-- The lines of a list of numbered items. -/
def tabOf {α : Type} [DecidableEq α] (z : α) (n : Nat) (f : Nat → α) : Tab α := (List.range n).foldl (fun t i => Tab.set z t i (f i)) []

/-- A channel-table entry; one that stands as it was keeps the slot it works on. -/
def Chan.unframe (c : Chan) (r : List Byte) : Chan :=
  let n : Chan := { target := field r 0 4, kind := field r 4 1, cursor := field r 5 3 }
  if { c with slot := none } = n then c else n

/-- A map-table entry, if it is used; one of the same range keeps what has been touched of it. -/
def mapUnframe (m : Option MapEntry) (r : List Byte) : Option MapEntry :=
  if !bit (field r 12 1) 0 then none
  else
    let n : MapEntry := { va := field r 0 8, line := field r 8 2, count := field r 10 2 }
    match m with
    | some m => if m.va = n.va ∧ m.line = n.line ∧ m.count = n.count then some m else some n
    | none => some n

/-- A layout slot; an all-zero one is invalid. -/
def layoutUnframe (l : Option Layout) (r : List Byte) : Option Layout :=
  match l with
  | some l => if l.bytes64 = r then some l else if r.all (· == 0) then none else some (Layout.of r)
  | none => if r.all (· == 0) then none else some (Layout.of r)

/-- A stamp slot from its record image and its record's address. -/
def stampUnframe (r : List Byte) (addr : Nat) : Option Stamp :=
  if addr = 0 then none
  else some { addr := addr, tile := BitVec.ofNat 32 (field r 0 4)
              events := (List.range 6).foldl (fun t e => if bit (field r 6 1) e then Tab.put t e (field r (8 + 8 * e) 8) else t) [] }

/-- The open fork, from the image of its record (10 R248). -/
def Block.forkUnframe (x : Block) (r : List Byte) : Option Fork :=
  if !bit (field r 1957 1) 0 then none
  else
    let g := (r.drop 1888).take 64
    let want := field g 8 2
    some { value := (x.fork.map (·.value)).getD (BitVec.ofNat 32 (field r 1960 4)), owner := field r 1956 1
           expected := if want = 0 then x.teams.length else want, arrivals := field r 1952 4, mstream := field g 0 8
           srecs := (List.range (min (field g 10 1) 4)).map fun i => field g (16 + 4 * i) 4 }

/-- The fork that runs, where the block as it stands has none: its stream programs that have no job entry have ended. -/
def Block.runUnframe (x : Block) (r : List Byte) (progs : List Nat) : Option ForkRun :=
  match x.forkRun with
  | some f => some f
  | none => if !bit (field r 1957 1) 1 then none
      else some { owner := field r 1956 1, mtx := field r 1888 8 != 0
                  codes := (List.range (min (field r 1898 1) 4)).map fun i => if progs.contains i then none else some 0 }

/-- A slot ring of the engine; one whose bytes stand keeps the slot it handed out last. -/
def ringUnframe (old : Option (Nat × Ring)) (r : List Byte) : Option (Nat × Ring) :=
  if field r 0 4 = 0xFFFFFFFF then none
  else
    let n : Ring := { rel := tabOf 0 64 fun j => field r (8 + j) 1, work := field r 4 4 }
    match old with
    | some (h, g) => if h = field r 0 4 then some (h, { n with cur := g.cur }) else some (field r 0 4, n)
    | none => some (field r 0 4, n)

/-- Block state as its section holds it; `hitched` as the header says, `progs` the stream programs with a job entry. -/
def Block.unframe (x : Block) (r : List Byte) (hitched : Bool) (progs : List Nat) : Block :=
  let w (o : Nat) : Word := BitVec.ofNat 32 (field r o 4)
  let part (o n : Nat) : List Byte := (r.drop o).take n
  let vote (n : Nat) : Vote := Tab.get {} x.votes n
  { x with
    barriers := tabOf {} 16 fun n => barrierOf (field r (4 * n) 4)
    chans := tabOf {} 64 fun i => (Tab.get {} x.chans i).unframe (part (64 + 8 * i) 8)
    codebooks := tabOf 0 128 fun i => BitVec.ofNat 16 (field r (576 + 2 * i) 2)
    maps := (List.range 16).filterMap fun i => (mapUnframe (Tab.find x.maps i) (part (832 + 16 * i) 16)).map fun m => (i, m)
    layouts := tabOf none 8 fun i => layoutUnframe (Tab.get none x.layouts i) (part (1088 + 64 * i) 64)
    stamps := tabOf none 4 fun i => stampUnframe (part (1600 + 64 * i) 64) (field r (1856 + 8 * i) 8)
    forkImage := if part 1888 64 = readBytes (writeBytes [] 0 (x.forkImage.take 64)) 0 64 then x.forkImage else part 1888 64
    fork := x.forkUnframe r
    forkRun := x.runUnframe r progs
    fmtWord := w 1960
    votes := tabOf {} 16 fun n => { vote n with now := if bit (field r 2028 2) n then some (w (1964 + 4 * n)) else none }
    hitch := if hitched then some (w 2032, field r 2036 1) else none
    windows := (List.range 8).filter fun n => bit (field r 2037 1) n
    refs := ((List.range 8).map fun i => w (2040 + 4 * i)).filter (· != 0)
    mstat := w 2072 &&& 0xFFFFFF07, stashhash := w 2076 &&& 0x3FF
    banks := tabOf 0 32 fun i => w (2080 + 4 * i)
    watch0 := BitVec.ofNat 64 (field r 2208 8), watch1 := BitVec.ofNat 64 (field r 2216 8), watchctl := watchMask (w 2224)
    rings := ((List.range 16).filterMap fun i => ringUnframe x.rings[i]? (part (2232 + 80 * i) 80)).foldl (fun t e => Tab.put t e.1 e.2) [] }

/-! ## Jobs -/

/-- What a job entry's operation asks for, from the record it captured. -/
def jobKindOf (op form : Nat) (r : List Byte) : JobKind :=
  if op = 0x00 then .stream (StreamRec.of r (some form))
  else if op = 0x02 then .copy [Slice.of r] 1
  else if op = 0x03 then remoteKind r
  else if op = 0x04 then .layout (field r 0 8) (field r 8 1) none
  else if op = 0x05 then .stream (StreamRec.of r none)
  else if op = 0x0A then cardKind r
  else if op = 0x0D then .write (field r 64 8) (r.take 64)
  else if op = 0x0E then nearKind 3 r
  else if op = 0x0F then nearKind 4 r
  else if op = 0x10 then nearKind 5 r
  else .bad 0

/-- Its footprint (10 R269; 12 R317). -/
def jobFootOf (op : Nat) (r : List Byte) (kind : JobKind) : List Foot :=
  match kind with
  | .copy zs _ => if op = 0x0A then cardFoot r else zs.flatMap Slice.foot
  | .fill .. => cardFoot r
  | .layout a _ _ => [{ lo := a, len := 64, stash := false, rd := true, wr := false }]
  | .write a d => [{ lo := a, len := d.length, stash := false, rd := false, wr := true }]
  | .near _ n .. => if op = 0x0A then cardFoot r else nearFoot n r
  | _ => []

def jobBarOf (op : Nat) (r : List Byte) : Option Nat :=
  if op = 0x02 then barOf (bit (field r 20 1) 2) (field r 21 1)
  else if op = 0x00 ∨ op = 0x05 then streamBar r
  else if op = 0x0A ∨ op = 0x0E ∨ op = 0x0F ∨ op = 0x10 then cardBar r
  else none

/-- A stream goes on at tile `pos` (10 R273). -/
def StreamRec.goesOn (z : StreamRec) (pos : Nat) : StreamRec :=
  if z.started then { z with tile := pos, unit := 0 }
  else if pos ≤ z.first then z
  else { z with first := pos, count := if z.count = 0 then 0 else z.first + z.count - pos }

/-- A job as its entry has it. -/
def Job.unframe (j : Job) (r : List Byte) : Job :=
  let f := j.frame
  let raw := r.take 128
  let op := field r 400 1
  let form := field r 401 1
  let same := f.take 128 == raw && (f.drop 400).take 4 == (r.drop 400).take 4
  let pos := field r 392 8
  let kind := if same then j.kind else jobKindOf op form raw
  let reg := if field r 404 2 = 0xFFFF then none else some (field r 404 2)
  let t := field r 406 2
  if r = f then j else
    { j with
      kind := match kind with | .stream z => .stream (z.goesOn pos) | q => q
      foot := if same then j.foot else jobFootOf op raw kind
      bar := if same then j.bar else jobBarOf op raw
      entry := if same then j.entry else op != 0
      snap := { fmt := BitVec.ofNat 32 (field r 128 4), fmode := fmodeOf (BitVec.ofNat 32 (field r 132 4))
                books := tabOf 0 128 fun i => BitVec.ofNat 16 (field r (136 + 2 * i) 2) }
      pos := match kind with | .stream _ => 0 | _ => pos
      raw := raw, word := BitVec.ofNat 32 (op * 2 ^ 24 + form)
      toks := match j.toks, reg with
        | [], none => []
        | [], some _ => [⟨t, reg, 0, 0⟩]
        | z :: zs, _ => { z with t := t, reg := reg } :: zs }

/-! ## Blocked accesses -/

inductive Space where
  | glob
  | stash
  | lane
  deriving DecidableEq, Repr

/-- What an instruction's word says of its access. -/
structure AccForm where
  kind : OpKind
  space : Space
  n : Nat
  sgn : Bool := false
  const : Bool := false
  gather : Bool := false
  uni : Bool := false
  hint : Nat := 0
  dests : List Nat := []
  deriving DecidableEq, Repr

def loadForm (sp : Space) (n : Nat) (sgn const : Bool) (d a : Opnd) (b : MOff) : AccForm :=
  { kind := if sp = .lane then .laneLoad else .load, space := sp, n := n, sgn := sgn, const := const, uni := uniOff a b
    hint := if sp = .glob then hintOf b else 0, dests := groupBytes d (ceilDiv n 4) }
def storeForm (sp : Space) (n : Nat) (a : Opnd) (b : MOff) : AccForm :=
  { kind := if sp = .lane then .laneStore else .store, space := sp, n := n, uni := uniOff a b }
def gatherForm (n : Nat) (d a b : Opnd) : AccForm :=
  { kind := .load, space := .glob, n := n, gather := true, uni := isS a && isS b, dests := groupBytes d (n / 4) }
def scatterForm (n : Nat) (a b : Opnd) : AccForm := { kind := .store, space := .glob, n := n, uni := isS a && isS b }
def atomForm (sp : Space) (op : AtomOp) (ret : Nat) (sys : Bool) (d : Opnd) : AccForm :=
  { kind := .atomic op sys, space := sp, n := op.width, uni := isS d, dests := groupBytes d ret }

/-- The access of a memory instruction, by its opcode in class 2 (07 R179-R182; 09 R222, R229, R231). -/
def accessRows : List (Nat × (Fields → Option AccForm)) :=
  [(0x00, fun f => fMem f fun d a b => loadForm .glob 1 false false d a b),
   (0x01, fun f => fMem f fun d a b => loadForm .glob 1 true false d a b),
   (0x02, fun f => fMem f fun d a b => loadForm .glob 2 false false d a b),
   (0x03, fun f => fMem f fun d a b => loadForm .glob 2 true false d a b),
   (0x04, fun f => fMem f fun d a b => loadForm .glob 4 false false d a b),
   (0x05, fun f => fMem f fun d a b => loadForm .glob 8 false false d a b),
   (0x06, fun f => fMem f fun d a b => loadForm .glob 16 false false d a b),
   (0x08, fun f => fMem f fun _ a b => storeForm .glob 1 a b),
   (0x09, fun f => fMem f fun _ a b => storeForm .glob 2 a b),
   (0x0A, fun f => fMem f fun _ a b => storeForm .glob 4 a b),
   (0x0B, fun f => fMem f fun _ a b => storeForm .glob 8 a b),
   (0x0C, fun f => fMem f fun _ a b => storeForm .glob 16 a b),
   (0x10, fun f => fMem f fun d a b => loadForm .stash 1 false false d a b),
   (0x11, fun f => fMem f fun d a b => loadForm .stash 1 true false d a b),
   (0x12, fun f => fMem f fun d a b => loadForm .stash 2 false false d a b),
   (0x13, fun f => fMem f fun d a b => loadForm .stash 2 true false d a b),
   (0x14, fun f => fMem f fun d a b => loadForm .stash 4 false false d a b),
   (0x15, fun f => fMem f fun d a b => loadForm .stash 8 false false d a b),
   (0x16, fun f => fMem f fun d a b => loadForm .stash 16 false false d a b),
   (0x18, fun f => fMem f fun _ a b => storeForm .stash 1 a b),
   (0x19, fun f => fMem f fun _ a b => storeForm .stash 2 a b),
   (0x1A, fun f => fMem f fun _ a b => storeForm .stash 4 a b),
   (0x1B, fun f => fMem f fun _ a b => storeForm .stash 8 a b),
   (0x1C, fun f => fMem f fun _ a b => storeForm .stash 16 a b),
   (0x20, fun f => fMem f fun d a b => loadForm .lane 4 false false d a b),
   (0x21, fun f => fMem f fun d a b => loadForm .lane 8 false false d a b),
   (0x22, fun f => fMem f fun d a b => loadForm .lane 16 false false d a b),
   (0x24, fun f => fMem f fun _ a b => storeForm .lane 4 a b),
   (0x25, fun f => fMem f fun _ a b => storeForm .lane 8 a b),
   (0x26, fun f => fMem f fun _ a b => storeForm .lane 16 a b)] ++
  [(0x28, fun f => fMem f fun d a b => loadForm .glob 4 false true d a b),
   (0x29, fun f => fMem f fun d a b => loadForm .glob 8 false true d a b),
   (0x2A, fun f => fThree f fun d a b => gatherForm 4 d a b),
   (0x2B, fun f => fThree f fun d a b => gatherForm 8 d a b),
   (0x2C, fun f => fThree f fun _ a b => scatterForm 4 a b),
   (0x2D, fun f => fThree f fun _ a b => scatterForm 8 a b),
   (0x38, fun f => fMem f fun d _ b => atomForm .glob .add 1 (sysScope b) d),
   (0x39, fun f => fMem f fun d _ b => atomForm .glob .addF 1 (sysScope b) d),
   (0x3A, fun f => fMem f fun d _ b => atomForm .glob .minI 1 (sysScope b) d),
   (0x3B, fun f => fMem f fun d _ b => atomForm .glob .minN 1 (sysScope b) d),
   (0x3C, fun f => fMem f fun d _ b => atomForm .glob .maxI 1 (sysScope b) d),
   (0x3D, fun f => fMem f fun d _ b => atomForm .glob .maxN 1 (sysScope b) d),
   (0x3E, fun f => fMem f fun d _ b => atomForm .glob .and 1 (sysScope b) d),
   (0x3F, fun f => fMem f fun d _ b => atomForm .glob .or 1 (sysScope b) d),
   (0x40, fun f => fMem f fun d _ b => atomForm .glob .xor 1 (sysScope b) d),
   (0x41, fun f => fMem f fun d _ b => atomForm .glob .xchg 1 (sysScope b) d),
   (0x42, fun f => fMem f fun d _ b => atomForm .glob .cas 1 (sysScope b) d),
   (0x43, fun f => fMem f fun d _ b => atomForm .glob .inc 1 (sysScope b) d),
   (0x44, fun f => fMem f fun d _ b => atomForm .glob .addW 2 (sysScope b) d),
   (0x45, fun f => fMem f fun d _ b => atomForm .glob .minW 2 (sysScope b) d),
   (0x46, fun f => fMem f fun d _ b => atomForm .glob .casW 2 (sysScope b) d),
   (0x48, fun f => fMem f fun d _ b => atomForm .glob .add 0 (sysScope b) d),
   (0x49, fun f => fMem f fun d _ b => atomForm .glob .addF 0 (sysScope b) d),
   (0x4A, fun f => fMem f fun d _ b => atomForm .glob .minW 0 (sysScope b) d),
   (0x4B, fun f => fMem f fun d _ b => atomForm .glob .maxN 0 (sysScope b) d),
   (0x4C, fun f => fMem f fun d _ _ => atomForm .stash .add 1 false d),
   (0x4D, fun f => fMem f fun d _ _ => atomForm .stash .minN 1 false d),
   (0x4E, fun f => fMem f fun d _ _ => atomForm .stash .cas 1 false d),
   (0x4F, fun f => fThree f fun _ _ _ => atomForm .stash .add 0 false (.v 0)),
   (0x50, fun f => fMem f fun d _ b => atomForm .glob .stage 4 (sysScope b) d)]

/-- What a word's access is. -/
def accForm (w lit : Word) : Option AccForm := (findRow accessRows (bits w.toNat 30 24)).bind fun g => g (fieldsOf w lit)

/-- The pieces of lane `l`'s access at address `a` with data `x` (07 R176). -/
def AccForm.pieces (f : AccForm) (s : State) (b t l a x : Nat) : List Elem :=
  let data := x % 2 ^ (8 * f.n)
  let data2 := x / 2 ^ (8 * f.n)
  match f.space with
  | .glob => [{ lane := l, va := a, n := f.n, data := data, data2 := data2 }]
  | .stash => [{ s.stashElem b l a f.n data with data2 := data2 }]
  | .lane => (List.range (f.n / 4)).map fun i =>
      { lane := l, va := (s.block b).lpAddr t (a + 4 * i) l, n := 4, data := data / 2 ^ (32 * i) % 2 ^ 32, reg := i, data2 := a + 4 * i }

/-- The flag of a restored access: its destination's tag, or a flag of the record that nothing else is tracked by. -/
def Team.flagFor (m : Team) (busy : Nat) (dests : List Nat) : Option Nat :=
  match dests.head?.bind m.tag with
  | some (.flag f) => some f
  | _ => (List.range 12).find? fun f => bit busy f && !m.busy f && !(m.tags.any fun e => e.2 == .flag f)

/-- A blocked access from its entry: the word is decoded, and every lane named is to be done whole. -/
def State.opOf (s : State) (b : Nat) (r : List Byte) (busy : Nat) : Option Op :=
  let t := field r 18 1
  let m := s.team b t
  let w := BitVec.ofNat 32 (field r 8 4)
  (accForm w (BitVec.ofNat 32 (field r 12 4))).map fun f =>
    let act : Half := BitVec.ofNat 16 (field r 16 2)
    { pc := field r 0 8, word := w, lit := BitVec.ofNat 32 (field r 12 4), kind := f.kind, act := act, dests := f.dests
      uni := f.uni, sgn := f.sgn, const := f.const, hint := f.hint, gather := f.gather, seq := field r 20 4
      flag := m.flagFor busy f.dests, issued := s.tick
      els := (lanesOf act).flatMap fun l => f.pieces s b t l (field r (24 + 8 * l) 8) (field r (152 + 16 * l) 16) }

/-- A blocked access as its entry has it, in place of `old`, or one more. -/
def State.opUnframe (s : State) (b : Nat) (old : Option (Nat × Op)) (r : List Byte) (busy : Nat → Nat) : State :=
  let t := field r 18 1
  match old with
  | some (t0, o) => if s.opFrame b t0 o = r then s
      else match s.opOf b r (busy t) with
      | none => s
      | some n => (s.modTeam b t0 fun m => { m with ops := m.ops.filter (·.id != o.id) }).modTeam b t fun m =>
          { m with ops := if t = t0 then (m.ops.filter fun p => decide (p.id < o.id)) ++ [{ n with id := o.id, flag := o.flag }] ++
                      m.ops.filter (fun p => decide (o.id < p.id))
                    else m.ops ++ [{ n with id := m.nextOp }]
                   nextOp := if t = t0 then m.nextOp else m.nextOp + 1 }
  | none => match s.opOf b r (busy t) with
      | none => s
      | some n => s.modTeam b t fun m => { m with ops := m.ops ++ [{ n with id := m.nextOp }], nextOp := m.nextOp + 1 }

/-! ## Mesh batches -/

def readVertex (r : List Byte) (i : Nat) : List Word := (List.range 4).map fun k => BitVec.ofNat 32 (field r (16 * i + 4 * k) 4)

/-- A batch from its entry; items of all zeros that the team has not written stay unwritten. -/
def Batch.unframe (q : Batch) (r : List Byte) : Batch :=
  { q with
    nv := field r 7176 2, np := field r 7178 2
    pos := (List.range 256).foldl (fun t i =>
      if (Tab.find q.pos i).isSome || (readVertex r i).any (· != 0) then Tab.put t i (readVertex r i) else t) []
    prims := (List.range 256).foldl (fun t i =>
      let o := 4096 + 12 * i
      let p := ((List.range 3).map fun k => field r (o + k) 1, field r (o + 4) 8)
      if (Tab.find q.prims i).isSome || field r o 12 != 0 then Tab.put t i p else t) [] }

/-- The batch of its team; one of a view that is not tracked is dropped. -/
def State.batchUnframe (s : State) (b : Nat) (r : List Byte) : State :=
  let t := field r 7180 1
  let m := s.team b t
  let addr (id : Nat) : Option Nat := (s.viewOf id).map (·.addr)
  match m.batch with
  | some q => if q.frame ((addr q.view).getD 0) t = r then s
      else s.modTeam b t fun m => { m with batch := some (q.unframe r) }
  | none => match s.viewAt (s.block b).asid (field r 7168 8) with
    | none => s
    | some v =>
      let q : Batch := { view := v.id, nv := 0, np := 0, wide := v.wide }
      s.modTeam b t fun m => { m with batch := some (q.unframe r), opened := addNew v.id m.opened }

/-! ## The matrix context -/

/-- The matrix context as its section has it; the instruction at hand stays where its place does. -/
def Mtx.unframe (m : Mtx) (r : List Byte) : Mtx :=
  let o := 126976
  let w (p : Nat) : Word := BitVec.ofNat 32 (field r p 4)
  if m.frame = r then m
  else
    let here := field r (o + 120) 8 == field m.frame (o + 120) 8
    { m with
      tiles := tabOf {} 8 fun i =>
        { ctl := w (o + 4 * i), data := BitVec.ofNat 32768 (field r (4096 * i) 4096)
          bitmap := if bit (field r (o + 180) 1) i then some (BitVec.ofNat 8192 (field r (32768 + 1024 * i) 1024)) else none
          idx := if bit (field r (o + 181) 1) i then some (BitVec.ofNat 16384 (field r (40960 + 2048 * i) 2048)) else none
          res := (List.range (min 64 (field r (o + 172 + i) 1))).map fun k =>
            let e := 57344 + 512 * i + 8 * k
            (field r e 1, field r (e + 1) 1, field r (e + 2) 2)
          scales := tabOf 0x3F8000 512 fun k => field r (61440 + 2048 * i + 4 * k) 4 / 256 }
      accs := tabOf {} 4 fun i =>
        { ctl := w (o + 32 + 4 * i), els := tabOf 0 1024 fun k => BitVec.ofNat 96 (field r (77824 + 12288 * i + 12 * k) 12) }
      q := tabOf 0 16 fun i => w (o + 48 + 4 * i)
      qstep := field r (o + 112) 4, qstat := w (o + 116), rng := w (o + 128), fmt := w (o + 132)
      pc := if here then m.pc else field r (o + 120) 8
      clause := if here then m.clause else none
      stall := if here then m.stall else none
      ops := if here then m.ops else []
      tags := (List.range 32).foldl (fun t n => if bit (field r (o + 140 + n) 1) 4
        then Tab.put t n (field r (o + 140 + n) 1 % 16, bit (field r (o + 140 + n) 1) 5) else t) []
      armed := BitVec.ofNat 16 (field r (o + 184) 2), seen := BitVec.ofNat 16 (field r (o + 186) 2)
      books := tabOf 0 128 fun i => BitVec.ofNat 16 (field r (127232 + 2 * i) 2) }

/-! ## The block -/

/-- What a team in trap context keeps, where the block has none: the entry that trapped is the one whose lanes the handler runs for, and its
clause is read again where it starts (R413, R414). -/
def State.keptOf (s : State) (b : Nat) (m : Team) (r : List Byte) : Team :=
  if m.context != .trap || m.kept.isSome then m
  else
    let es := readFrontier r 640
    let lanes := m.frontier.foldl (fun a e => a ||| e.mask) (0 : Half)
    match (es.find? fun e => e.mask &&& lanes != 0).orElse fun _ => es.head? with
    | none => m
    | some e =>
      let x := s.block b
      match (s.fetchClause x.core x.asid e.pc).1 with
      | .ok f =>
        let body := e.pc + 4 + (if hdrM f.header then 4 else 0)
        let cl : Clause := { addr := e.pc, body := body, cls := hdrClass f.header, setA := hdrSetA f.header, setB := hdrSetB f.header
                             mask := e.mask, prio := e.prio, act := lanes, pc := body, words := f.words }
        { m with kept := some ⟨es, cl, body + 4 * f.words.length⟩ }
      | _ => m

/-- The saved block as its frame has it: teams, stash, block state, matrix context, batches, blocked accesses, jobs. -/
def State.unframe (s : State) (b : Nat) (r : List Byte) : State :=
  let x0 := s.block b
  let h := FrameHdr.of r
  let off := h.offsets
  let sect (i o n : Nat) : List Byte := (r.drop (off.getD i 0 + o)).take n
  let olds := s.jobs.filter fun (_, j) => j.owner == some b
  let blocked := x0.blocked
  let jobOf (k : Nat) : List Byte := sect 4 (512 * k) 512
  let progs := (List.range h.jobs).filterMap fun k =>
    if field (jobOf k) 400 1 = 0 then some (field (jobOf k) 401 1) else none
  let teams := x0.teams.zipIdx.map fun (m, t) =>
    let g := sect 0 (1280 * t) 1280
    let m := if g = m.frame then m else s.keptOf b (m.unframe g) g
    let vs := sect 1 (64 * x0.regs * t) (64 * x0.regs)
    if vs = m.vregBytes x0.regs then m else m.setVregs x0.regs vs
  let bs := sect 3 0 4096
  let s := s.modBlock b fun x =>
    let y : Block := { x with
      teams := teams
      stash := if x.stashSize = 0 then x.stash else writeBytes [] 0 (sect 2 0 (roundUp x.stashSize 1024))
      mtx := if h.mtx then x.mtx.unframe (sect 7 0 131072) else x.mtx }
    if bs = x0.frame x0.core then y else y.unframe bs (bit (field r 22 1) 0) progs
  let s := (List.range h.mesh).foldl (fun s k => s.batchUnframe b (sect 6 (8192 * k) 8192)) s
  let busy (t : Nat) : Nat := field (sect 0 (1280 * t) 1280) 432 2
  let s := (List.range h.pend).foldl (fun s k => s.opUnframe b blocked[k]? (sect 5 (512 * k) 512) busy) s
  (List.range h.jobs).foldl (fun (s : State) k =>
    match olds[k]? with
    | some (i, j) => s.putJob i (j.unframe (jobOf k))
    | none =>
      let x := s.block b
      let fresh : Job := { owner := some b, suite := x.suite, core := x.core, asid := x.asid, kind := .bad 0 }
      let j := fresh.unframe (jobOf k)
      let j : Job := { j with toks := j.toks.map fun z => { z with seq := (s.team b z.t).jobs + 1, since := (s.team b z.t).nextOp } }
      let s := j.toks.foldl (fun (s : State) (z : JobTok) => s.modTeam b z.t fun m => { m with jobs := m.jobs + 1 }) s
      { s.putJob s.nextJob j with nextJob := s.nextJob + 1 }) s

end Sys2Proof.Machine
end

