-- ==== Sys2Proof/Machine/Frames.lean ====
section
/-! DEFINITION. Saving a block and restoring it (01 R27, R28; 13 R349, R350; 02 R60; 10 R273; 11 R306; 16 R423). -/
namespace Sys2Proof.Machine
open Sys2Proof

/-! ## Saving -/

/-- An operation that does not keep its block from being saved: blocked on a fault (02 R60), a walk, which its record takes up
again (15 R399), or an access that waits for the stash of a block that is itself saved (09 R220). -/
def State.opWaits (s : State) (o : Op) : Bool :=
  o.faulted || o.isWalk || (o.els.any (!·.done) && o.els.all fun e => e.done || !s.viaUp e || (match e.place with
    | some (.stash h _) => !s.stashUp h
    | _ => false))

/-- A job is in progress: a save that is not forced waits for its end (10 R273); a stream takes up its tile again. -/
def Job.working (j : Job) : Bool :=
  match j.kind with
  | .near _ _ _ running _ => running
  | .stream _ => false
  | _ => j.pos != 0

/-- A selection or a lookup that has begun to write: every save waits for its end (12 R329). -/
def Job.writing (j : Job) : Bool :=
  match j.kind with
  | .near _ kind _ _ data => kind != 4 && data.isSome && j.pos != 0
  | _ => false

/-- A page fault of the block's own stopped the job too (10 R247). -/
def State.jobOnFault (s : State) (b j : Nat) : Bool :=
  s.faults.any fun f => f.who == FaultWho.job j && s.faults.any fun g => g.who == FaultWho.block b && g.asid == f.asid && g.va == f.va

/-- What must be over before the save has come to its end (02 R60; 10 R273): outstanding instructions, operations at the
barrier unit, and, but for a forced save, jobs in progress. -/
def State.saveReady (s : State) (b : Nat) : Bool :=
  let x := s.block b
  x.barOps.isEmpty && (!x.mtx.midway || x.mtx.held) && x.teams.all (fun m => m.ops.all s.opWaits) &&
    s.jobs.all fun (i, j) => j.owner != some b || j.ended.isSome || s.jobOnFault b i ||
      (!j.writing && (x.forced || j.held || !j.working))

/-- A block's job as a save leaves it (10 R273; 12 R329): a stream takes up its tile at the first unit, a selection or a lookup runs
again from its start, a gradient goes on at its next add, and each of these waits for its engine again. One that `again` names, which
its block's own fault stopped, is redone whole (R247), but for a gradient, each of whose adds performs once (12 R326). -/
def Job.atSave (j : Job) (again : Bool) : Job :=
  let j := if again then { j with held := false } else j
  match j.kind with
  | .stream r => { j with kind := .stream { r with unit := 0 } }
  | .near sel 4 body _ data => { j with kind := .near sel 4 body false data }
  | .near sel kind body _ _ => { j with kind := .near sel kind body false none, buf := [], pos := 0 }
  | _ => if again then { j with pos := 0, buf := [] } else j

/-- The lane-private lines of a team are written back (07 R174). -/
def State.spillLanes (s : State) (b t : Nat) : State :=
  let x := s.block b
  let m := s.team b t
  m.lpTouched.foldl (fun s n =>
    match s.engWrite x.core x.asid (x.lpbase.toNat + t * 16 * x.lpsize + 128 * n) (readBytes m.lpData (128 * n) 128) with
    | .ok s => s
    | .error _ => s) s

/-- The walks in progress of a team are loaded from their records again (15 R399). -/
def Team.refillWalks (m : Team) : Team :=
  { m with ops := m.ops.map fun o => match o.kind with
    | .walk trec => { o with
        log := []
        walks := ((lanesOf o.act).zip o.walks).map fun (l, w) => if w.ended.isNone then w.reload (m.recordBytes trec l) else w }
    | _ => o }

/-- The walks in progress of a team write their records (15 R399). -/
def Team.spillWalks (m : Team) : Team :=
  m.ops.foldl (fun m o => match o.kind with
    | .walk trec => ((lanesOf o.act).zip o.walks).foldl (fun m (l, w) =>
        if w.ended.isNone then m.lpWrite trec l (w.record 3) else m) m
    | _ => m) m

/-- Bytes of a frame, in the ASID of its address. -/
def State.frameWrite (s : State) (b va : Nat) (bytes : List Byte) : State :=
  let x := s.block b
  match s.engWrite x.core x.frameAsid va bytes with
  | .ok s => s
  | .error _ => s

/-- The teams as a save leaves them: open transactions abort with `CONFLICT` (09 R234), walks that wait on a page are
stopped with their instruction. -/
def Team.settle (m : Team) : Team :=
  let m := (m.abortLanes m.openTx 2 0).spillWalks
  { m with ops := m.ops.map fun o => if o.isWalk then { o with faulted := false } else o }

/-- The block is saved at the address it is being saved at. -/
def State.saveBlock (s : State) (b addr : Nat) : State :=
  let s0 := s
  let hits := (s.jobs.filter fun (j, x) => x.owner == some b && s.jobOnFault b j).map Prod.fst
  let s : State := { s with
    jobs := s.jobs.map fun (e : Nat × Job) =>
      (e.1, if e.2.owner = some b ∧ e.2.ended.isNone then e.2.atSave (hits.contains e.1) else e.2)
    nearQueue := s.nearQueue.filter fun e => !(s.jobs.any fun z => z.1 == e.2.2 && z.2.owner == some b) }
  let own (f : PFault) : Bool := match f.who with
    | .seq q => q == b
    | .walk q _ _ => q == b
    | .job j => hits.contains j
    | _ => false
  let s := { s with faults := s.faults.filter fun f => !own f }
  let s := s.modBlock b fun x => { x with
    teams := x.teams.map Team.settle
    mtx := { x.mtx with ops := x.mtx.ops.filter (·.mma.isSome), held := false, buf := [], wrote := 0 } }
  let s := (List.range (s.block b).teams.length).foldl (fun s t => s.spillLanes b t) s
  let slots := (s.block b).maps.map Prod.fst
  let s := (s.block b).maps.foldl (fun s (i, m) => m.dirty.foldl (fun s k => s.writeBack b i k) s) s
  let s := s.modBlock b fun x => { x with maps := x.maps.map fun (i, m) =>
    (i, if slots.contains i then { m with filled := [], dirty := [] } else m) }
  let s := s.frameWrite b addr (s.frameBytes b s.tick)
  let s := s.modBlock b fun x => { x with saved := some addr, saving := none, savedAt := s.tick }
  let s := match s.focus with
    | some (.team b' _) => if b' = b then { s with focus := none } else s
    | some (.seq b') => if b' = b then { s with focus := none } else s
    | none => s
  s0.drainedCause s (s.block b).suite

/-- The pool's frames that no block holds (R350). -/
def State.freeFrame (s : State) (u : Nat) : Option Nat :=
  let used := s.blocks.filterMap fun (_, x) => if x.suite = u then x.frameNo else none
  (List.range (s.suite u).used.nframes.toNat).find? fun n => !used.contains n

def State.frameAddr (s : State) (u n : Nat) : Nat := (s.suite u).used.frames.toNat + n * (256 * Config.frameStride)

/-- A block may be saved: it is resident, and no kill has ended it. -/
def Block.savable (x : Block) : Bool := x.saved.isNone && x.killed.isNone

/-- What keeps the frame of a block from being written at `addr`, if anything does. -/
def State.frameMiss (s : State) (b addr : Nat) : Option Miss :=
  let x := s.block b
  match s.engWrite x.core x.frameAsid addr (s.frameBytes b s.tick) with
  | .ok _ => none
  | .error m => some m

/-- The save of a block into the pool comes to its end; an absent page of its frame is the ostler's fault, and the save waits for it. -/
def State.endSave (s : State) (b addr : Nat) : Option State :=
  if !s.saveReady b then none
  else match s.frameMiss b addr with
  | none => some (s.saveBlock b addr)
  | some m => match m.why with
    | .fault ro =>
      let va := m.va / 4096 * 4096
      if s.faults.any fun f => f.who == .retry && f.asid == m.asid && f.va == va then none
      else some (s.noteFault { asid := m.asid, va := va, kind := 1, readOnly := ro, who := .retry, addr := m.va })
    | _ => none

/-- The block's save into a frame of the pool goes on: it takes a frame and stops issuing; once its outstanding
instructions are over, it is saved. `none` where it can do neither now. -/
def State.poolSave (s : State) (b : Nat) (forced : Bool) : Option State :=
  let x := s.block b
  if !x.savable then none
  else match x.saving with
  | some addr => s.endSave b addr
  | none => (s.freeFrame x.suite).map fun n =>
      let addr := s.frameAddr x.suite n
      let s := s.modBlock b fun x => { x with
        saving := some addr, frameNo := some n, frameAsid := ostAsid x.suite, forced := forced }
      (s.endSave b addr).getD s

/-- `BLOCK_SAVE`: a block one of whose teams waits on a page fault (13 R350), or whose save has begun. -/
def blockSave (b : Nat) : M Unit := do
  let s ← get
  let x := s.block b
  need ((!x.faulted.isEmpty || x.saving.isSome) && !x.parked) .notEnabled
  match s.poolSave b false with
  | some s => set s
  | none => stop (.fault .notEnabled)

/-- `FORCED_SAVE`: `drainlim` ticks after a drain request, every block still resident (R349), and every traversal batch (15 R408); a
block for which there is no frame, or whose instructions are not over, stays for a later step. A block that waits for its fault's save gets that save, and
counts as drained by it (01 R28). -/
def forcedSave (u : Nat) : M Unit := do
  let s ← get
  let x := s.suite u
  match x.drainAt with
  | none => stop (.fault .notEnabled)
  | some t0 => do
    need (decide (t0 + x.used.drainlim.toNat ≤ s.tick)) .notEnabled
    let bs := (s.blocks.filter fun (_, y) => y.suite == u && y.savable).map Prod.fst
    let (s', n) := bs.foldl (fun (acc : State × Nat) b => match acc.1.poolSave b (s.block b).faulted.isEmpty with
      | some s => (s, acc.2 + 1)
      | none => acc) (s, 0)
    let (s', n) := (s'.jobs.filter fun e => e.2.suite == u).foldl (fun (acc : State × Nat) e => match acc.1.parkBatch e.1 e.2 with
      | some s => (s, acc.2 + 1)
      | none => acc) (s', n)
    need (n != 0) .notEnabled
    set s'

/-! ## Restoring (01 R10; 13 R350) -/

/-- The bytes of a saved block's frame, where they can be read. -/
def State.frameRead (s : State) (b n : Nat) : Option (List Byte) :=
  let x := s.block b
  match s.engRead x.core x.frameAsid (x.saved.getD 0) n with
  | .ok (.ok r, _) => some r
  | _ => none

/-- The frame of a saved block can be restored: its header is good and is the block's. -/
def State.frameGood (s : State) (b : Nat) : Bool :=
  let x := s.block b
  match s.frameRead b 256 with
  | some r => frameOk r && field r 20 1 == x.teams.length && field r 21 1 == x.regs
  | none => false

/-- The lane-private lines of a team as memory holds them (07 R174). -/
def State.refillLanes (s : State) (b t : Nat) : State :=
  let x := s.block b
  (s.team b t).lpTouched.foldl (fun s n =>
    match s.engRead x.core x.asid (x.lpbase.toNat + t * 16 * x.lpsize + 128 * n) 128 with
    | .ok (.ok bytes, s) => s.modTeam b t fun m => { m with lpData := writeBytes m.lpData (128 * n) bytes }
    | _ => s) s

/-- The core that accepts a saved block (R24, R10). -/
def State.coreBack (s : State) (b r : Nat) : Option Nat :=
  let x := s.block b
  (s.coreOrder r).find? fun c => (x.hitch.isNone || postOfCore c == postOfCore x.core) &&
    s.accepts c x.teams.length x.regs x.stashSize x.usesMtx

/-- The block is restored on core `c`: its sleepers are ready (03 R91), its accesses are issued again. -/
def State.restoreOn (s : State) (b c : Nat) : State :=
  match s.frameRead b (FrameHdr.total (FrameHdr.of ((s.frameRead b 256).getD []))) with
  | none => s
  | some r =>
    let no := s.residentNo c
    let slots := s.freeSlots c
    let s := s.unframe b r
    let x := s.block b
    let drain := (s.suite x.suite).drainAt.isSome
    let x := { x with
      core := c, resident := no, saved := none, frameNo := none, parked := false, forced := false, drain := drain
      teams := x.teams.zipIdx.map fun (m, t) => { m with
        slot := slots.getD t 0
        lanePages := []
        stall := match m.stall with | some (.sleep _) => none | q => q } }
    let s1 := ((s.setBlock b x).raisePts c (s.pts (s.block b).core)).seeAgents c
    let s : State := { s1 with
      jobs := s1.jobs.map fun (e : Nat × Job) => (e.1, if e.2.owner = some b then { e.2 with core := c } else e.2)
      nearQueue := s1.nearQueue ++ s1.jobs.filterMap fun (e : Nat × Job) => match e.2.kind with
        | .near sel .. => if e.2.owner = some b ∧ e.2.ended.isNone then some (roomOfCore c, sel, e.1) else none
        | _ => none
      lastCore := Tab.set 0 s.lastCore (roomOfCore c) ((c + 1) % Config.coresPerRoom) }
    ((List.range x.teams.length).foldl (fun s t => (s.refillLanes b t).modTeam b t Team.refillWalks) (s.trimL1 c)).faultsOver b

/-- The pick restores a saved block in room `r`. -/
def State.placeSaved (s : State) (b r : Nat) : Option State :=
  if !s.frameGood b then none
  else (s.coreBack b r).map fun c => s.restoreOn b c

/-- `BLOCK_RESTORE`. -/
def blockRestore (b : Nat) : M Unit := do
  let s ← get
  let x := s.block b
  need (s.restorable b && (s.suite x.suite).dispatches) .notEnabled
  match s.placeSaved b (roomOfCore x.core) with
  | some s => set s
  | none => stop (.fault .notEnabled)

/-! ## The pick (R339) -/

/-- A candidate placed in room `r`. -/
def State.place (s : State) (u r : Nat) (c : Cand) : Option State :=
  if !s.roomFree u r c then none
  else match c with
  | .head q => s.placeHead u q r
  | .launch l => s.placeNext u l r
  | .saved b => if (s.block b).backRooms.contains r then s.placeSaved b r else none

/-- `OSTLER_PICK`: room `r` takes the first candidate, in the order of the pick, that it can place. -/
def ostlerPick (u r : Nat) : M Unit := do
  let s ← get
  need ((s.suite u).dispatches && (s.roomsOf u).contains r) .notEnabled
  match firstOf (fun (c, at_) => (s.place u r c).map fun s => s.noteServed u at_) (s.pickOrder u) with
  | some s => set s
  | none => stop (.fault .notEnabled)

/-! ## `CSAVE`, `CRESTORE` (16 R423) -/

/-- The outcome for the block a `CSAVE` names. -/
def csave (k : Issue) (d a b : Opnd) : M Unit := do
  k.privileged
  let addr := (k.tm.rdPair b 0).toNat
  trapIf (addr % 256 != 0) .misalign addr
  let n := (k.tm.rd a 0).toNat
  let s ← get
  match (s.residents (n / 32) (n % 32)).find? fun b => (s.block b).savable with
  | none => k.write d fun _ => 1
  | some p =>
    let x := s.block p
    if p = k.b then k.write d fun _ => 1
    else if x.suite ≠ k.blk.suite ∧ k.tm.context ≠ .service then k.write d fun _ => 2
    else
      -- a save that has begun for the pool goes on there
      let s := if x.saving.isSome then s
        else s.modBlock p fun x => { x with saving := some addr, frameAsid := k.blk.asid, forced := true, parked := true }
      if (s.block p).saving = some addr ∧ (s.block p).parked ∧ s.saveReady p then match s.frameMiss p addr with
        | some m => stop (m.stop k.b)
        | none => do
          set (s.saveBlock p addr)
          k.write d fun _ => 0
      else do
        set s
        k.mod Team.retry

/-- The saved block whose frame stands at an address: by the address, or else by what the header names. -/
def State.frameOwner (s : State) (asid addr : Nat) (r : List Byte) : Option Nat :=
  let at_ := s.blocks.find? fun (_, x) => x.saved == some addr && x.frameAsid == asid
  let named := s.blocks.find? fun (_, x) => x.saved.isSome && x.lrec == field r 8 8 && x.bindex == field r 16 4 &&
    x.core == field r 56 2 && x.savedAt == field r 48 8
  (at_.orElse fun _ => named).map Prod.fst

/-- A block that nothing but its frame tells of, in the caller's suite and ASID: what the header has, and of the launch record it names
the size of the lane-private area and the checks (log 78); the sections are read when it is restored. -/
def State.adopt (s : State) (k : Issue) (addr : Nat) (r : List Byte) : Nat × State :=
  let h := FrameHdr.of r
  let rec_ := match s.engRead k.blk.core (ostAsid k.blk.suite) (field r 8 8) 64 with
    | .ok (.ok g, _) => g
    | _ => fill 64 0
  let x : Block :=
    { asid := k.blk.asid, suite := k.blk.suite, core := field r 56 2 % (Config.rooms * Config.coresPerRoom), regs := h.regs, stashSize := h.stash
      lpsize := 1024 * max 1 (field rec_ 45 1), lpbase := BitVec.ofNat 64 (field r 32 8), trapvec := field r 40 8, bindex := field r 16 4
      teams := fill h.teams {}, launch := s.nextLaunch, blocks := recBlocks rec_, persistent := bit (recCtl rec_) 3
      meshCheck := bit (recCtl rec_) 4, lrec := field r 8 8, usesMtx := h.mtx, saved := some addr, frameAsid := k.blk.asid }
  (s.nextBlock, { s with blocks := Tab.put s.blocks s.nextBlock x, nextBlock := s.nextBlock + 1, nextLaunch := s.nextLaunch + 1 })

/-- `CRESTORE`. -/
def crestore (k : Issue) (d a : Opnd) : M Unit := do
  k.privileged
  let addr := (k.tm.rdPair a 0).toNat
  trapIf (addr % 256 != 0) .misalign addr
  let s ← get
  match s.engRead k.blk.core k.blk.asid addr 256 with
  | .error m => stop (m.stop k.b)
  | .ok (.poison, _) => trap .ecc addr
  | .ok (.ok r, s) =>
    match s.frameOwner k.blk.asid addr r with
    | none =>
      let h := FrameHdr.of r
      if !frameOk r || h.teams = 0 || h.teams > 64 || h.regs % 8 ≠ 0 || h.regs = 0 || h.regs > 96 then do set s; k.write d fun _ => 4
      else match s.engRead k.blk.core k.blk.asid addr h.total with
        | .error m => stop (m.stop k.b)
        | .ok (.poison, _) => trap .ecc addr
        | .ok (.ok r, s) => do
          let (p, s') := s.adopt k addr r
          match s'.coreBack p (roomOfCore (s'.block p).core) with
          | none => do set s; k.write d fun _ => 3
          | some c => do
            set (s'.restoreOn p c)
            k.write d fun _ => 0
    | some p =>
      let x := s.block p
      if !frameOk r || field r 20 1 != x.teams.length || field r 21 1 != x.regs then do set s; k.write d fun _ => 4
      else if x.suite ≠ k.blk.suite ∧ k.tm.context ≠ .service then do set s; k.write d fun _ => 2
      else match s.coreBack p (roomOfCore x.core) with
        | none => do set s; k.write d fun _ => 3
        | some c => do
          set ((s.modBlock p fun x => { x with saved := some addr, frameAsid := k.blk.asid }).restoreOn p c)
          k.write d fun _ => 0

end Sys2Proof.Machine
end

