-- ==== Sys2Proof/Machine/Device.lean ====
section
/-! DEFINITION. The device to its host (17 R434-R440, R442, R443, R447, R449, R478; 13 R331): registers, windows, the root
mailbox, machine-check records (08 R217-R219; 16 R426). -/
namespace Sys2Proof.Machine
open Sys2Proof

/-! ## Machine checks -/

/-- A record's 32 bytes (08 R219). -/
def MCheck.bytes (r : MCheck) : List Byte :=
  leBytes 32 (r.tick % 2 ^ 64 + r.pa % 2 ^ 52 / 128 * 128 * 2 ^ 64 + r.sectors % 16 * 2 ^ 128 + r.asid % 8192 * 2 ^ 134 +
    r.kind % 256 * 2 ^ 160 + (r.room % 8 * 32 + r.post % 8 * 4) * 2 ^ 168)

/-- The record of an error goes to the suite that owns the ASID charged; without such an ASID, or with a full queue, to
the room's system record, which counts what was moved to it. -/
def State.queueCheck (s : State) (r : MCheck) (known : Bool) : State :=
  let u := s.suiteOfAsid r.asid
  let toRoom (s : State) : State := { s with sysrec := Tab.set [] s.sysrec r.room (Tab.get [] s.sysrec r.room ++ [r]) }
  if !known then toRoom s
  else if (s.suite u).mcq.length < 64 then (s.modSuite u fun x => { x with mcq := x.mcq ++ [r] }).raiseCause u 2
  else
    let s := toRoom s
    { s with sysrecN := Tab.set 0 s.sysrecN r.room (Tab.get 0 s.sysrecN r.room + 1) }

/-- `ECC_UNCORRECTABLE`: the sectors of the line at `pa` are poisoned. The eviction of a dirty line is charged to the line's last
writer; a read of a clean one, of sectors without poison, to its reader. -/
def eccUncorrectable (kind pa : Nat) (sectors : BitVec 4) (asid : Nat) : M Unit := do
  let s ← get
  need (decide (1 ≤ kind) && decide (kind ≤ 4) && s.installed pa && sectors != 0 && decide (asid < 8192)) .notEnabled
  let l := pa / 128
  let h := s.homeLine l
  let bad := ((List.range 4).filter (sectors.getLsbD ·)).map (· + 4 * l)
  need (if kind = 1 then h.dirty else !h.dirty && h.reader == some asid && !bad.any s.poison.contains) .notEnabled
  let who := if kind = 1 then h.writer else asid
  let s := s.setHomeLine l { h with dirty := false }
  let r : MCheck := { room := roomOfPa pa, post := homeOfPa pa % Config.postsPerRoom, kind := kind, asid := who
                      sectors := sectors.toNat, pa := l * 128, tick := s.tick }
  set ({ s with poison := bad.foldl (fun t k => addNew k t) s.poison }.queueCheck r (Tab.find s.roots who).isSome)

/-- `ECC_CORRECTABLE`. -/
def eccCorrectable (r : Nat) : M Unit := do
  need (decide (r < Config.rooms)) .notEnabled
  update fun s => { s with corrected := Tab.set 0 s.corrected r (Tab.get 0 s.corrected r + 1) }

/-! ## Display heads and encoders (R442, R443) -/

def State.head (s : State) (r : Nat) : Head := Tab.get {} s.heads r
def State.setHead (s : State) (r : Nat) (h : Head) : State := { s with heads := Tab.set {} s.heads r h }
def minPeriod : Nat := 8437500
/-- The period in force. -/
def Head.period (h : Head) : Nat := if h.dperiod = 0 then minPeriod else h.dperiod.toNat
/-- What a write leaves in `dctl` of head `r`: only heads 0 and 1 drive an output. -/
def dctlOf (r : Nat) (v : DWord) : DWord :=
  let target := bits v.toNat 2 1
  if target = 1 ∧ 2 ≤ r then 0
  else BitVec.ofNat 64 (bits v.toNat 0 0 + 2 * (if target = 1 then 1 else 0))
/-- The frame is larger than the encoder codes. -/
def Head.tooLarge (h : Head) : Bool := decide (bits h.dsize.toNat 13 0 > 3840) || decide (bits h.dsize.toNat 29 16 > 2160)
/-- A head larger than the encoder codes keeps `ectl` codec at 0. -/
def Head.codecOff (h : Head) : Head := if h.tooLarge then { h with ectl := h.ectl &&& ~~~3 } else h

/-- A write to `dctl`. -/
def State.writeDctl (s : State) (r : Nat) (v : DWord) : State :=
  let h := s.head r
  let w := dctlOf r v
  if w.getLsbD 0 && !h.dctl.getLsbD 0 then s.setHead r { h with dctl := w, dnext := BitVec.ofNat 64 (s.tick + h.period), planes := none }
  else if !w.getLsbD 0 then s.setHead r { h with dctl := w, dnext := 0, planes := none }
  else s.setHead r { h with dctl := w }

/-- `DISPLAY_ENABLE`: `dctl` enable changes from 0 to 1. -/
def displayEnable (r : Nat) (v : DWord) : M Unit := do
  let s ← get
  need (decide (r < Config.rooms) && !(s.head r).dctl.getLsbD 0 && (dctlOf r v).getLsbD 0) .notEnabled
  set (s.writeDctl r v)

/-- The range lies in the room's partition (01 R21). -/
def State.inRoom (s : State) (r lo n : Nat) : Bool :=
  decide (r * Config.roomBytes ≤ lo) && decide (lo + n ≤ r * Config.roomBytes + s.roomSize r)

/-- `PLANE_READ`: the head reads its plane records; outside its room they read as nothing visible. -/
def planeRead (r : Nat) : M Unit := do
  let s ← get
  let h := s.head r
  need (h.dctl.getLsbD 0 && h.planes.isNone && decide (h.dnext.toNat ≤ s.tick + 16384)) .notEnabled
  let a := h.dplane.toNat
  let (rec_, s) := if s.inRoom r a 128 then s.agentRead engineRank (1024 * s.suiteOfRoom r) a 128 else (fill 128 0, s)
  set (s.setHead r { h with planes := some rec_, derr := if s.inRoom r a 128 then h.derr else h.derr ||| 1 })

/-- A plane record that is visible reaches outside the room. -/
def State.planeOut (s : State) (r : Nat) (p : List Byte) : Bool :=
  bit (field p 21 1) 0 && !s.inRoom r (field p 0 8) (field p 8 4 * (field p 18 2 - 1) + field p 16 2 * (if field p 20 1 = 0 then 4 else 8))

/-- Bytes of a plane's rows; a plane that reaches outside the room is black. -/
def State.planeBytes (s : State) (r : Nat) (p : List Byte) : List Byte × State :=
  let w := field p 16 2 * (if field p 20 1 = 0 then 4 else 8)
  let rows := field p 18 2
  if !bit (field p 21 1) 0 then ([], s)
  else if s.planeOut r p then (fill (w * rows) 0, s)
  else (List.range rows).foldl (fun (acc : List Byte × State) y =>
    let (b, s) := acc.2.agentRead engineRank (1024 * acc.2.suiteOfRoom r) (field p 0 8 + field p 8 4 * y) w
    (acc.1 ++ b, s)) ([], s)

/-- A coded frame of `n` bytes, which belong to the encoder, enters the ring, if there is room (R443; log 6). -/
def State.encoded (s : State) (r n : Nat) : Option State :=
  let h := s.head r
  let size := h.esize.toNat
  let used := (h.ewrite.toNat + size - h.eread.toNat % (size + 1)) % (max size 1)
  if size ≤ used + n then none
  else
    let bytes := (List.range n).map fun i => Config.freeByte (s.free + i)
    let key := h.skipping || decide (h.sinceKey + 1 ≥ h.egop.toNat)
    let s := (List.range n).foldl (fun s i =>
      let a := h.ebase.toNat + (h.ewrite.toNat + i) % size
      if s.inRoom r a 1 then s.agentWrite engineRank a [bytes.getD i 0] 0 else s) { s with free := s.free + n }
    some (s.setHead r { h with ewrite := BitVec.ofNat 64 ((h.ewrite.toNat + n) % size), skipping := false, waiting := none
                               sinceKey := if key then 0 else h.sinceKey + 1 })

/-- The encoder codes the head's frame. One that finds no room waits for it; the frame before, which has waited for a whole period, is
skipped and counted, and the next one coded is a key frame (R443). -/
def State.encode (s : State) (r : Nat) : State :=
  let h := s.head r
  let s := if h.waiting.isSome then s.setHead r { h with estat := h.estat + 1, skipping := true, waiting := none } else s
  let n := (Config.freeWord s.free).toNat
  let s := { s with free := s.free + 1 }
  (s.encoded r n).getD (s.setHead r { s.head r with waiting := some n })

/-- The host has made room in the ring: a frame that waits for it enters. -/
def State.ringRoom (s : State) (r : Nat) : State :=
  match (s.head r).waiting with
  | some n => (s.encoded r n).getD s
  | none => s

/-- `SCAN_OUT`: the head composes a frame of its planes (R441), shows it at its published tick and publishes the next; whether it ran out of
bytes on the way, so that a line repeats, is a matter of timing, which the model leaves free (log 118). -/
def scanOut (r : Nat) : M Unit := do
  let s ← get
  let h := s.head r
  need (h.dctl.getLsbD 0 && h.planes.isSome && decide (h.dnext.toNat ≤ s.tick)) .notEnabled
  let ps := (List.range 4).map fun i => ((h.planes.getD []).drop (32 * i)).take 32
  let out := ps.any (s.planeOut r)
  let (px, s) := ps.foldl (fun (acc : List (List Byte) × State) p => let (b, s) := acc.2.planeBytes r p; (acc.1 ++ [b], s)) ([], s)
  let late := (Config.freeWord s.free).getLsbD 0
  let s := { s with free := s.free + 1 }
  let s := s.setHead r { h with
    dnext := BitVec.ofNat 64 (h.dnext.toNat + h.period), planes := none
    image := Config.compose ps px (bits h.dsize.toNat 13 0) (bits h.dsize.toNat 29 16) late
    derr := h.derr ||| (if out then 1 else 0) ||| (if late then 2 else 0) }
  set (if bits h.dctl.toNat 2 1 = 0 ∧ bits h.ectl.toNat 1 0 ≠ 0 then s.encode r else s)

/-! ## Registers (R331, R436, R442, R443, R478) -/

/-- Bits [hi:lo] of a register that keeps only those. -/
def keepBits (hi lo : Nat) (v : DWord) : DWord := BitVec.ofNat 64 (bits v.toNat hi lo * 2 ^ lo)
/-- Word `i` of a record. -/
def recWord (r : List Byte) (i : Nat) : DWord := BitVec.ofNat 64 (field r (8 * i) 8)

def OstPage.get (p : OstPage) (o : Nat) : DWord :=
  if o = 0 then p.qtable else if o = 8 then p.arena else if o = 0x10 then p.arenasz else if o = 0x18 then p.ktable
  else if o = 0x20 then p.htable else if o = 0x28 then p.frames else if o = 0x30 then p.nframes else if o = 0x38 then p.errq
  else if o = 0x40 then p.drainlim else 0
def OstPage.set (p : OstPage) (o : Nat) (v : DWord) : OstPage :=
  if o = 0 then { p with qtable := v } else if o = 8 then { p with arena := v } else if o = 0x10 then { p with arenasz := v }
  else if o = 0x18 then { p with ktable := v } else if o = 0x20 then { p with htable := v }
  else if o = 0x28 then { p with frames := v } else if o = 0x30 then { p with nframes := v }
  else if o = 0x38 then { p with errq := keepBits 11 0 v } else if o = 0x40 then { p with drainlim := v } else p

/-- `ctl` as it reads: bit 2 is `drained`. -/
def State.ctlRead (s : State) (u : Nat) : DWord :=
  ((s.suite u).ctl &&& 3) ||| (if s.suiteDrained u then 4 else 0)

/-- A meaning whose conditions do not hold changes nothing. -/
def M.orKeep (m : M Unit) (s : State) : State :=
  match m s with
  | .ok (_, s) => s
  | .error _ => s

/-- A write to `ctl`. -/
def State.writeCtl (s : State) (u : Nat) (v : DWord) : State :=
  let c := (s.suite u).ctl
  let s := if v.getLsbD 0 && !c.getLsbD 0 then M.orKeep (ctlEnable u) s
    else if !v.getLsbD 0 then s.modSuite u fun x => { x with ctl := x.ctl &&& ~~~1 } else s
  if v.getLsbD 1 && !c.getLsbD 1 then M.orKeep (ctlDrain u) s
  else if !v.getLsbD 1 && c.getLsbD 1 then M.orKeep (ctlDrainEnd u) s else s

/-- `evq` as it reads: bit 32 valid. -/
def Suite.evqWord (x : Suite) : DWord := match x.evq with
  | [] => 0
  | v :: _ => BitVec.ofNat 64 (2 ^ 32 + v.toNat)

/-- A read of `evq` pops it. -/
def State.popEvent (s : State) (u : Nat) : State := s.modSuite u fun x => { x with evq := x.evq.drop 1 }

def evqPop (u : Nat) : M Unit := do
  need (decide (u < Config.rooms)) .notEnabled
  update (·.popEvent u)

/-- A register of a head and its encoder. -/
def Head.get (h : Head) (o : Nat) : DWord :=
  if o = 0 then h.dctl else if o = 8 then h.dsize else if o = 0x10 then h.dperiod else if o = 0x18 then h.dnext
  else if o = 0x20 then h.dplane else if o = 0x28 then h.derr else if o = 0x100 then h.ectl else if o = 0x108 then h.erate
  else if o = 0x110 then h.egop else if o = 0x118 then h.ebase else if o = 0x120 then h.esize else if o = 0x128 then h.eread
  else if o = 0x130 then h.estat else 0

def State.headWrite (s : State) (r o : Nat) (v : DWord) : State :=
  let h := s.head r
  if o = 0 then s.writeDctl r v
  else if o = 0x128 then (s.setHead r { h with eread := v }).ringRoom r
  else s.setHead r (
    if o = 8 then { h with dsize := v &&& 0x3FFF3FFF }.codecOff
    else if o = 0x10 then { h with dperiod := BitVec.ofNat 64 (max minPeriod v.toNat) }
    else if o = 0x20 then { h with dplane := v }
    else if o = 0x28 then { h with derr := h.derr &&& ~~~(v &&& 3) }
    else if o = 0x100 then { h with ectl := v &&& 0x37 }.codecOff
    else if o = 0x108 then { h with erate := v }
    else if o = 0x110 then { h with egop := v }
    else if o = 0x118 then { h with ebase := v, ewrite := 0 }
    else if o = 0x120 then { h with esize := v, ewrite := 0 }
    else h)

/-- A register of a suite page (R436). -/
def State.suiteRead (s : State) (u o : Nat) : DWord :=
  let x := s.suite u
  let mc := match x.mcq with | r :: _ => r.bytes | [] => []
  let pf := match x.pfq with | e :: _ => e.bytes | [] => []
  if o = 0x48 then s.ctlRead u
  else if o < 0x9000 then x.page.get o
  else if o = 0x10000 then x.segbase
  else if o = 0x10008 then x.segasid
  else if o = 0x10010 then x.hosterr
  else if 0x10018 ≤ o ∧ o ≤ 0x10030 then recWord mc ((o - 0x10018) / 8)
  else if o = 0x10040 then x.evqWord
  else if o = 0x10048 then x.evlost
  else if o = 0x10050 then x.trbase
  else if o = 0x10058 then x.trctl
  else if o = 0x10060 then x.trhead
  else if o = 0x10068 then x.trtail
  else if o = 0x10070 then x.dbgctl
  else if o = 0x10080 then x.irqstat
  else if o = 0x10088 then x.irqmask
  else if 0x10090 ≤ o ∧ o ≤ 0x100A8 then recWord pf ((o - 0x10090) / 8)
  else if 0x20000 ≤ o ∧ o < 0x28000 ∧ (s.roomsOf u).contains ((o - 0x20000) / 0x1000) then
    (s.head ((o - 0x20000) / 0x1000)).get (o % 0x1000)
  else 0

/-- A write to a suite page: by the register's access code, or what the register does. -/
def State.suiteWrite (s : State) (u o : Nat) (v : DWord) : State :=
  let mod (f : Suite → Suite) : State := s.modSuite u f
  if o = 0x48 then s.writeCtl u v
  else if 0x1000 ≤ o ∧ o < 0x9000 then M.orKeep (tailWrite u ((o - 0x1000) / 8) v) s
  else if o < 0x9000 then if (s.suite u).ctl.getLsbD 0 then s else mod fun x => { x with page := x.page.set o v }
  else if o = 0x10000 then mod fun x => { x with segbase := keepBits 55 33 v }
  else if o = 0x10008 then mod fun x => { x with segasid := v &&& 0x80001FFF }
  else if o = 0x10010 then mod fun x => { x with hosterr := x.hosterr &&& ~~~(v &&& 0xFFFFFFFF) }
  else if o = 0x10038 then s.popCheck u
  else if o = 0x10048 then mod fun x => { x with evlost := x.evlost &&& ~~~v }
  else if o = 0x10050 then mod fun x => { x with trbase := keepBits 63 12 v }
  else if o = 0x10058 then mod fun x => { x with trctl := v &&& 0x8000FFFF00001FFF }
  else if o = 0x10068 then mod fun x => { x with trtail := v }
  else if o = 0x10070 then mod fun x => { x with dbgctl := v &&& 1 }
  else if o = 0x10078 then M.orKeep (if v.getLsbD 21 then haltResume u v else Sys2Proof.Machine.haltRequest u v) s
  else if o = 0x10080 then mod fun x => { x with irqstat := x.irqstat &&& ~~~v }
  else if o = 0x10088 then mod fun x => { x with irqmask := v &&& 0x7F }
  else if o = 0x100B0 then s.popFault u
  else if o = 0x100B8 then s.faultDone u (v.toNat % 2 ^ 32) (v.getLsbD 32)
  else if 0x20000 ≤ o ∧ o < 0x28000 ∧ (s.roomsOf u).contains ((o - 0x20000) / 0x1000) then
    s.headWrite ((o - 0x20000) / 0x1000) (o % 0x1000) v
  else s

/-- `suitemap` as it reads: byte `r` the suite of room `r` and the host bit of its fence. -/
def State.suitemapWord (s : State) : DWord :=
  BitVec.ofNat 64 ((List.range 8).map fun r => (s.suiteOfRoom r % 8 + 128 * b2n (s.fenceHost.contains r)) * 256 ^ r).sum

/-- A register of the device page (R478). -/
def State.deviceRead (s : State) (o : Nat) : DWord :=
  if o = 0 then if s.part.masks.isEmpty then 0x2E19 else 0x12E19
  else if o = 8 then s.serial
  else if o = 0x10 then s.bootstat
  else if o = 0x18 then s.hostlo
  else if o = 0x20 then s.hosthi
  else if o = 0x40 then s.suitemapWord
  else if 0x100 ≤ o ∧ o < 0x140 then
    let r := (o - 0x100) / 8
    BitVec.ofNat 64 (((List.range 6).map fun i => (s.part.mask (r * 6 + i)).toNat * 256 ^ i).sum + s.part.chans r * 2 ^ 48)
  else if 0x200 ≤ o ∧ o ≤ 0x238 then Tab.get 0 s.rmbreq ((o - 0x200) / 8)
  else if 0x280 ≤ o ∧ o ≤ 0x2B8 then Tab.get 0 s.rmbrep ((o - 0x280) / 8)
  else if o = 0x2C0 then s.rmbstat
  else 0

/-- Some suite is enabled. -/
def State.anyEnabled (s : State) : Bool := s.suites.any fun e => e.2.ctl.getLsbD 0

def State.deviceWrite (s : State) (o : Nat) (v : DWord) : State :=
  if o = 0x18 then if s.anyEnabled then s else { s with hostlo := keepBits 63 12 v }
  else if o = 0x20 then if s.anyEnabled then s else { s with hosthi := v ||| 0xFFF }
  else if 0x200 ≤ o ∧ o ≤ 0x238 then { s with rmbreq := Tab.set 0 s.rmbreq ((o - 0x200) / 8) v }
  else if o = 0x240 then if s.rmbstat.getLsbD 0 then s else { s with rmbstat := 1, rmbDone := none, rmbSent := s.rmbreq }
  else s

/-- Where an address of window 0 leads: the device page, or a suite's page. -/
def State.page0 (s : State) (a : Nat) : Option (Option Nat × Nat) :=
  if a < 0x800000 then some (none, a)
  else
    let u := (a - 0x800000) / 0x100000
    if s.suiteExists u then some (some u, (a - 0x800000) % 0x100000) else none

/-- The register at an address of window 0; what no table lists reads 0. -/
def State.regRead (s : State) (a : Nat) : DWord :=
  match s.page0 a with
  | some (none, o) => s.deviceRead o
  | some (some u, o) => s.suiteRead u o
  | none => 0

def State.regWrite (s : State) (a : Nat) (v : DWord) : State :=
  match s.page0 a with
  | some (none, o) => s.deviceWrite o v
  | some (some u, o) => s.suiteWrite u o v
  | none => s

/-- `REGISTER_WRITE`: registers are 64 bits wide. -/
def registerWrite (a : Nat) (v : DWord) : M Unit := do
  need (decide (a < 0x1000000) && decide (a % 8 = 0)) .notEnabled
  update (·.regWrite a v)

/-! ## Windows (R435) -/

/-- Where a host access through window 1 or 2 leads: pieces of memory in order and the ASID a write records; or it is
refused, by the suite that counts it, or by a fence. -/
inductive HostPath where
  | at (ps : List (Place × Nat)) (asid : Nat)
  | refused (u : Option Nat)
  | fenced

/-- Every piece of a range of segment `u` translates, as a team access of its bound ASID does, to a page that the host may
reach. -/
def State.segmentPath (s : State) (u o n : Nat) (wr : Bool) : HostPath × State :=
  let x := s.suite u
  let asid := x.segasid.toNat % 8192
  if !s.suiteExists u then (.refused none, s)
  else if !x.segasid.getLsbD 31 || s.suiteOfAsid asid != u then (.refused (some u), s)
  else
    let va := x.segbase.toNat + o
    let r := (pagePieces (n / 4096 + 2) va n).foldl (fun (acc : Option (List (Place × Nat)) × State) p =>
      match acc with
      | (none, s) => (none, s)
      | (some ps, s) => match s.translate (ostCore u) asid p.1 (if wr then .store else .load) with
        | (.ok pg, s) => if pg.p then (none, s) else (some (ps ++ [(pg.place p.1, p.2)]), s)
        | (_, s) => (none, s)) (some [], s)
    match r with
    | (some ps, s) => (.at ps asid, s)
    | (none, s) => (.refused (some u), s)

/-- Window 2 reaches a room's partition while its fence grants host access (R440). -/
def State.physicalPath (s : State) (a n : Nat) : HostPath :=
  if (List.range n).all (fun i => s.installed (a + i) && s.fenceHost.contains (roomOfPa (a + i))) then
    .at [(.dev a, n)] (1024 * s.suiteOfRoom (roomOfPa a))
  else .fenced

def State.hostPath (s : State) (w : Fin 3) (a n : Nat) (wr : Bool) : HostPath × State :=
  if w.val = 1 then s.segmentPath (a / 2 ^ 33) (a % 2 ^ 33) n wr else (s.physicalPath a n, s)

/-- A refused access is counted (`hosterr` saturates). -/
def State.countHostErr (s : State) (u : Option Nat) : State :=
  match u with
  | none => s
  | some u => s.modSuite u fun x => { x with hosterr := BitVec.ofNat 64 (min (2 ^ 32 - 1) (x.hosterr.toNat + 1)) }

def windowBytes (w : Fin 3) : Nat := if w.val = 0 then 2 ^ 24 else if w.val = 1 then 2 ^ 36 else 2 ^ 38

/-- `HOST_WINDOW_READ`: `n` bytes at `a`; the completion stands in `hostReply`. -/
def hostRead (w : Fin 3) (a n : Nat) : M Unit := do
  let s ← get
  need (decide (1 ≤ n) && decide (a + n ≤ windowBytes w)) .notEnabled
  if w.val = 0 then do
    need (decide (a % 8 + n ≤ 8)) .notEnabled
    let r := a / 8 * 8
    let bytes := ((leBytes 8 (s.regRead r).toNat).drop (a % 8)).take n
    let s := match s.page0 r with
      | some (some u, o) => if o = 0x10040 then s.popEvent u else s
      | _ => s
    set { s with hostReply := .data bytes false }
  else match s.hostPath w a n false with
    | (.at ps asid, s) =>
      let (bytes, s) := ps.foldl (fun (acc : List Byte × State) (p, k) => match p with
        | .dev pa => let (r, s) := acc.2.agentRead hostRank asid pa k; (acc.1 ++ r, s)
        | .host ba => (acc.1 ++ readBytes acc.2.hostMem ba k, acc.2)
        | _ => acc) ([], s)
      let bad := ps.any fun (p, k) => match p with | .dev pa => s.poisoned pa k | _ => false
      set { s with hostReply := .data bytes bad }
    | (.refused u, s) => set { (s.countHostErr u) with hostReply := .unsupported }
    | (.fenced, s) => set { s with hostReply := .data (fill n 0xFF) false }

/-- `HOST_WINDOW_WRITE`: a write into device memory is an element at its home slice (08 R211). -/
def hostWrite (w : Fin 3) (a : Nat) (v : List Byte) : M Unit := do
  let s ← get
  need (decide (1 ≤ v.length) && decide (a + v.length ≤ windowBytes w)) .notEnabled
  if w.val = 0 then do
    need (decide (v.length = 8) && decide (a % 8 = 0)) .notEnabled
    set (s.regWrite a (BitVec.ofNat 64 (ofLe v)))
  else match s.hostPath w a v.length true with
    | (.at ps asid, s) =>
      let (s, _) := ps.foldl (fun (acc : State × List Byte) (p, k) =>
        let (s, rest) := acc
        match p with
        | .dev pa => (s.agentWrite hostRank pa (rest.take k) asid, rest.drop k)
        | .host ba => ({ s with hostMem := writeBytes s.hostMem ba (rest.take k) }, rest.drop k)
        | _ => (s, rest.drop k)) (s, v)
      set s
    | (.refused u, s) => set (s.countHostErr u)
    | (.fenced, s) => set s

/-! ## The root mailbox (R440, R447, R478) -/

/-- A byte of the request that was sent. -/
def State.rmbByte (s : State) (i : Nat) : Nat := (Tab.get 0 s.rmbSent (i / 8)).toNat / 256 ^ (i % 8) % 256

/-- The root firmware works on a request, and has not done what it asks. -/
def State.rmbWaits (s : State) (cmd : Nat) : Bool := s.rmbstat.getLsbD 0 && s.rmbDone.isNone && s.rmbByte 0 == cmd

/-- A map of rooms to suites keeps R12: each number names its suite's lowest room, and the rooms with it are 1, 2, 4 or 8
in line from it. -/
def mapOk (m : List Nat) : Bool :=
  (List.range 8).all fun r =>
    let u := m.getD r 0
    let rooms := (List.range 8).filter fun q => m.getD q 0 == u
    let n := rooms.length
    (n == 1 || n == 2 || n == 4 || n == 8) && decide (u % n = 0) && rooms == (List.range n).map (· + u)

/-- The suite as a map of its own after its rooms changed hands: its machine-check queue is empty. -/
def Suite.emptied (x : Suite) : Suite := { x with mcq := [] }

/-- Rooms are zeroed, and their L2 slices and translations emptied (R440). -/
def State.zeroRooms (s : State) (rooms : List Nat) : State :=
  let here (pa : Nat) : Bool := rooms.contains (roomOfPa pa)
  let lines (l : Tab HomeLine) : Tab HomeLine := l.filter fun e => !here (e.1 * 128)
  { s with
    mem := s.mem.filter fun c => !here c.1
    poison := s.poison.filter fun k => !here (k * 32)
    home := lines s.home
    cores := s.cores.map fun (c, k) => (c, { k with l1 := k.l1.filter (fun e => !here (e.1 * 128)), tlb := [] })
    postTlb := [] }

/-- A status that belongs to the root firmware, not 0 (log 6). -/
def State.freeStatus (s : State) : Nat × State := ((Config.freeWord s.free).toNat % 255 + 1, { s with free := s.free + 1 })

/-- `SUITE_MAP_REQUEST`: command 1 of the root mailbox. -/
def suiteMapRequest : M Unit := do
  let s ← get
  need (s.rmbWaits 1) .notEnabled
  let want := (List.range 8).map fun r => s.rmbByte (8 + r)
  let m := want.map (· % 8)
  let changed := (List.range 8).filter fun r =>
    m.getD r 0 != s.suiteOfRoom r || (decide (want.getD r 0 ≥ 128) != s.fenceHost.contains r)
  let us := changed.foldl (fun a r => addNew (m.getD r 0) (addNew (s.suiteOfRoom r) a)) []
  if !mapOk m || us.any (fun u => (s.suite u).ctl.getLsbD 0 || !s.suiteDrained u) then
    let (st, s) := s.freeStatus
    set { s with rmbDone := some st }
  else
    let s := s.zeroRooms changed
    let s := us.foldl (fun s u => s.modSuite u Suite.emptied) s
    set { s with
      suitemap := m, fenceHost := (List.range 8).filter fun r => decide (want.getD r 0 ≥ 128), rmbDone := some 0 }

/-- What a report carries now (R447). -/
def State.report (s : State) : Config.Report :=
  { nonce := (List.range 32).map fun i => BitVec.ofNat 8 (s.rmbByte (8 + i)), serial := s.serial
    code := if s.part.masks.isEmpty then 0 else 1, stage := Config.stageDigest, image := Config.imageDigest
    fences := Config.fenceDigest s.suitemap s.fenceHost, map := s.suitemap, tick := s.tick }

/-- `ATTESTATION_REQUEST`: command 2; how the report is encoded and signed belongs to the root firmware (log 6). -/
def attestationRequest : M Unit := do
  let s ← get
  need (s.rmbWaits 2) .notEnabled
  let ba := (Tab.get 0 s.rmbSent 5).toNat
  let bytes := Config.reportBytes s.report
  if s.hostOk ba bytes.length then
    set { s with hostMem := writeBytes s.hostMem ba bytes, rmbDone := some 0 }
  else
    let (st, s) := s.freeStatus
    set { s with rmbDone := some st }

/-- `ROOT_MAILBOX_REPLY`: the reply is ready, its contents but the status the root firmware's own. A command the contract
does not list gets a status of the firmware's. -/
def rootReply : M Unit := do
  let s ← get
  need (s.rmbstat.getLsbD 0 && (s.rmbDone.isSome || !(s.rmbByte 0 == 1 || s.rmbByte 0 == 2))) .notEnabled
  let (st, s) := match s.rmbDone with
    | some st => (st, s)
    | none => ((Config.freeWord s.free).toNat % 256, { s with free := s.free + 1 })
  let rep := (List.range 8).foldl (fun t i => Tab.set 0 t i
    (BitVec.ofNat 64 (ofLe ((List.range 8).map fun j => Config.freeByte (s.free + 8 * i + j))))) []
  set ({ s with rmbrep := rep, free := s.free + 64, rmbstat := BitVec.ofNat 64 (2 + 256 * st), rmbDone := none }.raiseVector 64)

end Sys2Proof.Machine
end

