-- ==== Sys2Proof/Machine/Links.lean ====
section
/-! DEFINITION. The link to other devices (17 R444, R445; 10 R254), resets (R448), power and heat (R450), the stop of the
clocks (16 R424). -/
namespace Sys2Proof.Machine
open Sys2Proof

/-! ## Ports (R444) -/

def State.port (s : State) (p : Nat) : Port := Tab.get {} s.ports p
def State.setPort (s : State) (p : Nat) (x : Port) : State := { s with ports := Tab.set {} s.ports p x }
def portCount : Nat := 4
def maxResends : Nat := 16

/-- The link's state changed: the port is down, and what it had sent and not been acknowledged leaves by the ports that its peers' routes
take now. -/
def State.portDown (s : State) (p : Nat) : State :=
  let x := s.port p
  let s := s.setPort p { x with up := false, replay := [] }
  (x.replay.foldl (fun s (_, dst, f) => match s.portTo dst with
    | some q => s.sendFlit q dst f
    | none => s) s).raiseVector 65

/-- The CRC-32 of IEEE 802.3 of a list of bytes: the polynomial taken bit by bit, lowest first, from all ones to their complement. -/
def crc32 (bs : List Byte) : Nat :=
  bs.foldl (fun c b => (List.range 8).foldl (fun c _ => if c % 2 = 1 then c / 2 ^^^ 0xEDB88320 else c / 2) (c ^^^ b.toNat)) 0xFFFFFFFF ^^^
    0xFFFFFFFF

/-- A flit of 256 bytes whose CRC holds. -/
def flitGood (f : List Byte) : Bool := decide (f.length = 256) && crc32 (f.take 252) == field f 252 4

/-- The replay buffer after an acknowledgement: every flit up to the one acknowledged is gone. -/
def Port.acks (x : Port) (n : Nat) : List (Nat × Nat × FlitBody) :=
  if x.replay.any (·.1 == n) then (x.replay.dropWhile (·.1 != n)).drop 1 else x.replay

/-- `FLIT_RECEIVE`: a good flit acknowledges, and is taken where its number is the next; one that fails its CRC is sent again from the
sender's replay buffer, and the port goes down when that has failed 16 times in a row. The first failure is the flit's own; each later one
is a resend's. -/
def flitReceive (p : Nat) (f : List Byte) : M Unit := do
  let s ← get
  let x := s.port p
  need (decide (p < portCount) && x.up) .notEnabled
  if flitGood f then
    let n := Config.flitSeq (field f 0 8) % 4096
    set (s.setPort p { x with
      failed := 0, replay := x.acks (field f 248 4), want := if n = x.want then (n + 1) % 4096 else x.want })
  else
    let s := s.setPort p { x with failed := x.failed + 1 }
    set (if x.failed ≥ maxResends then s.portDown p else s)

/-- `PORT_DOWN`: 100 microseconds without lock. -/
def portDown (p : Nat) : M Unit := do
  let s ← get
  need (decide (p < portCount) && (s.port p).up) .notEnabled
  set (s.portDown p)

/-- `LINK_RESTORED`. -/
def linkRestored (p : Nat) : M Unit := do
  let s ← get
  need (decide (p < portCount) && !(s.port p).up) .notEnabled
  set ((s.setPort p { s.port p with up := true, failed := 0 }).raiseVector 65)

/-! ## Time (R445) -/

def syncTicks : Nat := 65536

/-- The tick moved to a later one. -/
def State.tickTo (s : State) (t : Nat) : State := { s with tick := max s.tick t }

/-- The device is the master of its part of the route: no lower-numbered one can be reached. -/
def State.isMaster (s : State) : Bool := s.peers.all fun d => decide (s.device ≤ d) || (s.portTo d).isNone

/-- `TIME_SYNC`: a correction toward the master's tick, at most once in 65,536 ticks. Behind the window the tick gains
one, or steps forward when it is more than 64 behind; ahead of it the count is held for one tick period, or until the master's tick
reaches it when it is more than 64 ahead. -/
def timeSync (master : DWord) : M Unit := do
  let s ← get
  need (match s.lastSync with | some t => decide (t + syncTicks ≤ s.tick) | none => true) .notEnabled
  let m := if s.isMaster then s.tick else master.toNat
  let s' := if s.tick + 64 < m then s.tickTo m
    else if s.tick + 1 < m then s.tickTo (s.tick + 1)
    else if m + 64 < s.tick then { s with holdFor := s.tick - m }
    else if m < s.tick then { s with holdFor := 1 }
    else s
  set { s' with lastSync := some s'.tick }

/-! ## Fabric requests (10 R254) -/

def State.answer (s : State) (r : FabricReply) : State := { s with fabricIn := s.fabricIn ++ [r] }

/-- `FABRIC_REQUEST_RECEIVE`: a peer's put or get is performed at its home slices, once; a page fault goes to the ostler,
and the request comes again. -/
def fabricReceive (q : FabricReq) : M Unit := do
  let s ← get
  if s.fabricIn.any fun r => r.src == q.src && r.id == q.id then pure ()
  else if !s.suiteExists q.suite then set (s.answer { src := q.src, id := q.id, code := 5 })
  else
    let miss (m : Miss) : State := match m.why with
      | .fault ro => s.noteFault { asid := m.asid, va := m.va / 4096 * 4096, kind := 3, readOnly := ro, who := .retry, addr := m.va }
      | .fatal => s.answer { src := q.src, id := q.id, code := 2, detail := TrapCode.pagefatal.num }
      | _ => s.answer { src := q.src, id := q.id, code := 2, detail := TrapCode.prot.num }
    if q.put then match s.engWrite (ostCore q.suite) (ostAsid q.suite) q.addr (q.data.take q.len) with
      | .ok s => set (s.answer { src := q.src, id := q.id })
      | .error m => set (miss m)
    else match s.engRead (ostCore q.suite) (ostAsid q.suite) q.addr q.len with
      | .ok (.ok bytes, s) => set (s.answer { src := q.src, id := q.id, data := bytes })
      | .ok (.poison, s) => set (s.answer { src := q.src, id := q.id, data := fill q.len 0, poison := true })
      | .error m => set (miss m)

/-! ## Resets (R448) -/

/-- Every block is gone and memory is zero; what lies outside the function, or belongs to the model, stays: the tick,
the host's memory, the link, which part it is (log 42). -/
def State.cleared (s : State) : State :=
  { State.reset with
    tick := s.tick, ptsTime := s.ptsTime, hostMem := s.hostMem, part := s.part, serial := s.serial, device := s.device, peers := s.peers
    ports := s.ports, routes := s.routes, lastSync := s.lastSync, vectors := s.vectors, corrected := s.corrected
    bootFault := s.bootFault, svcQueues := s.svcQueues, atomicRouting := s.atomicRouting, invSeqs := s.invSeqs, sent := s.sent, fabricOut := s.fabricOut, free := s.free, agenda := s.agenda }

/-- `FUNCTION_LEVEL_RESET`: the boot stands at its fifth step again. -/
def functionReset : M Unit := update fun s => { s.cleared with bootstat := 5 }

/-- `HOT_RESET`: every boot step runs again, the link's first. -/
def hotReset : M Unit := update fun s => { s.cleared with ports := [] }

/-- `COLD_RESET`: the same, with memory training. -/
def coldReset : M Unit := update fun s => { s.cleared with ports := [], corrected := [] }

/-- The boot step at hand has succeeded; memory is trained in sector mode (07 R197), and the fifth step leaves one suite to a room. -/
def State.bootOn (s : State) (st : Nat) : State :=
  { s with bootstat := BitVec.ofNat 64 (st + 1), sectorMode := decide (st + 1 = 3)
           suitemap := if st = 5 then List.range Config.rooms else s.suitemap }

/-- The next step of the boot, while it goes on (R446, R448): status 0 before the link is up; a step that fails stands with bit 7 set, and
with the channel where it is the third. -/
def State.bootStep (s : State) : Option State :=
  let st := s.bootstat.toNat
  if st ≥ 6 then none
  else match s.bootFault with
  | none => some (s.bootOn st)
  | some (n, ch) =>
    if n ≠ st then some (s.bootOn st)
    else if st = 0 then none
    else some { s with bootstat := BitVec.ofNat 64 (128 + st + (if st = 3 then ch % 32 * 256 else 0)) }

/-! ## Power, heat, clocks -/

/-- `THERMAL_OR_POWER_LIMIT`: the service firmware withholds issue cycles while the limit is met. -/
def powerLimit (ov : Bool) : M Unit :=
  update fun s => let s := { s with throttled := ov }; if ov then s.raiseVector 66 else s

/-- `THERMAL_SHUTDOWN`. -/
def thermalShutdown : M Unit := do
  let s ← get
  need (!s.thermal) .notEnabled
  set ({ s with thermal := true }.raiseVector 67)

/-- The clocks stop at the tick at hand. -/
def State.stopClocks (s : State) : State := { s with clockOff := true, armed := none }

/-- `CLOCK_STOP`: the armed tick has come. -/
def clockStop : M Unit := do
  let s ← get
  need (match s.armed with | some t => decide (t ≤ s.tick) | none => false) .notEnabled
  set s.stopClocks

/-- `CLOCK_RELEASE`: counting resumes, and the link's time steps the tick forward to the route's. -/
def clockRelease (t : DWord) : M Unit := do
  let s ← get
  need s.clockOff .notEnabled
  set ({ s with clockOff := false }.tickTo t.toNat)

/-- Time passes, but for the tick periods for which the count is held (R445); the clocks stop at the first armed tick. -/
def State.elapse (s : State) (n : Nat) : State :=
  let h := min n s.holdFor
  let s := { s with holdFor := s.holdFor - h }
  let n := n - h
  match s.armed with
  | some t => if t ≤ s.tick + n then (s.pass (t - s.tick)).stopClocks else s.pass n
  | none => s.pass n

end Sys2Proof.Machine
end

