-- ==== Sys2Proof/Machine/DeviceOps.lean ====
section
/-! DEFINITION. The steps of the device toward its host, its displays, its links, its clocks and its resets (17). -/
namespace Sys2Proof.Machine
open Sys2Proof

/-- ECC_UNCORRECTABLE (R217): An uncorrectable memory error poisons sectors and queues a machine-check record to the charged suite. -/
def execEccUncorrectable (kind : Nat) (pa : Nat) (sectors : BitVec 4) (asid : Nat) (σ : State) : Result :=
  deviceStep (eccUncorrectable kind pa sectors asid) σ

/-- ECC_CORRECTABLE (R217): A correctable memory error is corrected in place and counted, and no record is made. -/
def execEccCorrectable (r : Nat) (σ : State) : Result :=
  deviceStep (eccCorrectable r) σ

/-- FABRIC_REQUEST_RECEIVE (R254): A peer device receives a remote put or get of a COPYR and performs its units. -/
def execFabricRequestReceive (q : FabricReq) (σ : State) : Result :=
  deviceStep (fabricReceive q) σ

/-- FLIT_RECEIVE (R444): A link port receives a flit, checks CRC after forward error correction, and requests a resend on failure. -/
def execFlitReceive (p : Nat) (f : List Byte) (σ : State) : Result :=
  deviceStep (flitReceive p f) σ

/-- PORT_DOWN (R444): A port goes down after 16 failed resends or 100 microseconds without lock, moving traffic to the alternate port. -/
def execPortDown (p : Nat) (σ : State) : Result :=
  deviceStep (portDown p) σ

/-- LINK_RESTORED (R445): A restored link rejoins the route and device 0 becomes the time master again. -/
def execLinkRestored (p : Nat) (σ : State) : Result :=
  deviceStep (linkRestored p) σ

/-- TIME_SYNC (R445): Every 65,536 ticks links exchange tick stamps and each device corrects its tick toward the master. -/
def execTimeSync (master : DWord) (σ : State) : Result :=
  deviceStep (timeSync master) σ

/-- SCAN_OUT (R442): A display head scans out a frame at its published tick and publishes the next. -/
def execScanOut (r : Nat) (σ : State) : Result :=
  deviceStep (scanOut r) σ

/-- PLANE_READ (R442): The head reads its plane records 16,384 ticks before the next scan-out. -/
def execPlaneRead (r : Nat) (σ : State) : Result :=
  deviceStep (planeRead r) σ

/-- DISPLAY_ENABLE (R442): Setting dctl enable starts the head, with the first scan-out one period later. -/
def execDisplayEnable (r : Nat) (v : DWord) (σ : State) : Result :=
  deviceStep (displayEnable r v) σ

/-- HOST_WINDOW_READ (R435): A host read through window 0, 1 or 2 is translated and served, or refused with hosterr counted. -/
def execHostWindowRead (w : Fin 3) (a : Nat) (n : Nat) (σ : State) : Result :=
  deviceStep (hostRead w a n) σ

/-- HOST_WINDOW_WRITE (R435): A host write through a window becomes an element at its home slice, or is dropped. -/
def execHostWindowWrite (w : Fin 3) (a : Nat) (v : List Byte) (σ : State) : Result :=
  deviceStep (hostWrite w a v) σ

/-- REGISTER_WRITE (R6): A write to a register without behaviour of its own stores the value per its access code. -/
def execRegisterWrite (a : Nat) (v : DWord) (σ : State) : Result :=
  deviceStep (registerWrite a v) σ

/-- EVQ_POP (R436): A read of evq pops the oldest event mailbox value. -/
def execEvqPop (u : Nat) (σ : State) : Result :=
  deviceStep (evqPop u) σ

/-- SUITE_MAP_REQUEST (R440): A root mailbox command 1 asks the root firmware to zero, empty and refence rooms into a new suite map. -/
def execSuiteMapRequest (σ : State) : Result :=
  deviceStep (suiteMapRequest) σ

/-- ATTESTATION_REQUEST (R447): A root mailbox command 2 asks for a signed attestation report written to host memory. -/
def execAttestationRequest (σ : State) : Result :=
  deviceStep (attestationRequest) σ

/-- ROOT_MAILBOX_REPLY (R478): The root firmware finishes a mailbox request, posts its reply status and raises vector 64. -/
def execRootMailboxReply (σ : State) : Result :=
  deviceStep (rootReply) σ

/-- FUNCTION_LEVEL_RESET (R448): A function-level reset kills every block and re-runs boot step 5 with memory zeroed. -/
def execFunctionLevelReset (σ : State) : Result :=
  deviceStep (functionReset) σ

/-- HOT_RESET (R448): A hot reset re-runs every boot step. -/
def execHotReset (σ : State) : Result :=
  deviceStep (hotReset) σ

/-- COLD_RESET (R448): A cold reset runs the boot from link up to ready, with memory training and firmware verification. -/
def execColdReset (σ : State) : Result :=
  deviceStep (coldReset) σ

/-- THERMAL_SHUTDOWN (R450): At 115 degrees C the root firmware stops the device and raises vector 67. -/
def execThermalShutdown (σ : State) : Result :=
  deviceStep (thermalShutdown) σ

/-- CLOCK_STOP (R424): At the armed tick every clock domain is gated and the tick counter stops for scan-out. -/
def execClockStop (σ : State) : Result :=
  deviceStep (clockStop) σ

/-- CLOCK_RELEASE (R424): Clocks released through IEEE 1149.1 resume counting from the stop tick. -/
def execClockRelease (t : DWord) (σ : State) : Result :=
  deviceStep (clockRelease t) σ

/-- THERMAL_OR_POWER_LIMIT (R450): Module power reaching the host-set cap, or junction temperature reaching 105 degrees C, makes the service firmware withhold issue cycles and raises vector 66. -/
def execThermalOrPowerLimit (ov : Bool) (σ : State) : Result :=
  deviceStep (powerLimit ov) σ

end Sys2Proof.Machine
end

