-- ==== Sys2Proof/Machine/GfxOps.lean ====
section
/-! DEFINITION. The instructions of the graphics class (14 R358, 15 R400). -/
namespace Sys2Proof.Machine
open Sys2Proof

/-- VBLD (R370). -/
def execVbld (d : Opnd) (a : Opnd) (b : Opnd) (σ : State) : Result :=
  issue ⟨shVbld d a b, .a, false, false⟩ (fun k => vbld k d a b) σ

/-- VBDEC (R371). -/
def execVbdec (d : Opnd) (a : Opnd) (σ : State) : Result :=
  issue ⟨shVbdec d a, .a, false, false⟩ (fun k => vbdec k d a) σ

/-- TILEACQ (R369). -/
def execTileacq (d : Opnd) (a : Opnd) (b : Src) (σ : State) : Result :=
  issue ⟨shSmap d a b, .a, false, false⟩ (fun k => tileacq k d a b) σ

/-- TILEREL (R368). -/
def execTilerel (a : Src) (σ : State) : Result :=
  issue ⟨shS1 a, .b, false, false⟩ (fun k => tilerel k a) σ

/-- BINPOP (R377). -/
def execBinpop (d : Opnd) (a : Src) (σ : State) : Result :=
  issue ⟨shBinpop d a, .a, false, false⟩ (fun k => binpop k d a) σ

/-- ATTR (R381). -/
def execAttr (d : Opnd) (a : Opnd) (b : Src) (σ : State) : Result :=
  issue ⟨shAttr d a b, .a, false, false⟩ (fun k => attrIns k d a b false) σ

/-- ATTRD (R381). -/
def execAttrd (d : Opnd) (a : Opnd) (b : Src) (σ : State) : Result :=
  issue ⟨shAttr d a b, .a, false, false⟩ (fun k => attrIns k d a b true) σ

/-- BARY (R379). -/
def execBary (d : Opnd) (a : Opnd) (σ : State) : Result :=
  issue ⟨shBary d a, .a, false, false⟩ (fun k => baryIns k d a) σ

/-- QUADSYN (R378). -/
def execQuadsyn (d : Opnd) (a : Opnd) (σ : State) : Result :=
  issue ⟨shQuadsyn d a, .a, false, false⟩ (fun k => quadsyn k d a) σ

/-- MDECL (R359). -/
def execMdecl (d : Opnd) (a : Opnd) (b : Src) (σ : State) : Result :=
  issue ⟨shSmap d a b, .a, false, false⟩ (fun k => mdecl k d a b) σ

/-- MOUTV (R360). -/
def execMoutv (d : Opnd) (a : Opnd) (σ : State) : Result :=
  issue ⟨shMout d a, .b, false, false⟩ (fun k => mout k false d a) σ

/-- MOUTP (R360). -/
def execMoutp (d : Opnd) (a : Opnd) (σ : State) : Result :=
  issue ⟨shMout d a, .b, false, false⟩ (fun k => mout k true d a) σ

/-- TEX (R383). -/
def execTex (d : Opnd) (a : Opnd) (b : Opnd) (σ : State) : Result :=
  issue ⟨shTex 6 d a b, .a, false, false⟩ (fun k => texIns k d a b 6 .tex) σ

/-- TEXLOD (R383). -/
def execTexlod (d : Opnd) (a : Opnd) (b : Opnd) (σ : State) : Result :=
  issue ⟨shTex 4 d a b, .a, false, false⟩ (fun k => texIns k d a b 3 .texlod) σ

/-- TEXFETCH (R383). -/
def execTexfetch (d : Opnd) (a : Opnd) (b : Opnd) (σ : State) : Result :=
  issue ⟨shTexfetch d a b, .a, false, false⟩ (fun k => texIns k d a b 2 .texfetch) σ

/-- IMGST (R384). -/
def execImgst (d : Opnd) (a : Opnd) (b : Opnd) (σ : State) : Result :=
  issue ⟨shImgst d a b, .b, false, false⟩ (fun k => imgstIns k d a b) σ

/-- TRACE (R401). -/
def execTrace (d : Opnd) (a : Opnd) (b : Src) (σ : State) : Result :=
  issue ⟨shTrace d a b, .a, false, false⟩ (fun k => traceIns k d a b) σ

/-- TRCONT (R402). -/
def execTrcont (d : Opnd) (a : Opnd) (b : Src) (σ : State) : Result :=
  issue ⟨shTrcont d a b, .a, false, false⟩ (fun k => trcontIns k d a b) σ

/-- TRSTAT (R403). -/
def execTrstat (d : Opnd) (b : Src) (σ : State) : Result :=
  issue ⟨shTrstat d b, .a, false, false⟩ (fun k => trstatIns k d b) σ

/-- TRXFORM (R404). -/
def execTrxform (d : Opnd) (a : Opnd) (b : Opnd) (σ : State) : Result :=
  issue ⟨shTrxform d a b, .a, false, false⟩ (fun k => trxformIns k d a b) σ

/-- BINHIT (R405). -/
def execBinhit (d : Opnd) (a : Opnd) (b : Src) (σ : State) : Result :=
  issue ⟨shBinhit d a b, .b, false, false⟩ (fun k => binhit k d a b) σ

end Sys2Proof.Machine
end

