-- ==== Sys2Proof/Machine/Tx.lean ====
section
/-! DEFINITION. Transactions (09 R232-R240): their begin, validation and commit at the homes, aborts, seniority. -/
namespace Sys2Proof.Machine
open Sys2Proof

/-- `TXBEGIN` (R233): the abort point is the clause after this one; the fourth attempt on is senior (R240). -/
def txBegin (k : Issue) (d : Opnd) : M Unit := do
  k.write d fun _ => 0
  let reg := match d with | .v r => r.val | _ => 0
  k.mod fun m => k.lanes.foldl (fun m l =>
    let st := m.stat l
    let x : Tx := { reg := reg, abortPc := k.nextClause, abortPrio := k.cl.prio, begun := k.tick,
                    senior := decide (st.tries ≥ 3) }
    { m with txs := Tab.set none m.txs l (some x)
             txstat := Tab.set {} m.txstat l { st with first := some (st.first.getD k.tick) } }) m

/-- Some element of `xs` is in `ys`. -/
def meets (xs ys : List Nat) : Bool := xs.any ys.contains

/-- The lanes whose sets meet those of a lane kept before them (R237). -/
def teamConflicts (txs : List (Nat × Tx)) : List Nat :=
  (txs.foldl (fun (a : List (Nat × Tx) × List Nat) x =>
    if a.1.any fun y => meets x.2.wlines (y.2.rlines ++ y.2.wlines) || meets x.2.rlines y.2.wlines
    then (a.1, a.2 ++ [x.1]) else (a.1 ++ [x], a.2)) ([], [])).2

/-- The age of a lane's transaction: its first begin, then core, team slot, lane (R240). -/
def State.txAge (s : State) (b t l : Nat) : List Nat :=
  [((s.team b t).stat l).first.getD 0, (s.block b).core, (s.team b t).slot, l]

/-- Lexicographic order. -/
def lexLt : List Nat → List Nat → Bool
  | x :: r, y :: q => decide (x < y) || (decide (x = y) && lexLt r q)
  | _, _ => false

/-- The ages of the senior transactions of other lanes that reserve a line (R240). -/
def State.reservers (s : State) (b t l line : Nat) : List (List Nat) :=
  s.blocks.flatMap fun (b', x) => (List.range x.teams.length).flatMap fun t' =>
    let m := x.team t'
    (lanesOf m.openTx).filterMap fun l' =>
      match m.tx l' with
      | some q => if q.senior && !(b' == b && t' == t && l' == l) && (q.rlines ++ q.wlines).contains line
          then some (s.txAge b' t' l') else none
      | none => none

/-- How the locks of a lane's lines turn out. -/
inductive Locks where
  | free
  | refused
  | wait
  deriving DecidableEq, Repr

def State.locks (s : State) (b t l : Nat) (x : Tx) : Locks :=
  let lines := sortBy (fun a b => decide (a < b)) ((x.rlines ++ x.wlines).eraseDups)
  let age := s.txAge b t l
  lines.foldl (fun r line =>
    if r != .free then r
    else
      let rs := s.reservers b t l line
      if rs.any fun a => !x.senior || lexLt a age then .refused
      else if !rs.isEmpty || s.provisionalOn (s.block b).core line then .wait
      else .free) .free

/-- Every byte read still has the value read (R237). -/
def State.readsHold (s : State) (x : Tx) : Bool := x.reads.all fun (a, v) => s.devRead a 1 == [v]

/-- The write set takes one logical time beyond the leases of its lines and not before the values that its reads hold, and the
reads stand there too (R237). -/
def State.commit (s : State) (b : Nat) (x : Tx) : State :=
  let c := (s.block b).core
  let w := x.wlines.foldl (fun a l => max a ((s.homeLine l).rts + 1)) (x.rlines.foldl (fun a l => max a (s.homeLine l).wts) (s.pts c))
  let s := x.wlines.foldl (fun s l => s.setHomeLine l { s.homeLine l with wts := w, rts := w }) s
  let s := x.rlines.foldl (fun s l => s.setHomeLine l { s.homeLine l with rts := max w (s.homeLine l).rts }) s
  let s := x.writes.foldl (fun s (a, v) => s.devWrite a [v] (s.block b).asid) s
  s.raisePts c w

/-- Every access of the team that issued before has performed. -/
def Team.quiet (m : Team) : Bool := m.ops.all fun o => !(o.isAccess || o.isLaneAccess) || o.performed

/-- The homes of a transaction's lines. -/
def Tx.homes (x : Tx) : List Nat := ((x.rlines ++ x.wlines).map fun q => homeOfPa (q * 128)).eraseDups

/-- The homes may serve the transaction's lines now (08 R202). -/
def State.txServed (s : State) (c : Nat) (x : Tx) : Bool := (x.rlines ++ x.wlines).all fun l => s.mayServe l c

/-- One lane of a `TXEND` that is kept: it commits, aborts, or waits: for a line that a younger transaction reserves, for room
among the core's unacknowledged packets (R228), or, when a lane below it waits (`held`), for that one, since the lanes commit in
ascending order. -/
def txCommitLane (k : Issue) (held : Bool) (l : Nat) : M Bool := do
  let s ← get
  match (s.team k.b k.t).tx l with
  | none => pure true
  | some x => match s.locks k.b k.t l x with
    | .wait => pure false
    | .refused => do k.abort l 2 0; pure true
    | .free =>
      if !s.readsHold x then do k.abort l 2 0; pure true
      else
        let c := k.blk.core
        let s := x.homes.foldl (fun s h => s.release c h) s
        if held || !s.txServed c x || x.homes.any (fun h => decide ((Tab.get [] (s.core c).unacked h).length ≥ Config.unackedMax)) then pure false
        else do
          set (x.homes.foldl (fun s h => s.packetDone c h k.b k.t k.tm.nextOp [] []) (s.commit k.b x))
          k.mod fun m => { m with
            nextOp := k.tm.nextOp + 1
            txs := Tab.set none m.txs l none
            txstat := Tab.set {} m.txstat l {} }
          pure true

/-- The lanes in ascending order; behind one that waits, a lane may still abort, which may end that wait (R240). -/
def txCommitLanes (k : Issue) (held : Bool) : List Nat → M Unit
  | [] => if held then k.mod Team.retry else pure ()
  | l :: r => do
    let ok ← txCommitLane k held l
    txCommitLanes k (held || !ok) r

/-- `TXEND` (R237). -/
def txEnd (k : Issue) : M Unit := do
  let txs := k.lanes.filterMap fun l => (k.tm.tx l).map fun x => (l, x)
  if txs.isEmpty then pure ()
  else if !k.tm.quiet then stallM
  else do
    let lost := teamConflicts txs
    k.mod fun m => lost.foldl (fun m l => m.abortTx l 1 0) m
    txCommitLanes k false ((txs.map Prod.fst).filter fun l => !lost.contains l)

/-- `TXABORT` (R238). -/
def txAbort (k : Issue) (code : Word) : M Unit :=
  k.mod fun m => k.lanes.foldl (fun m l => m.abortTx l 6 (code.toNat % 256)) m

/-- `TXSTAT` (R239). -/
def txStat (k : Issue) (d : Opnd) : M Unit :=
  k.startValue d 1 fun l _ => (k.tm.stat l).word ||| (if (k.tm.tx l).isSome then 0x80000000 else 0)

/-- `TX_TIMEOUT` (R235). -/
def txTimeout (b t l : Nat) : M Unit := do
  let s ← get
  match (s.team b t).tx l with
  | none => stop (.fault .notEnabled)
  | some x => do
    need (decide (s.tick ≥ x.begun + Config.txTicks)) .notEnabled
    set (s.modTeam b t (·.abortTx l 3 0))

end Sys2Proof.Machine
end

