-- ==== Sys2Proof/Machine/Memory.lean ====
section
/-! DEFINITION. The memory instructions (07, 09) and the steps of the memory system (07 R188, R193; 08; 09 R228). -/
namespace Sys2Proof.Machine
open Sys2Proof

/-- LDG.n8 (R180). -/
def execLdgN8 (d : Opnd) (a : Opnd) (b : MOff) (σ : State) : Result :=
  issue ⟨shLoad 1 true d a b, .a, false, true⟩ (fun k => loadGlobal k 1 false false d a b) σ

/-- LDG.i8 (R180). -/
def execLdgI8 (d : Opnd) (a : Opnd) (b : MOff) (σ : State) : Result :=
  issue ⟨shLoad 1 true d a b, .a, false, true⟩ (fun k => loadGlobal k 1 true false d a b) σ

/-- LDG.n16 (R180). -/
def execLdgN16 (d : Opnd) (a : Opnd) (b : MOff) (σ : State) : Result :=
  issue ⟨shLoad 1 true d a b, .a, false, true⟩ (fun k => loadGlobal k 2 false false d a b) σ

/-- LDG.i16 (R180). -/
def execLdgI16 (d : Opnd) (a : Opnd) (b : MOff) (σ : State) : Result :=
  issue ⟨shLoad 1 true d a b, .a, false, true⟩ (fun k => loadGlobal k 2 true false d a b) σ

/-- LDG.b32 (R180). -/
def execLdgB32 (d : Opnd) (a : Opnd) (b : MOff) (σ : State) : Result :=
  issue ⟨shLoad 1 true d a b, .a, false, true⟩ (fun k => loadGlobal k 4 false false d a b) σ

/-- LDG.b64 (R180). -/
def execLdgB64 (d : Opnd) (a : Opnd) (b : MOff) (σ : State) : Result :=
  issue ⟨shLoad 2 true d a b, .a, false, true⟩ (fun k => loadGlobal k 8 false false d a b) σ

/-- LDG.b128 (R180). -/
def execLdgB128 (d : Opnd) (a : Opnd) (b : MOff) (σ : State) : Result :=
  issue ⟨shLoad 4 true d a b, .a, false, true⟩ (fun k => loadGlobal k 16 false false d a b) σ

/-- STG.b8 (R180). -/
def execStgB8 (d : Opnd) (a : Opnd) (b : MOff) (σ : State) : Result :=
  issue ⟨shStore 1 true d a b, .b, false, true⟩ (fun k => storeGlobal k 1 d a b) σ

/-- STG.b16 (R180). -/
def execStgB16 (d : Opnd) (a : Opnd) (b : MOff) (σ : State) : Result :=
  issue ⟨shStore 1 true d a b, .b, false, true⟩ (fun k => storeGlobal k 2 d a b) σ

/-- STG.b32 (R180). -/
def execStgB32 (d : Opnd) (a : Opnd) (b : MOff) (σ : State) : Result :=
  issue ⟨shStore 1 true d a b, .b, false, true⟩ (fun k => storeGlobal k 4 d a b) σ

/-- STG.b64 (R180). -/
def execStgB64 (d : Opnd) (a : Opnd) (b : MOff) (σ : State) : Result :=
  issue ⟨shStore 2 true d a b, .b, false, true⟩ (fun k => storeGlobal k 8 d a b) σ

/-- STG.b128 (R180). -/
def execStgB128 (d : Opnd) (a : Opnd) (b : MOff) (σ : State) : Result :=
  issue ⟨shStore 4 true d a b, .b, false, true⟩ (fun k => storeGlobal k 16 d a b) σ

/-- LDS.n8 (R180). -/
def execLdsN8 (d : Opnd) (a : Opnd) (b : MOff) (σ : State) : Result :=
  issue ⟨shLoad 1 false d a b, .a, false, false⟩ (fun k => loadStash k 1 false d a b) σ

/-- LDS.i8 (R180). -/
def execLdsI8 (d : Opnd) (a : Opnd) (b : MOff) (σ : State) : Result :=
  issue ⟨shLoad 1 false d a b, .a, false, false⟩ (fun k => loadStash k 1 true d a b) σ

/-- LDS.n16 (R180). -/
def execLdsN16 (d : Opnd) (a : Opnd) (b : MOff) (σ : State) : Result :=
  issue ⟨shLoad 1 false d a b, .a, false, false⟩ (fun k => loadStash k 2 false d a b) σ

/-- LDS.i16 (R180). -/
def execLdsI16 (d : Opnd) (a : Opnd) (b : MOff) (σ : State) : Result :=
  issue ⟨shLoad 1 false d a b, .a, false, false⟩ (fun k => loadStash k 2 true d a b) σ

/-- LDS.b32 (R180). -/
def execLdsB32 (d : Opnd) (a : Opnd) (b : MOff) (σ : State) : Result :=
  issue ⟨shLoad 1 false d a b, .a, false, false⟩ (fun k => loadStash k 4 false d a b) σ

/-- LDS.b64 (R180). -/
def execLdsB64 (d : Opnd) (a : Opnd) (b : MOff) (σ : State) : Result :=
  issue ⟨shLoad 2 false d a b, .a, false, false⟩ (fun k => loadStash k 8 false d a b) σ

/-- LDS.b128 (R180). -/
def execLdsB128 (d : Opnd) (a : Opnd) (b : MOff) (σ : State) : Result :=
  issue ⟨shLoad 4 false d a b, .a, false, false⟩ (fun k => loadStash k 16 false d a b) σ

/-- STS.b8 (R180). -/
def execStsB8 (d : Opnd) (a : Opnd) (b : MOff) (σ : State) : Result :=
  issue ⟨shStore 1 false d a b, .b, false, false⟩ (fun k => storeStash k 1 d a b) σ

/-- STS.b16 (R180). -/
def execStsB16 (d : Opnd) (a : Opnd) (b : MOff) (σ : State) : Result :=
  issue ⟨shStore 1 false d a b, .b, false, false⟩ (fun k => storeStash k 2 d a b) σ

/-- STS.b32 (R180). -/
def execStsB32 (d : Opnd) (a : Opnd) (b : MOff) (σ : State) : Result :=
  issue ⟨shStore 1 false d a b, .b, false, false⟩ (fun k => storeStash k 4 d a b) σ

/-- STS.b64 (R180). -/
def execStsB64 (d : Opnd) (a : Opnd) (b : MOff) (σ : State) : Result :=
  issue ⟨shStore 2 false d a b, .b, false, false⟩ (fun k => storeStash k 8 d a b) σ

/-- STS.b128 (R180). -/
def execStsB128 (d : Opnd) (a : Opnd) (b : MOff) (σ : State) : Result :=
  issue ⟨shStore 4 false d a b, .b, false, false⟩ (fun k => storeStash k 16 d a b) σ

/-- LDL.b32 (R180). -/
def execLdlB32 (d : Opnd) (a : Opnd) (b : MOff) (σ : State) : Result :=
  issue ⟨shLoad 1 false d a b, .a, false, false⟩ (fun k => loadLane k 4 d a b) σ

/-- LDL.b64 (R180). -/
def execLdlB64 (d : Opnd) (a : Opnd) (b : MOff) (σ : State) : Result :=
  issue ⟨shLoad 2 false d a b, .a, false, false⟩ (fun k => loadLane k 8 d a b) σ

/-- LDL.b128 (R180). -/
def execLdlB128 (d : Opnd) (a : Opnd) (b : MOff) (σ : State) : Result :=
  issue ⟨shLoad 4 false d a b, .a, false, false⟩ (fun k => loadLane k 16 d a b) σ

/-- STL.b32 (R180). -/
def execStlB32 (d : Opnd) (a : Opnd) (b : MOff) (σ : State) : Result :=
  issue ⟨shStore 1 false d a b, .b, false, false⟩ (fun k => storeLane k 4 d a b) σ

/-- STL.b64 (R180). -/
def execStlB64 (d : Opnd) (a : Opnd) (b : MOff) (σ : State) : Result :=
  issue ⟨shStore 2 false d a b, .b, false, false⟩ (fun k => storeLane k 8 d a b) σ

/-- STL.b128 (R180). -/
def execStlB128 (d : Opnd) (a : Opnd) (b : MOff) (σ : State) : Result :=
  issue ⟨shStore 4 false d a b, .b, false, false⟩ (fun k => storeLane k 16 d a b) σ

/-- LDGC.b32 (R181). -/
def execLdgcB32 (d : Opnd) (a : Opnd) (b : MOff) (σ : State) : Result :=
  issue ⟨shLoad 1 true d a b, .a, false, true⟩ (fun k => loadGlobal k 4 false true d a b) σ

/-- LDGC.b64 (R181). -/
def execLdgcB64 (d : Opnd) (a : Opnd) (b : MOff) (σ : State) : Result :=
  issue ⟨shLoad 2 true d a b, .a, false, true⟩ (fun k => loadGlobal k 8 false true d a b) σ

/-- GATHER.b32 (R182). -/
def execGatherB32 (d : Opnd) (a : Opnd) (b : Opnd) (σ : State) : Result :=
  issue ⟨shGather 1 d a b, .a, false, true⟩ (fun k => gather k 4 d a b) σ

/-- GATHER.b64 (R182). -/
def execGatherB64 (d : Opnd) (a : Opnd) (b : Opnd) (σ : State) : Result :=
  issue ⟨shGather 2 d a b, .a, false, true⟩ (fun k => gather k 8 d a b) σ

/-- SCATTER.b32 (R182). -/
def execScatterB32 (d : Opnd) (a : Opnd) (b : Opnd) (σ : State) : Result :=
  issue ⟨shScatter 1 d a b, .b, false, true⟩ (fun k => scatter k 4 d a b) σ

/-- SCATTER.b64 (R182). -/
def execScatterB64 (d : Opnd) (a : Opnd) (b : Opnd) (σ : State) : Result :=
  issue ⟨shScatter 2 d a b, .b, false, true⟩ (fun k => scatter k 8 d a b) σ

/-- SMAP (R185). -/
def execSmap (d : Opnd) (a : Opnd) (b : Src) (σ : State) : Result :=
  issue ⟨shSmap d a b, .no, false, false⟩ (fun k => smap k d a b) σ

/-- SUNMAP (R186). -/
def execSunmap (a : Src) (σ : State) : Result :=
  issue ⟨shS1 a, .b, false, false⟩ (fun k => sunmap k a) σ

/-- SFLUSH (R186). -/
def execSflush (a : Src) (σ : State) : Result :=
  issue ⟨shS1 a, .b, false, false⟩ (fun k => sflush k a) σ

/-- PREF (R187). -/
def execPref (a : Opnd) (b : MOff) (σ : State) : Result :=
  issue ⟨shPref a b, .b, false, false⟩ (fun k => prefetch k a b) σ

/-- ATOM.add.i32 (R223). -/
def execAtomAddI32 (d : Opnd) (a : Opnd) (b : MOff) (σ : State) : Result :=
  issue ⟨shAtom 1 1 true d a b, .a, false, false⟩ (fun k => atomGlobal k .add 1 d a b) σ

/-- ATOM.add.f32 (R223). -/
def execAtomAddF32 (d : Opnd) (a : Opnd) (b : MOff) (σ : State) : Result :=
  issue ⟨shAtom 1 1 true d a b, .a, false, false⟩ (fun k => atomGlobal k .addF 1 d a b) σ

/-- ATOM.min.i32 (R223). -/
def execAtomMinI32 (d : Opnd) (a : Opnd) (b : MOff) (σ : State) : Result :=
  issue ⟨shAtom 1 1 true d a b, .a, false, false⟩ (fun k => atomGlobal k .minI 1 d a b) σ

/-- ATOM.min.n32 (R223). -/
def execAtomMinN32 (d : Opnd) (a : Opnd) (b : MOff) (σ : State) : Result :=
  issue ⟨shAtom 1 1 true d a b, .a, false, false⟩ (fun k => atomGlobal k .minN 1 d a b) σ

/-- ATOM.max.i32 (R223). -/
def execAtomMaxI32 (d : Opnd) (a : Opnd) (b : MOff) (σ : State) : Result :=
  issue ⟨shAtom 1 1 true d a b, .a, false, false⟩ (fun k => atomGlobal k .maxI 1 d a b) σ

/-- ATOM.max.n32 (R223). -/
def execAtomMaxN32 (d : Opnd) (a : Opnd) (b : MOff) (σ : State) : Result :=
  issue ⟨shAtom 1 1 true d a b, .a, false, false⟩ (fun k => atomGlobal k .maxN 1 d a b) σ

/-- ATOM.and (R223). -/
def execAtomAnd (d : Opnd) (a : Opnd) (b : MOff) (σ : State) : Result :=
  issue ⟨shAtom 1 1 true d a b, .a, false, false⟩ (fun k => atomGlobal k .and 1 d a b) σ

/-- ATOM.or (R223). -/
def execAtomOr (d : Opnd) (a : Opnd) (b : MOff) (σ : State) : Result :=
  issue ⟨shAtom 1 1 true d a b, .a, false, false⟩ (fun k => atomGlobal k .or 1 d a b) σ

/-- ATOM.xor (R223). -/
def execAtomXor (d : Opnd) (a : Opnd) (b : MOff) (σ : State) : Result :=
  issue ⟨shAtom 1 1 true d a b, .a, false, false⟩ (fun k => atomGlobal k .xor 1 d a b) σ

/-- ATOM.xchg (R223). -/
def execAtomXchg (d : Opnd) (a : Opnd) (b : MOff) (σ : State) : Result :=
  issue ⟨shAtom 1 1 true d a b, .a, false, false⟩ (fun k => atomGlobal k .xchg 1 d a b) σ

/-- ATOM.cas (R223). -/
def execAtomCas (d : Opnd) (a : Opnd) (b : MOff) (σ : State) : Result :=
  issue ⟨shAtom 2 1 true d a b, .a, false, false⟩ (fun k => atomGlobal k .cas 1 d a b) σ

/-- ATOM.inc (R223). -/
def execAtomInc (d : Opnd) (a : Opnd) (b : MOff) (σ : State) : Result :=
  issue ⟨shAtom 1 1 true d a b, .a, false, false⟩ (fun k => atomGlobal k .inc 1 d a b) σ

/-- ATOM.add.w (R223). -/
def execAtomAddW (d : Opnd) (a : Opnd) (b : MOff) (σ : State) : Result :=
  issue ⟨shAtom 2 2 true d a b, .a, false, false⟩ (fun k => atomGlobal k .addW 2 d a b) σ

/-- ATOM.min.w (R223). -/
def execAtomMinW (d : Opnd) (a : Opnd) (b : MOff) (σ : State) : Result :=
  issue ⟨shAtom 2 2 true d a b, .a, false, false⟩ (fun k => atomGlobal k .minW 2 d a b) σ

/-- ATOM.cas.w (R223). -/
def execAtomCasW (d : Opnd) (a : Opnd) (b : MOff) (σ : State) : Result :=
  issue ⟨shAtom 4 2 true d a b, .a, false, false⟩ (fun k => atomGlobal k .casW 2 d a b) σ

/-- RED.add.i32 (R223). -/
def execRedAddI32 (d : Opnd) (a : Opnd) (b : MOff) (σ : State) : Result :=
  issue ⟨shAtom 1 0 true d a b, .b, false, false⟩ (fun k => atomGlobal k .add 0 d a b) σ

/-- RED.add.f32 (R223). -/
def execRedAddF32 (d : Opnd) (a : Opnd) (b : MOff) (σ : State) : Result :=
  issue ⟨shAtom 1 0 true d a b, .b, false, false⟩ (fun k => atomGlobal k .addF 0 d a b) σ

/-- RED.min.w (R223). -/
def execRedMinW (d : Opnd) (a : Opnd) (b : MOff) (σ : State) : Result :=
  issue ⟨shAtom 2 0 true d a b, .b, false, false⟩ (fun k => atomGlobal k .minW 0 d a b) σ

/-- RED.max.n32 (R223). -/
def execRedMaxN32 (d : Opnd) (a : Opnd) (b : MOff) (σ : State) : Result :=
  issue ⟨shAtom 1 0 true d a b, .b, false, false⟩ (fun k => atomGlobal k .maxN 0 d a b) σ

/-- SATOM.add (R223). -/
def execSatomAdd (d : Opnd) (a : Opnd) (b : MOff) (σ : State) : Result :=
  issue ⟨shAtom 1 1 false d a b, .a, false, false⟩ (fun k => atomStash k .add d a b) σ

/-- SATOM.min.n32 (R223). -/
def execSatomMinN32 (d : Opnd) (a : Opnd) (b : MOff) (σ : State) : Result :=
  issue ⟨shAtom 1 1 false d a b, .a, false, false⟩ (fun k => atomStash k .minN d a b) σ

/-- SATOM.cas (R223). -/
def execSatomCas (d : Opnd) (a : Opnd) (b : MOff) (σ : State) : Result :=
  issue ⟨shAtom 2 1 false d a b, .a, false, false⟩ (fun k => atomStash k .cas d a b) σ

/-- RHIST (R229). -/
def execRhist (d : Opnd) (a : Opnd) (b : Opnd) (σ : State) : Result :=
  issue ⟨shRhist d a b, .b, false, false⟩ (fun k => rhist k d a b) σ

/-- STAGE (R231). -/
def execStage (d : Opnd) (a : Opnd) (b : MOff) (σ : State) : Result :=
  issue ⟨shStage d a b, .a, false, false⟩ (fun k => atomGlobal k .stage 4 d a b) σ

/-- TXBEGIN (R233). -/
def execTxbegin (d : Opnd) (σ : State) : Result :=
  issue ⟨shVDst d, .no, false, false⟩ (fun k => txBegin k d) σ

/-- TXEND (R237). -/
def execTxend (σ : State) : Result :=
  issue ⟨Shape.none, .no, false, true⟩ (fun k => txEnd k) σ

/-- TXABORT (R238). -/
def execTxabort (a : Src) (σ : State) : Result :=
  issue ⟨shS1 a, .no, false, true⟩ (fun k => txAbort k (k.uni a)) σ

/-- TXSTAT (R239). -/
def execTxstat (d : Opnd) (σ : State) : Result :=
  issue ⟨shVDst d, .a, false, true⟩ (fun k => txStat k d) σ

/-- TRANSLATION_COMPLETE (R193): A lane's translation through the last-page register, TLBs or walker completes with a page, a fault, a fatal entry or PROT. -/
def execTranslationComplete (b : Nat) (t : Nat) (op : Nat) (σ : State) : Result :=
  deviceStep (translateOp b t op) σ

/-- HOME_STORE (R203): A store at its home slice takes a write timestamp beyond every live lease. -/
def execHomeStore (b : Nat) (t : Nat) (op : Nat) (σ : State) : Result :=
  deviceStep (homeStore b t op) σ

/-- PROVISIONAL_COMMIT (R205): A provisional store commits when every earlier store of its team is committed, taking its logical time. -/
def execProvisionalCommit (b : Nat) (t : Nat) (op : Nat) (σ : State) : Result :=
  deviceStep (commitStore b t op) σ

/-- HOME_LOAD (R203): A load or fill request at its home slice extends the read lease and returns the line with its timestamps. -/
def execHomeLoad (c : Nat) (line : Nat) (σ : State) : Result :=
  deviceStep (homeLoad c line) σ

/-- COLLECTOR_SEND (R188): A collector entry is sent to L1 16 core clocks (32 for a gather) after it opened. -/
def execCollectorSend (c : Nat) (line : Nat) (σ : State) : Result :=
  deviceStep (collectorSend c line) σ

/-- COLLECTOR_LINE_RETURN (R188): A line returns to the collector and each team whose pieces are all served is woken. -/
def execCollectorLineReturn (c : Nat) (line : Nat) (σ : State) : Result :=
  deviceStep (collectorReturn c line) σ

/-- HOME_ATOMIC (R220): An atomic, reduction, STAGE or commit packet is performed at the home slice's atomic unit, lanes in ascending order. -/
def execHomeAtomic (b : Nat) (t : Nat) (op : Nat) (σ : State) : Result :=
  deviceStep (homeAtomic b t op) σ

/-- ATOMIC_RESEND (R228): An atomic packet with no valid reply within 3,072 core clocks is resent with the same sequence number. -/
def execAtomicResend (c : Nat) (h : Nat) (σ : State) : Result :=
  deviceStep (atomicResend c h) σ

/-- REPLY_CACHE_RELEASE (R228): After 96 idle core clocks the core acknowledges replies and the home frees reply-cache entries. -/
def execReplyCacheRelease (c : Nat) (h : Nat) (σ : State) : Result :=
  deviceStep (update (fun s => s.release c h)) σ

/-- PTS_TICK (R203): Each core's logical clock pts grows by 1 every 16 ticks. -/
def execPtsTick (σ : State) : Result :=
  deviceStep (update (fun s => s.pass (Config.ptsTicks - s.tick % Config.ptsTicks))) σ

/-- TX_TIMEOUT (R235): A transaction still open 65,536 ticks after its begin aborts with CAPACITY. -/
def execTxTimeout (b : Nat) (t : Nat) (l : Nat) (σ : State) : Result :=
  deviceStep (Sys2Proof.Machine.txTimeout b t l) σ

end Sys2Proof.Machine
end

