-- ==== Sys2Proof/Machine/MtxOps.lean ====
section
/-! DEFINITION. The instructions of the matrix stream (11 R288-R304). -/
namespace Sys2Proof.Machine
open Sys2Proof

/-- MNOP (R289). -/
def execMnop (σ : State) : Result :=
  seqIssue .no [] none (fun _ => pure ()) σ

/-- MMOVQ (R289). -/
def execMmovq (d : Fin 16) (a : QSrc) (σ : State) : Result :=
  seqIssue .no (qObj a ++ [16 + d.val]) none (fun k => k.mod (·.setQ d.val (k.val a))) σ

/-- MADDQ (R289). -/
def execMaddq (d : Fin 16) (a : Fin 16) (b : QSrc) (σ : State) : Result :=
  seqIssue .no ([16 + a.val, 16 + d.val] ++ qObj b) none (fun k => k.mod (·.setQ d.val (k.m.qr a.val + k.val b))) σ

/-- MLOOP (R289). -/
def execMloop (c : Fin 16) (o : BOff) (σ : State) : Result :=
  seqIssue .no [16 + c.val] none (fun k => mloop k c.val o) σ

/-- MTC (R290). -/
def execMtc (c : Fin 12) (a : QSrc) (σ : State) : Result :=
  seqIssue .no (qObj a ++ [c.val]) none (fun k => mtc k c.val (k.val a)) σ

/-- MLOAD (R291). -/
def execMload (t : Fin 12) (a : QSrc) (p : Pitch) (σ : State) : Result :=
  seqIssue .a (qObj a ++ pitchObj p ++ [t.val]) none (fun k => mload k t.val (k.val a).toNat p) σ

/-- MSTORE (R292). -/
def execMstore (t : Fin 4) (a : QSrc) (p : Pitch) (σ : State) : Result :=
  seqIssue .b (qObj a ++ pitchObj p ++ [8 + t.val]) none (fun k => mstore k t.val (k.val a).toNat p) σ

/-- MZERO (R293). -/
def execMzero (n : Fin 4) (σ : State) : Result :=
  seqIssue .no [8 + n.val] none (fun k => k.mod fun m => m.setAcc n.val { m.acc n.val with els := [] }) σ

/-- MMA (R298). -/
def execMma (n : Fin 4) (_ : Bool) (x : Fin 8) (_ : Bool) (y : Fin 8) (σ : State) : Result :=
  seqIssue .a [x.val, y.val, 8 + n.val] (some (8 + n.val)) (fun k => mma k 0 n.val x.val y.val) σ

/-- MMAS (R299). -/
def execMmas (n : Fin 4) (_ : Bool) (x : Fin 8) (_ : Bool) (y : Fin 8) (σ : State) : Result :=
  seqIssue .a [x.val, y.val, 8 + n.val] (some (8 + n.val)) (fun k => mma k 1 n.val x.val y.val) σ

/-- MMANM (R300). -/
def execMmanm (n : Fin 4) (_ : Bool) (x : Fin 8) (_ : Bool) (y : Fin 8) (σ : State) : Result :=
  seqIssue .a [x.val, y.val, 8 + n.val] (some (8 + n.val)) (fun k => mma k 2 n.val x.val y.val) σ

/-- MDECOMP (R301). -/
def execMdecomp (d : Fin 8) (s : Fin 8) (b : Fin 16) (σ : State) : Result :=
  seqIssue .a [s.val, 16 + b.val, d.val] none (fun k => mdecomp k d.val s.val b.val) σ

/-- MSCALE (R294). -/
def execMscale (n : Fin 8) (a : QSrc) (σ : State) : Result :=
  seqIssue .a (qObj a ++ [n.val]) none (fun k => mscale k n.val (k.val a).toNat) σ

/-- MFMT (R302). -/
def execMfmt (n : Fin 16) (σ : State) : Result :=
  seqIssue .no [] none (fun k => k.toUnit n.val (.seqWait n.val true)) σ

/-- MWAIT (R302). -/
def execMwait (n : Fin 16) (σ : State) : Result :=
  seqIssue .no [] none (fun k => k.toUnit n.val (.seqWait n.val false)) σ

/-- MSIGNAL (R302). -/
def execMsignal (n : Fin 16) (σ : State) : Result :=
  seqIssue .no [] none (fun k => k.toUnit n.val (.seqArrive n.val)) σ

/-- MAWAIT (R303). -/
def execMawait (d : Fin 16) (h : Fin 16) (σ : State) : Result :=
  seqIssue .a [16 + h.val, 16 + d.val] none (fun k => mawait k d.val h.val) σ

/-- MRELEASE (R303). -/
def execMrelease (h : Fin 16) (s : Fin 16) (σ : State) : Result :=
  seqIssue .no [16 + h.val, 16 + s.val] none (fun k => ringRelease k.b (k.m.qr h.val).toNat (k.m.qr s.val).toNat) σ

/-- MSTAMP (R304). -/
def execMstamp (s : Fin 4) (v : Fin 7) (σ : State) : Result :=
  seqIssue .no [] none (fun k => mstamp k s.val v.val) σ

/-- MEND (R289). -/
def execMend (σ : State) : Result :=
  seqIssue .no [] none (fun k => mend k) σ

end Sys2Proof.Machine
end

