-- ==== Sys2Proof/Machine/OstlerOps.lean ====
section
/-! DEFINITION. The steps of the ostler (13) and of the binning, resolve, classify and traversal units (14, 15). -/
namespace Sys2Proof.Machine
open Sys2Proof

/-- BLOCK_RETIRE (R33): A block retires once all its teams have retired and all its asynchronous jobs have completed. -/
def execBlockRetire (b : Nat) (σ : State) : Result :=
  deviceStep (blockRetire b) σ

/-- OSTLER_PICK (R339): Each post clock the ostler picks a candidate by restore, overdue, deadline, drain-first and aging rules. -/
def execOstlerPick (u : Nat) (r : Nat) (σ : State) : Result :=
  deviceStep (ostlerPick u r) σ

/-- BLOCK_SAVE (R350): The ostler saves a block to a free frame of the pool, waiting for a frame if none is free. -/
def execBlockSave (b : Nat) (σ : State) : Result :=
  deviceStep (blockSave b) σ

/-- BLOCK_RESTORE (R350): A restorable saved block is restored on a permitted core and its frame freed. -/
def execBlockRestore (b : Nat) (σ : State) : Result :=
  deviceStep (blockRestore b) σ

/-- FORCED_SAVE (R349): drainlim ticks after a drain request every block still resident is saved by force. -/
def execForcedSave (u : Nat) (σ : State) : Result :=
  deviceStep (forcedSave u) σ

/-- LAUNCH_TAKE (R335): The ostler takes a launch record or kernel waybill from its queue as a new launch. -/
def execLaunchTake (u : Nat) (q : Nat) (σ : State) : Result :=
  deviceStep (launchTake u q) σ

/-- CANDIDATE_PINNED (R339): A candidate that has waited 2^22 ticks at effective level 0 becomes pinned. -/
def execCandidatePinned (u : Nat) (c : Nat) (σ : State) : Result :=
  deviceStep (pinCand u c) σ

/-- CANDIDATE_OVERDUE (R339): A candidate pinned for a further 2^22 ticks becomes overdue. -/
def execCandidateOverdue (u : Nat) (c : Nat) (σ : State) : Result :=
  deviceStep (overdueCand u c) σ

/-- DRAIN_FIRST_HOLD_END (R339): A drain-first hold ends after 2^20 ticks without a break. -/
def execDrainFirstHoldEnd (u : Nat) (q : Nat) (σ : State) : Result :=
  deviceStep (holdEnd u q) σ

/-- TAIL_WRITE (R334): A host write to tailq submits launch records, or is refused with code 7. -/
def execTailWrite (u : Nat) (q : Nat) (v : DWord) (σ : State) : Result :=
  deviceStep (tailWrite u q v) σ

/-- CTL_ENABLE (R331): Setting ctl.enable makes the ostler read the register page and queue descriptors and start dispatch. -/
def execCtlEnable (u : Nat) (σ : State) : Result :=
  deviceStep (ctlEnable u) σ

/-- CTL_DRAIN (R349): Setting ctl.drain stops picking, sets sr.drain in every resident block and ends waiting QPOPs. -/
def execCtlDrain (u : Nat) (σ : State) : Result :=
  deviceStep (ctlDrain u) σ

/-- CTL_DRAIN_END (R349): Clearing ctl.drain makes saved blocks restorable and resumes dispatch. -/
def execCtlDrainEnd (u : Nat) (σ : State) : Result :=
  deviceStep (ctlDrainEnd u) σ

/-- WAYBILL_READY_COPY (R344): A waybill whose preds reached 0 is copied from the arena into its queue once the queue has room. -/
def execWaybillReadyCopy (u : Nat) (σ : State) : Result :=
  deviceStep (readyCopyStep u) σ

/-- BIN_BATCH (R361): A submitted mesh batch reaches the binning unit, which culls and bins its primitives into binbuf. -/
def execBinBatch (r : Nat) (σ : State) : Result :=
  deviceStep (binStep r) σ

/-- TILE_RESOLVE_START (R367): An OPEN tile of a closed view enters RESOLVING when a pin slot of its post is free. -/
def execTileResolveStart (r : Nat) (v : Nat) (t : Nat) (σ : State) : Result :=
  deviceStep (tileStart r v t) σ

/-- TILE_RESOLVED (R365): The resolver finishes applying a tile's primitives and the tile becomes RESOLVED. -/
def execTileResolved (r : Nat) (v : Nat) (t : Nat) (σ : State) : Result :=
  deviceStep (tileResolved r v t) σ

/-- CLASSIFY_TILE (R375): The classify engine takes a resolved tile, sorts its pixels by material and emits one bin waybill per material. -/
def execClassifyTile (r : Nat) (v : Nat) (t : Nat) (σ : State) : Result :=
  deviceStep (classifyTile r v t) σ

/-- VBOUT_WRITE_DONE (R366): A RELEASED tile's vbout write completes and the tile becomes FREE. -/
def execVboutWriteDone (r : Nat) (v : Nat) (t : Nat) (σ : State) : Result :=
  deviceStep (vboutDone r v t) σ

/-- TRAVERSAL_BATCH_COMPLETE (R408): A traversal batch completes when every ray has its result and every push is made, and the ostler performs its DONE. -/
def execTraversalBatchComplete (j : Nat) (σ : State) : Result :=
  deviceStep (batchStep j) σ

/-- FAULT_ENTRY_POST (R477): The ostler posts a fault entry to the suite's fault queue and raises cause 6, waiting if the queue limits are reached. -/
def execFaultEntryPost (u : Nat) (σ : State) : Result :=
  deviceStep (faultPost u) σ

/-- PFPOP (R436): A write to pfpop removes the oldest fault entry from the pfrec registers. -/
def execPfpop (u : Nat) (σ : State) : Result :=
  deviceStep (update (·.popFault u)) σ

/-- PFDONE_RESOLVED (R477): A pfdone resolved verdict invalidates the page's translations and lets every waiting fault go on. -/
def execPfdoneResolved (u : Nat) (tag : Word) (σ : State) : Result :=
  deviceStep (update (·.faultDone u tag.toNat false)) σ

/-- PFDONE_DECLINED (R477): A pfdone declined verdict delivers PAGEFATAL to waiting team accesses and fatal outcomes to waiting jobs. -/
def execPfdoneDeclined (u : Nat) (tag : Word) (σ : State) : Result :=
  deviceStep (update (·.faultDone u tag.toNat true)) σ

/-- MCPOP (R436): A write to mcpop removes the oldest machine-check record. -/
def execMcpop (u : Nat) (σ : State) : Result :=
  deviceStep (update (·.popCheck u)) σ

end Sys2Proof.Machine
end

