-- ==== Sys2Proof/Machine/SysOps.lean ====
section
/-! DEFINITION. The instructions of the system class (16), halt requests, and the ostler's and engines' own steps. -/
namespace Sys2Proof.Machine
open Sys2Proof

/-- `LONG_LATENCY_COMPLETE` (02 R40): the operation's next step, or its completion. -/
def longComplete (g : Agent) (op : Nat) : M Unit := do
  let s ← get
  match g with
  | .seq b =>
    match (s.block b).mtx.complete op with
    | some m => do
      need (s.block b).saved.isNone .notEnabled
      set (s.modMtx b fun _ => m)
    | none => stop (.fault .notEnabled)
  | .team b t =>
    match (s.team b t).op op with
    | none => stop (.fault .notEnabled)
    | some o => match o.kind with
      | .task _ => taskStep b t op
      | .walk _ => walkStep b t op
      | .unit u => unitStep b t o (unitRun b t o u)
      | .mdecl .. => mdeclStep b t op
      | .tileAcq .. => tileacqStep b t op
      | .binPush .. => binPushStep b t op
      | _ => completeAccess b t op

/-- SRD (R417). -/
def execSrd (d : Opnd) (S : Byte) (σ : State) : Result :=
  issue ⟨shSrd d S, .no, false, false⟩ (fun k => srd k d S.toNat) σ

/-- SWR (R417). -/
def execSwr (S : Byte) (a : Src) (σ : State) : Result :=
  issue ⟨shSwr S a, .no, false, false⟩ (fun k => swr k S.toNat a) σ

/-- TRET (R414). -/
def execTret (σ : State) : Result :=
  issue ⟨Shape.none, .no, true, false⟩ (fun k => tret k) σ

/-- TICK (R419). -/
def execTick (d : Opnd) (σ : State) : Result :=
  issue ⟨shTick d, .no, false, false⟩ (fun k => tickIns k d) σ

/-- TICK.c (R419). -/
def execTickC (d : Opnd) (σ : State) : Result :=
  issue ⟨shTick d, .no, false, false⟩ (fun k => tickDone k d) σ

/-- TLBINV (R421). -/
def execTlbinv (a : Opnd) (b : Option Opnd) (σ : State) : Result :=
  issue ⟨shAOpt a b, .no, false, false⟩ (fun k => tlbinv k a b) σ

/-- ASIDSET (R422). -/
def execAsidset (a : Opnd) (b : Option Opnd) (σ : State) : Result :=
  issue ⟨shAOpt a b, .no, false, false⟩ (fun k => asidset k a b) σ

/-- CSAVE (R423). -/
def execCsave (d : Opnd) (a : Opnd) (b : Opnd) (σ : State) : Result :=
  issue ⟨shCsave d a b, .no, false, false⟩ (fun k => csave k d a b) σ

/-- CRESTORE (R423). -/
def execCrestore (d : Opnd) (a : Opnd) (σ : State) : Result :=
  issue ⟨shCrestore d a, .no, false, false⟩ (fun k => crestore k d a) σ

/-- EVENT (R425). -/
def execEventWake (a : Src) (σ : State) : Result :=
  issue ⟨shS1 a, .no, false, false⟩ (fun k => k.modB Block.wake) σ

/-- EVENT (R425). -/
def execEventPost (a : Src) (σ : State) : Result :=
  issue ⟨shS1 a, .no, false, false⟩ (fun k => eventPost k (k.uni a)) σ

/-- DBGSTOP (R424). -/
def execDbgstop (a : Opnd) (σ : State) : Result :=
  issue ⟨shWS a, .no, false, false⟩ (fun k => dbgstop k a) σ

/-- HALT (R420). -/
def execHalt (σ : State) : Result :=
  issue ⟨Shape.none, .no, false, false⟩ (fun k => haltIns k) σ

/-- CLAUSE_ISSUE (R34): A clause header whose wait mask is clear starts one frontier entry's clause, reading the guard once and issuing its words in order. -/
def execClauseIssue (g : Agent) (σ : State) : Result :=
  deviceStep (issueAgent g) σ

/-- DELAYED_TRAP_DELIVERY (R196): A trap found after later instructions issued (PAGEFATAL, delayed PROT, ECC, stream trap) is delivered before the team's next instruction. -/
def execDelayedTrapDelivery (b : Nat) (t : Nat) (σ : State) : Result :=
  deviceStep (deliverDelayed b t) σ

/-- LONG_LATENCY_COMPLETE (R40): A tracked long-latency instruction completes, writing its result and letting its completion flag clear. -/
def execLongLatencyComplete (g : Agent) (op : Nat) (σ : State) : Result :=
  deviceStep (longComplete g op) σ

/-- HALT_REQUEST (R420): A haltreq write halts the named team or block at the end of its current clause, or holds it pending. -/
def execHaltRequest (u : Nat) (v : DWord) (σ : State) : Result :=
  deviceStep (haltRequest u v) σ

/-- HALT_RESUME (R420): A haltreq write with the resume bit resumes a halted team. -/
def execHaltResume (u : Nat) (v : DWord) (σ : State) : Result :=
  deviceStep (haltResume u v) σ

end Sys2Proof.Machine
end

