-- ==== Sys2Proof/Machine/TaskOps.lean ====
section
/-! DEFINITION. The instructions of the task class (13 R342), `FENCE` (08 R212), and the ostler's steps that end their
waits. -/
namespace Sys2Proof.Machine
open Sys2Proof

/-- FENCE (R213). -/
def execFence (scope : BitVec 3) (p : BitVec 5) (u : BitVec 5) (σ : State) : Result :=
  issue ⟨shFence scope p u, .no, false, false⟩ (fun k => fenceIns k scope.toNat p.toNat) σ

/-- QPOP (R343). -/
def execQpop (nb : Bool) (d : Opnd) (a : Opnd) (b : Src) (σ : State) : Result :=
  issue ⟨shSFlag nb d a b, .a, false, false⟩ (fun k => qpop k nb d a b) σ

/-- QPUSH (R344). -/
def execQpush (a : Opnd) (b : Src) (σ : State) : Result :=
  issue ⟨shS2 a b, .b, false, false⟩ (fun k => qpush k a b) σ

/-- QRESERVE (R345). -/
def execQreserve (d : Opnd) (a : Opnd) (b : Src) (σ : State) : Result :=
  issue ⟨shSSS d a b, .a, false, false⟩ (fun k => qreserve k d a b) σ

/-- QCOMMIT (R345). -/
def execQcommit (a : Opnd) (b : Src) (σ : State) : Result :=
  issue ⟨shS2 a b, .b, false, false⟩ (fun k => qcommit k a b) σ

/-- QCANCEL (R345). -/
def execQcancel (a : Opnd) (b : Src) (σ : State) : Result :=
  issue ⟨shS2 a b, .b, false, false⟩ (fun k => qcancel k a b) σ

/-- SUCC (R344). -/
def execSucc (a : Src) (σ : State) : Result :=
  issue ⟨shS1 a, .b, false, false⟩ (fun k => k.task none (.succ (k.uni a).toNat)) σ

/-- DONE (R344). -/
def execDoneQ (a : Src) (σ : State) : Result :=
  issue ⟨shS1 a, .b, false, false⟩ (fun k => doneIns k a) σ

/-- RINVOKE (R351). -/
def execRinvoke (T : Bool) (d : Opnd) (a : Opnd) (b : Src) (σ : State) : Result :=
  issue ⟨shSFlag T d a b, .a, false, false⟩ (fun k => rinvoke k T d a b) σ

/-- DEADLINE (R347). -/
def execDeadline (a : Opnd) (b : Src) (σ : State) : Result :=
  issue ⟨shS2 a b, .no, false, false⟩ (fun k => deadlineIns k a b) σ

/-- DRAINCHK (R349). -/
def execDrainchk (d : Opnd) (σ : State) : Result :=
  issue ⟨shSDst d, .no, false, false⟩ (fun k => do let s ← get; k.write d (fun _ => drainWord s k.blk.suite k.blk.drain)) σ

/-- QSTAT (R346). -/
def execQstat (I : Fin 5) (d : Opnd) (a : Src) (σ : State) : Result :=
  issue ⟨shSS d a, .a, false, false⟩ (fun k => qstat k I.val d a) σ

/-- QRESERVE_TIMEOUT (R345): A QRESERVE that has waited fulltmo ticks on a full queue returns FULL. -/
def execQreserveTimeout (b : Nat) (t : Nat) (op : Nat) (σ : State) : Result :=
  deviceStep (reserveTimeout b t op) σ

/-- RINVOKE_RETRY (R352): A refused invocation is retried at 4,500, 9,000 and 13,500 ticks after the first refusal. -/
def execRinvokeRetry (b : Nat) (t : Nat) (op : Nat) (σ : State) : Result :=
  deviceStep (rinvokeAgain b t op) σ

/-- RINVOKE_RECEIVE (R351): A receiving ostler takes a remote-invocation packet and enqueues a handler waybill if the handler is live. -/
def execRinvokeReceive (p : Packet) (σ : State) : Result :=
  deviceStep (rinvokeRecv p) σ

end Sys2Proof.Machine
end

