-- ==== Sys2Proof/Machine/Dispatch.lean ====
section
/-! DEFINITION. Dispatch: one arm per constructor of `Instr`, each one call of its meaning. -/
namespace Sys2Proof.Machine
open Sys2Proof

def exec (i : Instr) (s : State) : Host.Outcome State Fault Refusal :=
  match i with
  | .clauseIssue g => Sys2Proof.Machine.execClauseIssue g s
  | .delayedTrapDelivery b t => Sys2Proof.Machine.execDelayedTrapDelivery b t s
  | .longLatencyComplete g op => Sys2Proof.Machine.execLongLatencyComplete g op s
  | .barrierOpApply b => Sys2Proof.Machine.execBarrierOpApply b s
  | .barrierCompletion b n => Sys2Proof.Machine.execBarrierCompletion b n s
  | .sleepExpire b t => Sys2Proof.Machine.execSleepExpire b t s
  | .blockRetire b => Sys2Proof.Machine.execBlockRetire b s
  | .ostlerPick u r => Sys2Proof.Machine.execOstlerPick u r s
  | .traversalBatchComplete j => Sys2Proof.Machine.execTraversalBatchComplete j s
  | .launchTake u q => Sys2Proof.Machine.execLaunchTake u q s
  | .candidatePinned u c => Sys2Proof.Machine.execCandidatePinned u c s
  | .candidateOverdue u c => Sys2Proof.Machine.execCandidateOverdue u c s
  | .drainFirstHoldEnd u q => Sys2Proof.Machine.execDrainFirstHoldEnd u q s
  | .translationComplete b t op => Sys2Proof.Machine.execTranslationComplete b t op s
  | .faultEntryPost u => Sys2Proof.Machine.execFaultEntryPost u s
  | .blockSave b => Sys2Proof.Machine.execBlockSave b s
  | .blockRestore b => Sys2Proof.Machine.execBlockRestore b s
  | .forcedSave u => Sys2Proof.Machine.execForcedSave u s
  | .provisionalCommit b t op => Sys2Proof.Machine.execProvisionalCommit b t op s
  | .homeLoad c line => Sys2Proof.Machine.execHomeLoad c line s
  | .homeStore b t op => Sys2Proof.Machine.execHomeStore b t op s
  | .homeAtomic b t op => Sys2Proof.Machine.execHomeAtomic b t op s
  | .ptsTick => Sys2Proof.Machine.execPtsTick s
  | .collectorSend c line => Sys2Proof.Machine.execCollectorSend c line s
  | .collectorLineReturn c line => Sys2Proof.Machine.execCollectorLineReturn c line s
  | .atomicResend c h => Sys2Proof.Machine.execAtomicResend c h s
  | .replyCacheRelease c h => Sys2Proof.Machine.execReplyCacheRelease c h s
  | .eccUncorrectable kind pa sectors asid => Sys2Proof.Machine.execEccUncorrectable kind pa sectors asid s
  | .txTimeout b t l => Sys2Proof.Machine.execTxTimeout b t l s
  | .jobComplete j => Sys2Proof.Machine.execJobComplete j s
  | .streamJobStart j => Sys2Proof.Machine.execStreamJobStart j s
  | .streamTile j => Sys2Proof.Machine.execStreamTile j s
  | .nearMemoryJobStart r sel => Sys2Proof.Machine.execNearMemoryJobStart r sel s
  | .fabricRequestReceive q => Sys2Proof.Machine.execFabricRequestReceive q s
  | .rinvokeReceive p => Sys2Proof.Machine.execRinvokeReceive p s
  | .rinvokeRetry b t op => Sys2Proof.Machine.execRinvokeRetry b t op s
  | .flitReceive p f => Sys2Proof.Machine.execFlitReceive p f s
  | .portDown p => Sys2Proof.Machine.execPortDown p s
  | .linkRestored p => Sys2Proof.Machine.execLinkRestored p s
  | .timeSync master => Sys2Proof.Machine.execTimeSync master s
  | .binBatch r => Sys2Proof.Machine.execBinBatch r s
  | .tileResolveStart r v t => Sys2Proof.Machine.execTileResolveStart r v t s
  | .tileResolved r v t => Sys2Proof.Machine.execTileResolved r v t s
  | .classifyTile r v t => Sys2Proof.Machine.execClassifyTile r v t s
  | .vboutWriteDone r v t => Sys2Proof.Machine.execVboutWriteDone r v t s
  | .scanOut r => Sys2Proof.Machine.execScanOut r s
  | .planeRead r => Sys2Proof.Machine.execPlaneRead r s
  | .displayEnable r v => Sys2Proof.Machine.execDisplayEnable r v s
  | .hostWindowRead w a n => Sys2Proof.Machine.execHostWindowRead w a n s
  | .hostWindowWrite w a v => Sys2Proof.Machine.execHostWindowWrite w a v s
  | .registerWrite a v => Sys2Proof.Machine.execRegisterWrite a v s
  | .tailWrite u q v => Sys2Proof.Machine.execTailWrite u q v s
  | .ctlEnable u => Sys2Proof.Machine.execCtlEnable u s
  | .ctlDrain u => Sys2Proof.Machine.execCtlDrain u s
  | .ctlDrainEnd u => Sys2Proof.Machine.execCtlDrainEnd u s
  | .qreserveTimeout b t op => Sys2Proof.Machine.execQreserveTimeout b t op s
  | .waybillReadyCopy u => Sys2Proof.Machine.execWaybillReadyCopy u s
  | .pfpop u => Sys2Proof.Machine.execPfpop u s
  | .pfdoneResolved u tag => Sys2Proof.Machine.execPfdoneResolved u tag s
  | .pfdoneDeclined u tag => Sys2Proof.Machine.execPfdoneDeclined u tag s
  | .mcpop u => Sys2Proof.Machine.execMcpop u s
  | .evqPop u => Sys2Proof.Machine.execEvqPop u s
  | .haltRequest u v => Sys2Proof.Machine.execHaltRequest u v s
  | .haltResume u v => Sys2Proof.Machine.execHaltResume u v s
  | .suiteMapRequest => Sys2Proof.Machine.execSuiteMapRequest s
  | .attestationRequest => Sys2Proof.Machine.execAttestationRequest s
  | .rootMailboxReply => Sys2Proof.Machine.execRootMailboxReply s
  | .functionLevelReset => Sys2Proof.Machine.execFunctionLevelReset s
  | .hotReset => Sys2Proof.Machine.execHotReset s
  | .coldReset => Sys2Proof.Machine.execColdReset s
  | .thermalShutdown => Sys2Proof.Machine.execThermalShutdown s
  | .clockStop => Sys2Proof.Machine.execClockStop s
  | .clockRelease t => Sys2Proof.Machine.execClockRelease t s
  | .nop => Sys2Proof.Machine.execNop s
  | .mov d a => Sys2Proof.Machine.execMov d a s
  | .iadd d a b => Sys2Proof.Machine.execIadd d a b s
  | .iaddsI32 d a b => Sys2Proof.Machine.execIaddsI32 d a b s
  | .iaddsN32 d a b => Sys2Proof.Machine.execIaddsN32 d a b s
  | .isub d a b => Sys2Proof.Machine.execIsub d a b s
  | .isubsI32 d a b => Sys2Proof.Machine.execIsubsI32 d a b s
  | .isubsN32 d a b => Sys2Proof.Machine.execIsubsN32 d a b s
  | .imul d a b => Sys2Proof.Machine.execImul d a b s
  | .imulhI32 d a b => Sys2Proof.Machine.execImulhI32 d a b s
  | .imulhN32 d a b => Sys2Proof.Machine.execImulhN32 d a b s
  | .imad d a b => Sys2Proof.Machine.execImad d a b s
  | .iminI32 d a b => Sys2Proof.Machine.execIminI32 d a b s
  | .iminN32 d a b => Sys2Proof.Machine.execIminN32 d a b s
  | .imaxI32 d a b => Sys2Proof.Machine.execImaxI32 d a b s
  | .imaxN32 d a b => Sys2Proof.Machine.execImaxN32 d a b s
  | .iabs d a => Sys2Proof.Machine.execIabs d a s
  | .ineg d a => Sys2Proof.Machine.execIneg d a s
  | .and d a b => Sys2Proof.Machine.execAnd d a b s
  | .or d a b => Sys2Proof.Machine.execOr d a b s
  | .xor d a b => Sys2Proof.Machine.execXor d a b s
  | .andn d a b => Sys2Proof.Machine.execAndn d a b s
  | .shl d a b => Sys2Proof.Machine.execShl d a b s
  | .shrn d a b => Sys2Proof.Machine.execShrn d a b s
  | .shra d a b => Sys2Proof.Machine.execShra d a b s
  | .rotl d a b => Sys2Proof.Machine.execRotl d a b s
  | .popc d a => Sys2Proof.Machine.execPopc d a s
  | .clz d a => Sys2Proof.Machine.execClz d a s
  | .brev d a => Sys2Proof.Machine.execBrev d a s
  | .bfxN32 d a b => Sys2Proof.Machine.execBfxN32 d a b s
  | .bfxI32 d a b => Sys2Proof.Machine.execBfxI32 d a b s
  | .bfi d a b => Sys2Proof.Machine.execBfi d a b s
  | .icmpEq p a b => Sys2Proof.Machine.execIcmpEq p a b s
  | .icmpNe p a b => Sys2Proof.Machine.execIcmpNe p a b s
  | .icmpLtI32 p a b => Sys2Proof.Machine.execIcmpLtI32 p a b s
  | .icmpLeI32 p a b => Sys2Proof.Machine.execIcmpLeI32 p a b s
  | .icmpLtN32 p a b => Sys2Proof.Machine.execIcmpLtN32 p a b s
  | .icmpLeN32 p a b => Sys2Proof.Machine.execIcmpLeN32 p a b s
  | .selP n d a b => Sys2Proof.Machine.execSelP n d a b s
  | .iaddW d a b => Sys2Proof.Machine.execIaddW d a b s
  | .isubW d a b => Sys2Proof.Machine.execIsubW d a b s
  | .imulwN32 d a b => Sys2Proof.Machine.execImulwN32 d a b s
  | .imulwI32 d a b => Sys2Proof.Machine.execImulwI32 d a b s
  | .shlW d a b => Sys2Proof.Machine.execShlW d a b s
  | .shrnW d a b => Sys2Proof.Machine.execShrnW d a b s
  | .lea d a b => Sys2Proof.Machine.execLea d a b s
  | .leaX4 d a b => Sys2Proof.Machine.execLeaX4 d a b s
  | .leaX8 d a b => Sys2Proof.Machine.execLeaX8 d a b s
  | .morton d a b => Sys2Proof.Machine.execMorton d a b s
  | .unmorton d a => Sys2Proof.Machine.execUnmorton d a s
  | .shflIdx d a b => Sys2Proof.Machine.execShflIdx d a b s
  | .shflXor d a b => Sys2Proof.Machine.execShflXor d a b s
  | .shflUp d a b => Sys2Proof.Machine.execShflUp d a b s
  | .shflDown d a b => Sys2Proof.Machine.execShflDown d a b s
  | .ballot d a => Sys2Proof.Machine.execBallot d a s
  | .rdlane d a b => Sys2Proof.Machine.execRdlane d a b s
  | .scanAdd ex d a => Sys2Proof.Machine.execScanAdd ex d a s
  | .reduceAdd d a => Sys2Proof.Machine.execReduceAdd d a s
  | .reduceMinI32 d a => Sys2Proof.Machine.execReduceMinI32 d a s
  | .reduceMaxI32 d a => Sys2Proof.Machine.execReduceMaxI32 d a s
  | .matchV d a => Sys2Proof.Machine.execMatchV d a s
  | .rng d a => Sys2Proof.Machine.execRng d a s
  | .modeset a => Sys2Proof.Machine.execModeset a s
  | .modesetRng a => Sys2Proof.Machine.execModesetRng a s
  | .fadd d a b => Sys2Proof.Machine.execFadd d a b s
  | .fsub d a b => Sys2Proof.Machine.execFsub d a b s
  | .fmul d a b => Sys2Proof.Machine.execFmul d a b s
  | .ffma d a b => Sys2Proof.Machine.execFfma d a b s
  | .fmin d a b => Sys2Proof.Machine.execFmin d a b s
  | .fmax d a b => Sys2Proof.Machine.execFmax d a b s
  | .fcmpEq p a b => Sys2Proof.Machine.execFcmpEq p a b s
  | .fcmpLt p a b => Sys2Proof.Machine.execFcmpLt p a b s
  | .fcmpLe p a b => Sys2Proof.Machine.execFcmpLe p a b s
  | .fcmpUn p a b => Sys2Proof.Machine.execFcmpUn p a b s
  | .hadd2F16 d a b => Sys2Proof.Machine.execHadd2F16 d a b s
  | .hmul2F16 d a b => Sys2Proof.Machine.execHmul2F16 d a b s
  | .hfma2F16 d a b => Sys2Proof.Machine.execHfma2F16 d a b s
  | .hadd2Bf16 d a b => Sys2Proof.Machine.execHadd2Bf16 d a b s
  | .hmul2Bf16 d a b => Sys2Proof.Machine.execHmul2Bf16 d a b s
  | .hfma2Bf16 d a b => Sys2Proof.Machine.execHfma2Bf16 d a b s
  | .dadd d a b => Sys2Proof.Machine.execDadd d a b s
  | .dmul d a b => Sys2Proof.Machine.execDmul d a b s
  | .dfma d a b => Sys2Proof.Machine.execDfma d a b s
  | .dcmpLt p a b => Sys2Proof.Machine.execDcmpLt p a b s
  | .dcmpEq p a b => Sys2Proof.Machine.execDcmpEq p a b s
  | .frcp d a => Sys2Proof.Machine.execFrcp d a s
  | .frsq d a => Sys2Proof.Machine.execFrsq d a s
  | .fsqrt d a => Sys2Proof.Machine.execFsqrt d a s
  | .fexp2 d a => Sys2Proof.Machine.execFexp2 d a s
  | .flog2 d a => Sys2Proof.Machine.execFlog2 d a s
  | .fsin d a => Sys2Proof.Machine.execFsin d a s
  | .fcos d a => Sys2Proof.Machine.execFcos d a s
  | .fdiv d a b => Sys2Proof.Machine.execFdiv d a b s
  | .ffract d a => Sys2Proof.Machine.execFfract d a s
  | .frndRn d a => Sys2Proof.Machine.execFrndRn d a s
  | .frndRz d a => Sys2Proof.Machine.execFrndRz d a s
  | .frndRd d a => Sys2Proof.Machine.execFrndRd d a s
  | .frndRu d a => Sys2Proof.Machine.execFrndRu d a s
  | .fdot2Bf16 d a b => Sys2Proof.Machine.execFdot2Bf16 d a b s
  | .idot4I8 d a b => Sys2Proof.Machine.execIdot4I8 d a b s
  | .fsat d a => Sys2Proof.Machine.execFsat d a s
  | .cvt d a t s1 => Sys2Proof.Machine.execCvt d a t s1 s
  | .cvtSat d a t s1 => Sys2Proof.Machine.execCvtSat d a t s1 s
  | .cvtSr d a t s1 => Sys2Proof.Machine.execCvtSr d a t s1 s
  | .pack d a t s1 => Sys2Proof.Machine.execPack d a t s1 s
  | .unpack d a t s1 => Sys2Proof.Machine.execUnpack d a t s1 s
  | .cblook c d a => Sys2Proof.Machine.execCblook c d a s
  | .cbset c q a => Sys2Proof.Machine.execCbset c q a s
  | .rkeyF32 d a => Sys2Proof.Machine.execRkeyF32 d a s
  | .rkeyBf16 d a => Sys2Proof.Machine.execRkeyBf16 d a s
  | .rdig desc d a b => Sys2Proof.Machine.execRdig desc d a b s
  | .argmax d a => Sys2Proof.Machine.execArgmax d a s
  | .rank d a => Sys2Proof.Machine.execRank d a s
  | .bra neg p o => Sys2Proof.Machine.execBra neg p o s
  | .bru o => Sys2Proof.Machine.execBru o s
  | .brx a => Sys2Proof.Machine.execBrx a s
  | .call o => Sys2Proof.Machine.execCall o s
  | .callx a => Sys2Proof.Machine.execCallx a s
  | .ret => Sys2Proof.Machine.execRet s
  | .exit => Sys2Proof.Machine.execExit s
  | .jset i1 a => Sys2Proof.Machine.execJset i1 a s
  | .arrive i1 => Sys2Proof.Machine.execArrive i1 s
  | .waitj i1 => Sys2Proof.Machine.execWaitj i1 s
  | .pand d a b => Sys2Proof.Machine.execPand d a b s
  | .por d a b => Sys2Proof.Machine.execPor d a b s
  | .pxor d a b => Sys2Proof.Machine.execPxor d a b s
  | .pnot d a => Sys2Proof.Machine.execPnot d a s
  | .pmov d a => Sys2Proof.Machine.execPmov d a s
  | .yield => Sys2Proof.Machine.execYield s
  | .sleep a => Sys2Proof.Machine.execSleep a s
  | .binit i1 a => Sys2Proof.Machine.execBinit i1 a s
  | .barrive i1 a => Sys2Proof.Machine.execBarrive i1 a s
  | .bwait i1 => Sys2Proof.Machine.execBwait i1 s
  | .bsync i1 a => Sys2Proof.Machine.execBsync i1 a s
  | .binval i1 => Sys2Proof.Machine.execBinval i1 s
  | .btest i1 a => Sys2Proof.Machine.execBtest i1 a s
  | .barrivePeer i1 a => Sys2Proof.Machine.execBarrivePeer i1 a s
  | .hitch d a => Sys2Proof.Machine.execHitch d a s
  | .unhitch => Sys2Proof.Machine.execUnhitch s
  | .hmap d a => Sys2Proof.Machine.execHmap d a s
  | .trap a => Sys2Proof.Machine.execTrap a s
  | .bkpt => Sys2Proof.Machine.execBkpt s
  | .tmark a => Sys2Proof.Machine.execTmark a s
  | .ldgN8 d a b => Sys2Proof.Machine.execLdgN8 d a b s
  | .ldgI8 d a b => Sys2Proof.Machine.execLdgI8 d a b s
  | .ldgN16 d a b => Sys2Proof.Machine.execLdgN16 d a b s
  | .ldgI16 d a b => Sys2Proof.Machine.execLdgI16 d a b s
  | .ldgB32 d a b => Sys2Proof.Machine.execLdgB32 d a b s
  | .ldgB64 d a b => Sys2Proof.Machine.execLdgB64 d a b s
  | .ldgB128 d a b => Sys2Proof.Machine.execLdgB128 d a b s
  | .stgB8 d a b => Sys2Proof.Machine.execStgB8 d a b s
  | .stgB16 d a b => Sys2Proof.Machine.execStgB16 d a b s
  | .stgB32 d a b => Sys2Proof.Machine.execStgB32 d a b s
  | .stgB64 d a b => Sys2Proof.Machine.execStgB64 d a b s
  | .stgB128 d a b => Sys2Proof.Machine.execStgB128 d a b s
  | .ldsN8 d a b => Sys2Proof.Machine.execLdsN8 d a b s
  | .ldsI8 d a b => Sys2Proof.Machine.execLdsI8 d a b s
  | .ldsN16 d a b => Sys2Proof.Machine.execLdsN16 d a b s
  | .ldsI16 d a b => Sys2Proof.Machine.execLdsI16 d a b s
  | .ldsB32 d a b => Sys2Proof.Machine.execLdsB32 d a b s
  | .ldsB64 d a b => Sys2Proof.Machine.execLdsB64 d a b s
  | .ldsB128 d a b => Sys2Proof.Machine.execLdsB128 d a b s
  | .stsB8 d a b => Sys2Proof.Machine.execStsB8 d a b s
  | .stsB16 d a b => Sys2Proof.Machine.execStsB16 d a b s
  | .stsB32 d a b => Sys2Proof.Machine.execStsB32 d a b s
  | .stsB64 d a b => Sys2Proof.Machine.execStsB64 d a b s
  | .stsB128 d a b => Sys2Proof.Machine.execStsB128 d a b s
  | .ldlB32 d a b => Sys2Proof.Machine.execLdlB32 d a b s
  | .ldlB64 d a b => Sys2Proof.Machine.execLdlB64 d a b s
  | .ldlB128 d a b => Sys2Proof.Machine.execLdlB128 d a b s
  | .stlB32 d a b => Sys2Proof.Machine.execStlB32 d a b s
  | .stlB64 d a b => Sys2Proof.Machine.execStlB64 d a b s
  | .stlB128 d a b => Sys2Proof.Machine.execStlB128 d a b s
  | .ldgcB32 d a b => Sys2Proof.Machine.execLdgcB32 d a b s
  | .ldgcB64 d a b => Sys2Proof.Machine.execLdgcB64 d a b s
  | .gatherB32 d a b => Sys2Proof.Machine.execGatherB32 d a b s
  | .gatherB64 d a b => Sys2Proof.Machine.execGatherB64 d a b s
  | .scatterB32 d a b => Sys2Proof.Machine.execScatterB32 d a b s
  | .scatterB64 d a b => Sys2Proof.Machine.execScatterB64 d a b s
  | .smap d a b => Sys2Proof.Machine.execSmap d a b s
  | .sunmap a => Sys2Proof.Machine.execSunmap a s
  | .sflush a => Sys2Proof.Machine.execSflush a s
  | .pref a b => Sys2Proof.Machine.execPref a b s
  | .fence scope p u => Sys2Proof.Machine.execFence scope p u s
  | .atomAddI32 d a b => Sys2Proof.Machine.execAtomAddI32 d a b s
  | .atomAddF32 d a b => Sys2Proof.Machine.execAtomAddF32 d a b s
  | .atomMinI32 d a b => Sys2Proof.Machine.execAtomMinI32 d a b s
  | .atomMinN32 d a b => Sys2Proof.Machine.execAtomMinN32 d a b s
  | .atomMaxI32 d a b => Sys2Proof.Machine.execAtomMaxI32 d a b s
  | .atomMaxN32 d a b => Sys2Proof.Machine.execAtomMaxN32 d a b s
  | .atomAnd d a b => Sys2Proof.Machine.execAtomAnd d a b s
  | .atomOr d a b => Sys2Proof.Machine.execAtomOr d a b s
  | .atomXor d a b => Sys2Proof.Machine.execAtomXor d a b s
  | .atomXchg d a b => Sys2Proof.Machine.execAtomXchg d a b s
  | .atomCas d a b => Sys2Proof.Machine.execAtomCas d a b s
  | .atomInc d a b => Sys2Proof.Machine.execAtomInc d a b s
  | .atomAddW d a b => Sys2Proof.Machine.execAtomAddW d a b s
  | .atomMinW d a b => Sys2Proof.Machine.execAtomMinW d a b s
  | .atomCasW d a b => Sys2Proof.Machine.execAtomCasW d a b s
  | .redAddI32 d a b => Sys2Proof.Machine.execRedAddI32 d a b s
  | .redAddF32 d a b => Sys2Proof.Machine.execRedAddF32 d a b s
  | .redMinW d a b => Sys2Proof.Machine.execRedMinW d a b s
  | .redMaxN32 d a b => Sys2Proof.Machine.execRedMaxN32 d a b s
  | .satomAdd d a b => Sys2Proof.Machine.execSatomAdd d a b s
  | .satomMinN32 d a b => Sys2Proof.Machine.execSatomMinN32 d a b s
  | .satomCas d a b => Sys2Proof.Machine.execSatomCas d a b s
  | .rhist d a b => Sys2Proof.Machine.execRhist d a b s
  | .stage d a b => Sys2Proof.Machine.execStage d a b s
  | .txbegin d => Sys2Proof.Machine.execTxbegin d s
  | .txend => Sys2Proof.Machine.execTxend s
  | .txabort a => Sys2Proof.Machine.execTxabort a s
  | .txstat d => Sys2Proof.Machine.execTxstat d s
  | .mnop => Sys2Proof.Machine.execMnop s
  | .mmovq d a => Sys2Proof.Machine.execMmovq d a s
  | .maddq d a b => Sys2Proof.Machine.execMaddq d a b s
  | .mloop c o => Sys2Proof.Machine.execMloop c o s
  | .mtc c a => Sys2Proof.Machine.execMtc c a s
  | .mload t a p => Sys2Proof.Machine.execMload t a p s
  | .mstore t a p => Sys2Proof.Machine.execMstore t a p s
  | .mzero n => Sys2Proof.Machine.execMzero n s
  | .mma n rx x ry y => Sys2Proof.Machine.execMma n rx x ry y s
  | .mmas n rx x ry y => Sys2Proof.Machine.execMmas n rx x ry y s
  | .mmanm n rx x ry y => Sys2Proof.Machine.execMmanm n rx x ry y s
  | .mdecomp d s1 b => Sys2Proof.Machine.execMdecomp d s1 b s
  | .mscale n a => Sys2Proof.Machine.execMscale n a s
  | .mfmt n => Sys2Proof.Machine.execMfmt n s
  | .mwait n => Sys2Proof.Machine.execMwait n s
  | .msignal n => Sys2Proof.Machine.execMsignal n s
  | .mawait d h => Sys2Proof.Machine.execMawait d h s
  | .mrelease h s1 => Sys2Proof.Machine.execMrelease h s1 s
  | .mstamp s1 v => Sys2Proof.Machine.execMstamp s1 v s
  | .mend => Sys2Proof.Machine.execMend s
  | .fork a b => Sys2Proof.Machine.execFork a b s
  | .rendez d => Sys2Proof.Machine.execRendez d s
  | .copy d a b => Sys2Proof.Machine.execCopy d a b s
  | .copyr d a => Sys2Proof.Machine.execCopyr d a s
  | .layout d a b => Sys2Proof.Machine.execLayout d a b s
  | .stream d a => Sys2Proof.Machine.execStream d a s
  | .rinit d a b => Sys2Proof.Machine.execRinit d a b s
  | .rawait d a => Sys2Proof.Machine.execRawait d a s
  | .rrelease a b => Sys2Proof.Machine.execRrelease a b s
  | .rstat d a => Sys2Proof.Machine.execRstat d a s
  | .jobcard d a => Sys2Proof.Machine.execJobcard d a s
  | .jwait a => Sys2Proof.Machine.execJwait a s
  | .fmtpost a b => Sys2Proof.Machine.execFmtpost a b s
  | .stampOpen a => Sys2Proof.Machine.execStampOpen a s
  | .stampEv k a => Sys2Proof.Machine.execStampEv k a s
  | .stampRetire a => Sys2Proof.Machine.execStampRetire a s
  | .pklq d a => Sys2Proof.Machine.execPklq d a s
  | .pklg d a => Sys2Proof.Machine.execPklg d a s
  | .seljob d a => Sys2Proof.Machine.execSeljob d a s
  | .qpop nb d a b => Sys2Proof.Machine.execQpop nb d a b s
  | .qpush a b => Sys2Proof.Machine.execQpush a b s
  | .qreserve d a b => Sys2Proof.Machine.execQreserve d a b s
  | .qcommit a b => Sys2Proof.Machine.execQcommit a b s
  | .qcancel a b => Sys2Proof.Machine.execQcancel a b s
  | .succ a => Sys2Proof.Machine.execSucc a s
  | .doneQ a => Sys2Proof.Machine.execDoneQ a s
  | .rinvoke t d a b => Sys2Proof.Machine.execRinvoke t d a b s
  | .deadline a b => Sys2Proof.Machine.execDeadline a b s
  | .drainchk d => Sys2Proof.Machine.execDrainchk d s
  | .qstat i1 d a => Sys2Proof.Machine.execQstat i1 d a s
  | .vbld d a b => Sys2Proof.Machine.execVbld d a b s
  | .vbdec d a => Sys2Proof.Machine.execVbdec d a s
  | .tileacq d a b => Sys2Proof.Machine.execTileacq d a b s
  | .tilerel a => Sys2Proof.Machine.execTilerel a s
  | .binpop d a => Sys2Proof.Machine.execBinpop d a s
  | .attr d a b => Sys2Proof.Machine.execAttr d a b s
  | .attrd d a b => Sys2Proof.Machine.execAttrd d a b s
  | .bary d a => Sys2Proof.Machine.execBary d a s
  | .quadsyn d a => Sys2Proof.Machine.execQuadsyn d a s
  | .mdecl d a b => Sys2Proof.Machine.execMdecl d a b s
  | .moutv d a => Sys2Proof.Machine.execMoutv d a s
  | .moutp d a => Sys2Proof.Machine.execMoutp d a s
  | .tex d a b => Sys2Proof.Machine.execTex d a b s
  | .texlod d a b => Sys2Proof.Machine.execTexlod d a b s
  | .texfetch d a b => Sys2Proof.Machine.execTexfetch d a b s
  | .imgst d a b => Sys2Proof.Machine.execImgst d a b s
  | .trace d a b => Sys2Proof.Machine.execTrace d a b s
  | .trcont d a b => Sys2Proof.Machine.execTrcont d a b s
  | .trstat d b => Sys2Proof.Machine.execTrstat d b s
  | .trxform d a b => Sys2Proof.Machine.execTrxform d a b s
  | .binhit d a b => Sys2Proof.Machine.execBinhit d a b s
  | .srd d s1 => Sys2Proof.Machine.execSrd d s1 s
  | .swr s1 a => Sys2Proof.Machine.execSwr s1 a s
  | .tret => Sys2Proof.Machine.execTret s
  | .tick d => Sys2Proof.Machine.execTick d s
  | .tickC d => Sys2Proof.Machine.execTickC d s
  | .tlbinv a b => Sys2Proof.Machine.execTlbinv a b s
  | .asidset a b => Sys2Proof.Machine.execAsidset a b s
  | .csave d a b => Sys2Proof.Machine.execCsave d a b s
  | .crestore d a => Sys2Proof.Machine.execCrestore d a s
  | .eventWake a => Sys2Proof.Machine.execEventWake a s
  | .eventPost a => Sys2Proof.Machine.execEventPost a s
  | .dbgstop a => Sys2Proof.Machine.execDbgstop a s
  | .halt => Sys2Proof.Machine.execHalt s
  | .thermalOrPowerLimit ov => Sys2Proof.Machine.execThermalOrPowerLimit ov s
  | .eccCorrectable r => Sys2Proof.Machine.execEccCorrectable r s

end Sys2Proof.Machine
end

