-- ==== Sys2Proof/Machine/Words.lean ====
section
/-! DEFINITION. The next word of an agent: decoded in its clause's class and executed, or trapped (02 R43). -/
namespace Sys2Proof.Machine
open Sys2Proof
noncomputable section

/-- Team `t` may issue the next word of its clause: it runs, it is not halted, it waits for nothing but its next try, and it
ranks first in its issue slot (01 R15). -/
def State.wordReady (s : State) (b t : Nat) : Bool :=
  let m := s.team b t
  (s.block b).runs t && !m.done && !m.halted && !s.heldUp b t && s.ranksFirst b t && (match m.stall with
    | none => true
    | some .retry => true
    | some _ => false)

/-- A word that fails its decode: lanes inside a transaction abort instead (09 R234); with none left active the clause ends,
else the trap is taken by those left at the next try. -/
def State.wordTrap (s : State) (b t : Nat) (cl : Clause) (c : TrapCode) : State :=
  let hit := cl.act &&& (s.team b t).openTx
  if hit = 0 then s.takeTrap b t cl { code := c, pc := cl.pc, addr := 0, resume := cl.pc }
  else
    let s := s.modTeam b t (·.abortLanes hit 4 c.num)
    match (s.team b t).clause with
    | some cl => if cl.act = 0 then s.endClause b t { cl with pc := cl.pc + 4 * cl.words.length, words := [] } else s
    | none => s

/-- The next word of team `t` of block `b`. A clause that `TRET` resumed is not checked as a whole again, so a word
may still fail here. -/
def stepTeamWord (b t : Nat) (s : State) : Result :=
  match (s.team b t).clause with
  | none => .fault .notEnabled
  | some cl =>
    match cl.words with
    | [] => .fault .notEnabled
    | w :: r =>
      if !s.wordReady b t then .fault .notEnabled
      else if let d :: _ := (s.team b t).delayed then .next (s.deliver b t cl d)
      else match decodeWord cl.cls w (r.headD 0) with
      | .illegal _ => .next (s.wordTrap b t cl .illegal)
      | .instr i =>
        match checkWord cl.cls cl.setA (s.block b).regs w r with
        | some c => .next (s.wordTrap b t cl c)
        | none => exec i { s with focus := some (.team b t) }

/-- The sequencer may issue the next word of its clause; one whose units have begun to perform ends, whatever stops the block (R306,
16 R415). -/
def State.seqWordReady (s : State) (b : Nat) : Bool :=
  let x := s.block b
  x.mtx.clause.isSome && bit x.mtx.qstat.toNat 31 && !x.mtx.held && x.saved.isNone &&
    (x.mtx.midway || (x.killed.isNone && x.saving.isNone)) &&
    (match x.mtx.stall with
    | none => true
    | some .retry => true
    | some _ => false)

/-- The next word of the sequencer of block `b`. -/
def stepSeqWord (b : Nat) (s : State) : Result :=
  match (s.block b).mtx.clause with
  | none => .fault .notEnabled
  | some cl =>
    match cl.words with
    | [] => .fault .notEnabled
    | w :: r =>
      if !s.seqWordReady b then .fault .notEnabled
      else match decodeWord 3 w (r.headD 0) with
      | .illegal _ => .next (s.seqTrap b .illegal cl.pc 0)
      | .instr i => exec i { s with focus := some (.seq b) }

/-- The next word of an agent. -/
def stepWord (g : Agent) (s : State) : Result :=
  match g with
  | .team b t => stepTeamWord b t s
  | .seq b => stepSeqWord b s

end
end Sys2Proof.Machine
end

