-- ==== Sys2Proof/Machine/Sched.lean ====
section
/-! DEFINITION. The model's own scheduler (log 1): where no agenda says what comes next, a tick passes and one act that
can happen does. Every act is reached in turn, since where the search starts moves on with the tick. -/
namespace Sys2Proof.Machine
open Sys2Proof
noncomputable section

/-- One act: a step of the device, or the next word of an agent. -/
def runAct (a : Act) (s : State) : Result :=
  match a with
  | .dev i => exec i s
  | .word g => stepWord g s

/-- The acts of one tracked instruction. -/
def opActs (b t : Nat) (o : Op) : List Act :=
  [.dev (.translationComplete b t o.id), .dev (.homeStore b t o.id), .dev (.provisionalCommit b t o.id), .dev (.homeAtomic b t o.id),
   .dev (.longLatencyComplete (.team b t) o.id), .dev (.qreserveTimeout b t o.id), .dev (.rinvokeRetry b t o.id)]

/-- The acts of a team. -/
def teamActs (b t : Nat) (m : Team) : List Act :=
  (if m.clause.isSome then [.word (.team b t)] else [.dev (.clauseIssue (.team b t))]) ++
    [.dev (.delayedTrapDelivery b t), .dev (.sleepExpire b t)] ++
    (lanesOf m.openTx).map (fun l => .dev (.txTimeout b t l)) ++ m.ops.flatMap (opActs b t)

/-- The acts of a block. -/
def blockActs (b : Nat) (x : Block) : List Act :=
  (x.teams.zipIdx.flatMap fun (m, t) => teamActs b t m) ++
    (if x.mtx.clause.isSome then [.word (.seq b)] else [.dev (.clauseIssue (.seq b))]) ++
    x.mtx.ops.map (fun o => .dev (.longLatencyComplete (.seq b) o.id)) ++
    [.dev (.barrierOpApply b), .dev (.blockRetire b), .dev (.blockSave b)] ++
    x.barriers.map (fun e => .dev (.barrierCompletion b e.1))

/-- The lines that a block's accesses want of its core's request collector. -/
def Block.linesWanted (x : Block) : List Nat :=
  x.teams.flatMap fun m => m.ops.flatMap fun o => o.els.filterMap fun e => match e.place with
    | some (.dev pa) => if e.done then none else some (pa / 128)
    | _ => none

def coreActs (c : Nat) (k : Core) : List Act :=
  k.collector.flatMap fun e => [.dev (.collectorSend c e.line), .dev (.homeLoad c e.line), .dev (.collectorLineReturn c e.line)]

def jobActs (j : Nat) : List Act :=
  [.dev (.jobComplete j), .dev (.streamJobStart j), .dev (.streamTile j), .dev (.traversalBatchComplete j)]

/-- The number of a candidate as `CANDIDATE_PINNED` names it. -/
def Cand.number : Cand → Option Nat
  | .head q => some q
  | .launch l => some (4096 + l)
  | .saved _ => none

def State.suiteActs (s : State) (u : Nat) : List Act :=
  ((s.roomsOf u).take 1).map (fun r => .dev (.ostlerPick u r)) ++
    ((s.cands u).filterMap (·.cand.number)).flatMap (fun c => [.dev (.candidatePinned u c), .dev (.candidateOverdue u c)]) ++
    (s.suite u).queues.map (fun e => .dev (.drainFirstHoldEnd u e.1)) ++
    [.dev (.faultEntryPost u), .dev (.waybillReadyCopy u), .dev (.forcedSave u)]

def State.roomActs (s : State) (r : Nat) : List Act :=
  [.dev (.binBatch r), .dev (.nearMemoryJobStart r false), .dev (.nearMemoryJobStart r true)] ++
    (s.views.filter (·.room == r)).flatMap fun v => v.tiles.flatMap fun e =>
      [.dev (.tileResolveStart r v.id e.1), .dev (.tileResolved r v.id e.1), .dev (.classifyTile r v.id e.1),
       .dev (.vboutWriteDone r v.id e.1)]

/-- Every act that the device might do by itself now. -/
def State.acts (s : State) : List Act :=
  s.blocks.flatMap (fun (b, x) => blockActs b x) ++
    s.blocks.flatMap (fun (_, x) => x.linesWanted.map fun l => .dev (.collectorSend x.core l)) ++
    s.cores.flatMap (fun (c, k) => coreActs c k) ++ s.jobs.flatMap (fun e => jobActs e.1) ++
    (List.range Config.rooms).flatMap s.suiteActs ++ (List.range Config.rooms).flatMap s.roomActs ++
    [.dev .suiteMapRequest, .dev .attestationRequest, .dev .rootMailboxReply]

/-- The list from its `n`th element on, and the rest behind it. -/
def turned {α : Type} (n : Nat) (l : List α) : List α := l.drop (n % (l.length + 1)) ++ l.take (n % (l.length + 1))

/-- The rooms of a suite pick in the same post clock, in ascending order (13 R340). -/
def State.picks (s : State) (u : Nat) : Option State :=
  let (s, some_) := (s.roomsOf u).foldl (fun (acc : State × Bool) r =>
    match exec (.ostlerPick u r) acc.1 with
    | .next s => (s, true)
    | _ => acc) (s, false)
  if some_ then some s else none

/-- The act happens, if it can; a pick of one room of a suite is a pick of each. -/
def attempt (s : State) (a : Act) : Option State :=
  match a with
  | .dev (.ostlerPick u _) => s.picks u
  | _ => match runAct a s with
    | .next s => some s
    | _ => none

/-- The agent whose clause has begun goes on, if it may. -/
def State.ready (s : State) (g : Agent) : Bool :=
  match g with
  | .team b t => (s.team b t).clause.isSome && s.wordReady b t && (s.team b t).stall.isNone
  | .seq b => s.seqWordReady b && (s.block b).mtx.stall.isNone

/-- The acts of the heads that are due: the plane records are read, and the frame scanned out, at their ticks (17 R442). -/
def State.timed (s : State) : List Act :=
  s.heads.flatMap fun e => [.dev (.planeRead e.1), .dev (.scanOut e.1)]

/-- A tick passes; while the boot goes on its next step happens (17 R448), else the first act that can happen does. -/
def autoStep (s : State) : Result :=
  let s := s.elapse 1
  if !s.clockOff && (s.bootStep).isSome then .next (s.bootStep.getD s) else
  if s.clockOff || (s.throttled && s.tick % 2 == 1) then .next s
  else match firstOf (attempt s) (s.timed ++ turned s.tick s.acts) with
    | some s => .next s
    | none => .next s

end
end Sys2Proof.Machine
end

