-- ==== Sys2Proof/Machine/Step.lean ====
section
/-! DEFINITION. One step: the head of the agenda, else the next word of the agent in focus, else what the model's
scheduler takes. Nothing but a release happens while the clocks are stopped (16 R424), and nothing but a reset once the root
firmware has stopped the device (17 R450). -/
namespace Sys2Proof.Machine
open Sys2Proof
noncomputable section

/-- An act that a device with stopped clocks, or one that the firmware stopped, still does. -/
def Act.wakes (a : Act) (thermal : Bool) : Bool :=
  match a with
  | .dev .functionLevelReset => thermal
  | .dev .hotReset => thermal
  | .dev .coldReset => true
  | .dev (.clockRelease _) => !thermal
  | _ => false

/-- An act of the agenda. -/
def stepAct (a : Act) (s : State) : Result :=
  if s.thermal && !a.wakes true then .fault .deviceStopped
  else if s.clockOff && !a.wakes false then .fault .clockStopped
  else runAct a s

def step (s : State) : Host.Outcome State Fault Refusal :=
  match s.agenda with
  | d :: r =>
    let s := { s with agenda := r }
    stepAct d.act (if s.clockOff || s.thermal then s else s.elapse d.wait)
  | [] =>
    if s.thermal then .fault .deviceStopped
    else if s.clockOff then .fault .clockStopped
    else match s.focus with
      | some g => if s.ready g then stepWord g s else autoStep s
      | none => autoStep s

/-- A resident block of one team, in the clause whose next words are the instruction's: a clause of the team, or of the
matrix stream for the class that only it runs. -/
def State.withFetchWord (s : State) (nbits w : Nat) : State :=
  let word := BitVec.ofNat 32 w
  let cls := match decodeTableClass word with
    | some (c, _) => c
    | none => 0
  let _ := nbits
  let cl : Clause := { addr := 4096, body := 4100, cls := cls, setA := 0, setB := 1, mask := 0xFFFF, prio := 0,
                       act := 0xFFFF, pc := 4100, words := if bit w 31 then [word, 0] else [word] }
  let entry : Entry := ⟨4096, 0, 0xFFFF, none⟩
  if cls = 3 then
    let x : Block := { regs := 96, teams := [{ frontier := [entry] }], usesMtx := true
                       mtx := { qstat := 0x80000000, pc := 4096, clause := some cl } }
    { s.setBlock 0 x with focus := some (.seq 0), agenda := [] }
  else
    let x : Block := { regs := 96, teams := [{ frontier := [entry], clause := some cl }] }
    { s.setBlock 0 x with focus := some (.team 0 0), agenda := [] }

end
end Sys2Proof.Machine
end

