-- ==== Sys2Proof/Safety.lean ====
section
/-! DEFINITION. What a safe run is, and the words the statements about the machine are written in: a team that executes a
word, the state it is in while the word takes effect, and what the word's end changes beside that effect. -/
namespace Sys2Proof
open Sys2Proof.Machine

/-- `n` steps from `s` end in a state: no fault, no refusal. -/
def SafeFor (n : Nat) (s : State) : Prop := ∃ t, core.run n s = .next t

namespace Claim

/-- No register that an instruction of this shape names carries a tag (02 R58, R59). -/
def Untagged (m : Team) (x : Shape) : Prop := ∀ r ∈ x.reqs, ∀ k ∈ Req.bytes r, m.tag k = none

/-- Team `t` of block `b` executes the next word of clause `cl` for at least one lane, and no active lane is inside a
transaction. -/
structure Executes (s : State) (b t : Nat) (cl : Clause) : Prop where
  focus : s.focus = some (.team b t)
  clause : (s.team b t).clause = some cl
  lanes : cl.act ≠ 0
  plain : cl.act &&& (s.team b t).openTx = 0

/-- The state while the team's word takes effect: the team waits for nothing and has issued now. -/
def begun (s : State) (b t : Nat) : State := s.modTeam b t (·.begin s.tick)

/-- The state with the effect `f` of a word on its team. -/
def onTeam (s : State) (b t : Nat) (f : Team → Team) : State := (begun s b t).modTeam b t f

/-- The team as it stands at the next word of its clause. -/
def nextWord (cl : Clause) (m : Team) : Team :=
  { m with prev := some ⟨cl, m.frontier, m.joins, m.rejoinlost⟩, count := m.count + 1, clause := some cl.advance }

/-- A team without its place in the program: what the end of a clause leaves alone. -/
def held (m : Team) : Team :=
  { m with frontier := [], joins := [], rejoinlost := 0, clause := none, prev := none, count := 0 }

/-- A core without its translation cache. -/
def uncached (k : Core) : Core := { k with tlb := [] }

/-- `u` is `v`, the state after a word's effect, once its team `t` of block `b` has gone on. With words left in the clause
only the team's place in it changes. At the clause's end, while some lane of the clause lives and no halt is pending, only the
team's place in the program does, what translation caches hold, and the focus, which leaves the team. -/
structure Advanced (v u : State) (b t : Nat) (cl : Clause) : Prop where
  goesOn : cl.advance.words ≠ [] → u = v.modTeam b t (nextWord cl)
  ends : cl.advance.words = [] → (v.team b t).haltPending = false → (v.team b t).done = false →
    cl.mask &&& ~~~(v.team b t).retired ≠ 0 → ∃ m cores tlb, held m = held (v.team b t) ∧ (∀ c, uncached (Tab.get {} cores c) = uncached (v.core c)) ∧
      u = { v.modTeam b t (fun _ => m) with
        cores := cores, postTlb := tlb, focus := if v.focus = some (.team b t) then none else v.focus }

/-- Instruction `i` executes in `s`: it has the effect that makes `v` of `s`, and team `t` of block `b` goes on. -/
def Does (i : Instr) (s v : State) (b t : Nat) : Prop :=
  ∃ u cl, exec i s = .next u ∧ (v.team b t).clause = some cl ∧ Advanced v u b t cl

/-- Instruction `i`, executed by a team none of whose registers that it names is tagged, has the effect `f` on the team;
`f` is told the clause and the team as it was. -/
def OnTeam (i : Instr) (f : Clause → Team → Team → Team) : Prop :=
  ∀ s b t cl, Executes s b t cl → Untagged (s.team b t) i.shape → Does i s (onTeam s b t (f cl (s.team b t))) b t

/-- The same where `P` holds of the state, the block, the team and the clause. -/
def OnTeamWhen (i : Instr) (P : State → Nat → Nat → Clause → Prop) (f : Clause → Team → Team → Team) : Prop :=
  ∀ s b t cl, Executes s b t cl → Untagged (s.team b t) i.shape → P s b t cl →
    Does i s (onTeam s b t (f cl (s.team b t))) b t

/-- The low and the high word of a pair. -/
def low (x : DWord) : Word := x.setWidth 32
def high (x : DWord) : Word := (x >>> 32).setWidth 32

/-- The registers of an instruction's destination written for the active lanes, or once. -/
def writes (d : Opnd) (g : Clause → Team → Nat → Word) : Clause → Team → Team → Team :=
  fun cl m n => n.wr d cl.act (g cl m)

/-- A pair written, the low word first. -/
def writesPair (d : Opnd) (g : Clause → Team → Nat → DWord) : Clause → Team → Team → Team :=
  fun cl m n => (n.wr d cl.act fun l => low (g cl m l)).wr d cl.act (fun l => high (g cl m l)) 1

/-- The active lanes' bits of a predicate written. -/
def writesPred (p : Nat) (g : Clause → Team → Nat → Bool) : Clause → Team → Team → Team :=
  fun cl m n => n.setP p ((n.p p &&& ~~~cl.act) ||| (maskOf (g cl m) &&& cl.act))

/-! ## Operands that name registers or literals -/

/-- The operand names a register (02 R51). -/
def reg : Opnd → Prop
  | .v _ => True
  | .s _ => True
  | _ => False

/-- The source is a register or a literal. -/
def regLit : Src → Prop
  | .reg o => reg o
  | .lit _ => True

/-- Lane `l`'s 32-bit value of a source. -/
def val (m : Team) : Src → Nat → Word
  | .reg o, l => m.rd o l
  | .lit w, _ => w

/-- The instructions of two 32-bit sources, each with its result (04 R111, R113, R114, R118). -/
def twoSources : List ((Opnd → Opnd → Src → Instr) × (Word → Word → Word)) := [
    (.iadd, fun x y => BitVec.ofNat 32 (x.toNat + y.toNat)),
    (.iaddsI32, fun x y => BitVec.ofInt 32 (max (-2147483648) (min 2147483647 (x.toInt + y.toInt)))),
    (.iaddsN32, fun x y => BitVec.ofNat 32 (min 4294967295 (x.toNat + y.toNat))),
    (.isub, fun x y => BitVec.ofInt 32 ((x.toNat : Int) - y.toNat)),
    (.isubsI32, fun x y => BitVec.ofInt 32 (max (-2147483648) (min 2147483647 (x.toInt - y.toInt)))),
    (.isubsN32, fun x y => if x.toNat < y.toNat then 0 else BitVec.ofNat 32 (x.toNat - y.toNat)),
    (.imul, fun x y => BitVec.ofNat 32 (x.toNat * y.toNat)),
    (.imulhI32, fun x y => BitVec.ofInt 32 (x.toInt * y.toInt / 4294967296)),
    (.imulhN32, fun x y => BitVec.ofNat 32 (x.toNat * y.toNat / 4294967296)),
    (.iminI32, fun x y => if x.toInt ≤ y.toInt then x else y),
    (.iminN32, fun x y => if x.toNat ≤ y.toNat then x else y),
    (.imaxI32, fun x y => if x.toInt ≤ y.toInt then y else x),
    (.imaxN32, fun x y => if x.toNat ≤ y.toNat then y else x),
    (.and, fun x y => x &&& y),
    (.or, fun x y => x ||| y),
    (.xor, fun x y => x ^^^ y),
    (.andn, fun x y => x &&& ~~~y),
    (.shl, fun x y => BitVec.ofNat 32 (x.toNat * 2 ^ (y.toNat % 256))),
    (.shrn, fun x y => BitVec.ofNat 32 (x.toNat / 2 ^ (y.toNat % 256))),
    (.shra, fun x y => BitVec.ofInt 32 (x.toInt / 2 ^ min (y.toNat % 256) 31)),
    (.rotl, fun x y => x.rotateLeft (y.toNat % 256)),
    (.bfxN32, fun x y => BitVec.ofNat 32 (x.toNat / 2 ^ min (y.toNat % 256) 32 % 2 ^ min (y.toNat / 256 % 256) 32)),
    (.bfxI32, fun x y =>
      let k := min (y.toNat / 256 % 256) 32
      let f := (x.signExtend 64).toNat / 2 ^ min (y.toNat % 256) 32 % 2 ^ k
      BitVec.ofInt 32 (if k = 0 then 0 else if f < 2 ^ (k - 1) then f else f - 2 ^ k)),
    (.morton, fun x y => ofBits 32 fun i => if i % 2 = 0 then x.getLsbD (i / 2) else y.getLsbD (i / 2))]

/-- Lane `l`'s 64-bit integer of a source; a literal is sign-extended (02 R55). -/
def valW (m : Team) : Src → Nat → DWord
  | .reg o, l => m.rd o l 1 ++ m.rd o l 0
  | .lit w, _ => w.signExtend 64

/-- Lane `l`'s binary64 pattern of a source; a literal is its upper word (02 R55). -/
def valD (m : Team) : Src → Nat → DWord
  | .reg o, l => m.rd o l 1 ++ m.rd o l 0
  | .lit w, _ => w ++ (0 : Word)

/-- The pair an operand names. -/
def pair (m : Team) (o : Opnd) (l : Nat) : DWord := m.rd o l 1 ++ m.rd o l 0

/-! ## Floating-point operands and results (06) -/

/-- A pattern read as a value of a format, after the flushing that `FMODE` asks for (06 R155). -/
def fval (m : Team) (f : FFmt) (x : Nat) : Val := f.val (f.ftz (fFtz m.fmode) (x % 2 ^ f.width))

/-- The draw of a lane: its key (16 for a uniform form) and the number of its draws so far (04 R127). -/
def drawn (m : Team) (key j : Nat) : Nat := (rngmix (BitVec.ofNat 32 (0xFFFF0000 + j)) m.rng key).toNat / 65536

/-- An exact value rounded to a format under `FMODE`, a lane's draw number `j`: the pattern and the draws made so far
(02 R71, 06 R155). -/
def frounded (m : Team) (f : FFmt) (v : Val) (key j : Nat) : Nat × Nat :=
  ((f.ftz (fFtz m.fmode) (f.rnd v (fRnd m.fmode) false (drawn m key j)).bits),
    j + b2n (f.rnd v (fRnd m.fmode) false (drawn m key j)).drew)

/-- The lanes a destination's results are computed for, each with its key. -/
def computed (cl : Clause) (d : Opnd) : List Nat := if isS d then [0] else lanesOf cl.act
def keyOf (d : Opnd) (l : Nat) : Nat := if isS d then 16 else l

/-- The counter of random draws goes on by one when any lane drew (04 R127). -/
def counts (draws : Bool) (n : Team) : Team := if draws then { n with rng := n.rng + 1 } else n

/-- 32-bit results with the draws they made. -/
def writesDrawn (d : Opnd) (g : Team → Nat → Nat × Nat) : Clause → Team → Team → Team :=
  fun cl m n => counts ((computed cl d).any fun l => (g m l).2 != 0) (n.wr d cl.act fun l => BitVec.ofNat 32 (g m l).1)
/-- 64-bit results with the draws they made. -/
def writesDrawnPair (d : Opnd) (g : Team → Nat → Nat × Nat) : Clause → Team → Team → Team :=
  fun cl m n => counts ((computed cl d).any fun l => (g m l).2 != 0)
    ((n.wr d cl.act fun l => BitVec.ofNat 32 (g m l).1).wr d cl.act (fun l => BitVec.ofNat 32 ((g m l).1 / 2 ^ 32)) 1)

/-- A half of a 32-bit register as a value of a 16-bit format. -/
def half (m : Team) (f : FFmt) (x : Word) (h : Nat) : Val := fval m f (x.toNat / 65536 ^ h % 65536)

/-! ## Conversions (05) -/

/-- The codebook that a team's `FMODE` selects. -/
def bookOf (s : State) (b t : Nat) : List Nat := (s.block b).book (fCb (s.team b t).fmode)

/-- One element converted under `FMODE` (05 R142): from format `f` to `g`, a lane's draw number `j`. -/
def converted (m : Team) (book : List Nat) (x f g mode : Nat) (sat : Bool) (key j : Nat) : Conv :=
  conv x f g mode sat (fFtz m.fmode) book (drawn m key j)

/-- `INVQ` is set when any lane read the reserved code, and the draws are counted. -/
def notes (invq draws : Bool) (n : Team) : Team := counts draws (if invq then { n with fmode := n.fmode ||| 128 } else n)

/-- The elements of `PACK` in ascending order: the word so far, whether the reserved code was read, the draws so far
(05 R148). -/
def packedWord (m : Team) (book : List Nat) (a : Opnd) (elem from_ key l : Nat) : Word × Bool × Nat :=
  (List.range (packCount elem)).foldl (fun r i =>
    let c := converted m book (m.rd a l i).toNat from_ elem (fRnd m.fmode) true key r.2.2
    (r.1 + BitVec.ofNat 32 (c.bits % 2 ^ fmtWidth elem * 2 ^ (i * fmtWidth elem)), r.2.1 || c.invq, r.2.2 + b2n c.drew)) (0, false, 0)

/-- The elements of a word as `UNPACK` converts them, and the draws made (05 R148). -/
def unpacked (m : Team) (book : List Nat) (x : Word) (elem reg key : Nat) : List Conv × Nat :=
  (List.range (packCount elem)).foldl (fun r i =>
    let c := converted m book (x.toNat / 2 ^ (i * fmtWidth elem) % 2 ^ fmtWidth elem) elem reg (fRnd m.fmode) false key r.2
    (r.1 ++ [c], r.2 + b2n c.drew)) ([], 0)

/-! ## Tracked instructions (02 R40, R58) -/

/-- The flag that tracks an instruction of a clause: the field of `setA` or `setB`, 15 for none. -/
def flagOf (setB : Bool) (cl : Clause) : Option Nat :=
  let f := if setB then cl.setB else cl.setA
  if f < 12 then some f else none

/-- The instruction joins the outstanding ones of its team, and the registers it will write are tagged with its flag.
`o` is told the clause and the team. -/
def starts (setB : Bool) (o : Clause → Team → Op) : Clause → Team → Team → Team :=
  fun cl m n =>
    let o := { o cl m with id := n.nextOp, pc := cl.pc, word := cl.words.headD 0, lit := cl.words.getD 1 0, act := cl.act,
                           flag := flagOf setB cl, seq := m.count + 1, issued := n.lastIssue }
    { n with ops := n.ops ++ [o], nextOp := n.nextOp + 1,
             tags := match o.flag with
               | some f => o.dests.foldl (fun t k => Tab.put t k (.flag f)) n.tags
               | none => n.tags }

/-- The register writes owed to `n` registers of a destination. -/
def owed (cl : Clause) (d : Opnd) (n : Nat) (f : Nat → Nat → Word) : List (Nat × Word) :=
  (groupBytes d n).zipIdx.flatMap fun (byte, i) =>
    if byte < 96 then (lanesOf cl.act).map fun l => (byte * 16 + l, f l i) else [(byte * 16, f 0 i)]

/-- A tracked instruction that has its results when it issues. -/
def startsValue (d : Opnd) (n : Nat) (g : Team → Nat → Nat → Word) : Clause → Team → Team → Team :=
  starts false fun cl m => { kind := .value, writes := owed cl d n (g m), dests := groupBytes d n }

/-! ## Control (03) -/

/-- Lanes that move at the clause's end (03 R74). -/
def moving (ms : List Move) (n : Team) : Team :=
  { n with clause := n.clause.map fun cl => { cl with moves := cl.moves ++ ms } }

/-- The clause at `va` of block `b`'s program is marked, with priority `q`; reading it leaves the machine in `w`. -/
def MarkedAt (s : State) (b va q : Nat) (w : State) : Prop :=
  s.marked (s.block b).core (s.block b).asid va = (.ok (some q), w)

/-- Lane `l`'s access translates without a walk. -/
def Reaches (s : State) (b t l va : Nat) (a : Access) : Prop := ∃ pg, s.translateLane b t l va a = (.ok pg, s)

/-- The state with the effect `f` of a word on its team's block. -/
def onBlock (s : State) (b t : Nat) (f : Block → Block) : State := (begun s b t).modBlock b f

/-- The trap registers written (16 R412, R413). -/
def noted (code pc addr resume : Nat) (n : Team) : Team :=
  { n with trapcode := BitVec.ofNat 32 code, trappc := BitVec.ofNat 64 pc, trapaddr := BitVec.ofNat 64 addr,
           trapresume := BitVec.ofNat 64 resume }

/-- Trap entry: the frontier is kept and frozen, the handler's lanes stand at the vector with its priority (16 R413). -/
def enters (vec q : Nat) (cl : Clause) (lanes : Half) (n : Team) : Team :=
  { n with kept := some ⟨n.frontier, cl, cl.pc + 4 * cl.words.length⟩, frontier := [⟨vec, q, lanes, none⟩], clause := none,
           stall := none, recorded := n.context, context := .trap, count := n.count + 1, prev := none, vecUnread := false }

/-- Instruction `i` traps: where the vector is a marked clause, a team outside trap context enters its handler. -/
def Traps (i : Instr) (s : State) (b t : Nat) (cl : Clause) (code addr resume : Nat) : Prop :=
  (s.team b t).context ≠ .trap → ∀ q w, MarkedAt (onTeam s b t (noted code cl.pc addr resume)) b (s.block b).trapvec q w →
    exec i s = .next { w.modTeam b t (enters (s.block b).trapvec q cl cl.act) with focus := none }

/-- Instruction `i` cannot issue now: the team keeps its place and tries again, and has waited since its last issue. -/
def Waits (i : Instr) (s : State) (b t : Nat) : Prop := exec i s = .next (onTeam s b t fun n =>
  { n with stall := some .retry, lastIssue := (s.team b t).lastIssue })

/-! ## Memory accesses (07, 09) -/

/-- The byte offset of an access (07 R176): an s- or v-register, or the literal, sign-extended. -/
def offsetOf (m : Team) : MOff → Nat → Int
  | .reg o, l => (m.rd o l).toInt
  | .lit w _, _ => w.toInt

/-- The address a lane accesses: the pair plus the offset, modulo 2^64 (07 R176). -/
def address (m : Team) (a : Opnd) (o : MOff) (l : Nat) : Nat :=
  (((pair m a l).toNat + offsetOf m o l) % 18446744073709551616).toNat

/-- The lanes an access is made for: each active lane, or the lowest for all (07 R177). -/
def accessing (uni : Bool) (cl : Clause) : List Nat := if uni then (lanesOf cl.act).take 1 else lanesOf cl.act

/-- `n` bytes from the registers of `d` on, the first register lowest (07 R180). -/
def dataOf (m : Team) (d : Opnd) (n l : Nat) : Nat :=
  ((List.range ((n + 3) / 4)).map fun i => (m.rd d l i).toNat * 2 ^ (32 * i)).sum % 2 ^ (8 * n)

/-- No watchpoint of the block is enabled (16 R418). -/
def Unwatched (x : Block) : Prop := x.watchctl &&& 0xF = 0

/-- The core's request collector can take the lines of a load (07 R188): an entry is free, or each line has one. -/
def Collects (s : State) (b t : Nat) (as : List (Nat × Nat)) : Prop :=
  let es := (s.core (s.block b).core).collector
  es.length < 64 ∨ ∀ x ∈ as, ∀ l, (begun s b t).lineOf b t x = some l → ∃ e ∈ es, e.line = l

/-- Every address of an access is in range and aligned (07 R178). -/
def InRange (n : Nat) (as : List Nat) : Prop := ∀ a ∈ as, a + n ≤ 2 ^ 56 ∧ a % n = 0

/-- Some active lane may be inside a transaction. -/
structure Runs (s : State) (b t : Nat) (cl : Clause) : Prop where
  focus : s.focus = some (.team b t)
  clause : (s.team b t).clause = some cl
  lanes : cl.act ≠ 0

/-! ## Engine jobs (10) -/

/-- A record of `n` bytes at a stash offset can be read at issue: inside the declared stash, aligned, after the team's
earlier accesses (10 R243). Reading it leaves the machine in `w`. -/
def RecordAt (s : State) (b t off n align : Nat) (r : List Byte) (w : State) : Prop :=
  off + n ≤ (s.block b).stashSize ∧ off % align = 0 ∧ (s.team b t).calm = true ∧ s.stashGet b off n = .ok (r, w)

/-- A job as its word issues it (10 R245, R246): whose it is, what it does, its token, its snapshot. -/
def issuedJob (s : State) (b t : Nat) (cl : Clause) (d : Option Opnd) (kind : JobKind) (bar : Option Nat) (foot : List Foot)
    (raw : List Byte) : Job :=
  { owner := some b, suite := (s.block b).suite, core := (s.block b).core, asid := (s.block b).asid, kind := kind, issuer := some (t, (s.team b t).nextOp)
    toks := [⟨t, d.bind tokenReg, (s.team b t).jobs + 1, (s.team b t).nextOp⟩], bar := bar
    snap := { fmt := (s.block b).fmtWord, fmode := (s.team b t).fmode, books := (s.block b).codebooks }
    foot := foot, raw := raw, word := cl.words.headD 0 }

/-- The team has issued one more job; its token register carries a token tag (02 R59). -/
def holdsToken (d : Option Opnd) (n : Team) : Team :=
  { n with jobs := n.jobs + 1
           tags := match d.bind tokenReg with
             | some r => Tab.put n.tags (96 + r) .token
             | none => n.tags }

/-- The job is the next of the device's, and the instruction is outstanding until the engine has it. -/
def submitted (s w : State) (b t : Nat) (cl : Clause) (job : Job) (d : Option Opnd) (f : Team → Team) : State :=
  { w with jobs := Tab.put w.jobs w.nextJob job, nextJob := w.nextJob + 1 }.modTeam b t fun n =>
    starts true (fun _ _ => { kind := .value }) cl (s.team b t) (f (holdsToken d n))

/-! ## The matrix stream (11) -/

/-- The sequencer of block `b` executes the next word of clause `cl`. -/
structure Sequences (s : State) (b : Nat) (cl : Clause) : Prop where
  focus : s.focus = some (.seq b)
  clause : (s.block b).mtx.clause = some cl

/-- The state with the effect `f` of a word on the matrix context: the sequencer waits for nothing. -/
def onMtx (s : State) (b : Nat) (f : Mtx → Mtx) : State := s.modMtx b fun m => f { m with stall := none }

/-- None of the objects carries a tag (11 R285). -/
def Unclaimed (m : Mtx) (objs : List Nat) : Prop := ∀ o ∈ objs, Tab.find m.tags o = none

/-- Instruction `i` of the stream executes in `s`: it has the effect that makes `v` of `s`, and the sequencer goes on, with the
next word, or at the clause's end with the next clause or the loop's target (11 R284, R289). -/
def Goes (i : Instr) (s v : State) (b : Nat) : Prop :=
  ∃ cl, (v.block b).mtx.clause = some cl ∧
    (cl.advance.words ≠ [] → exec i s = .next (v.modMtx b fun m => { m with clause := some cl.advance, buf := [], wrote := 0 })) ∧
    (cl.advance.words = [] → exec i s = .next
      { v.modMtx b fun m => { m with clause := none, buf := [], wrote := 0, pc := (cl.moves.head?.map fun x => x.pc).getD cl.advance.pc } with
        focus := none })

/-- A tracked instruction of the stream has issued: it is outstanding, and what it writes is tagged with its flag. -/
def chases (setB : Bool) (cl : Clause) (objs : List Nat) (o : Option MmaOp) (m : Mtx) : Mtx :=
  { m with ops := m.ops ++ [⟨m.nextOp, flagOf setB cl, cl.pc, o⟩], nextOp := m.nextOp + 1,
           tags := match flagOf setB cl with
             | some f => objs.foldl (fun t k => Tab.put t k (f, o.isSome)) m.tags
             | none => m.tags }

/-- The value of a source of the stream. -/
def qval (m : Mtx) : QSrc → Word
  | .q r => m.qr r.val
  | .lit w => w

/-- The objects that a source or a pitch reads. -/
def qreads : QSrc → List Nat
  | .q r => [16 + r.val]
  | .lit _ => []
def preads : Pitch → List Nat
  | .packed => []
  | .q r => [16 + r.val]

/-- The pitch of rows in bytes, 0 where they lie packed (11 R291). -/
def pitchOf (m : Mtx) : Pitch → Nat
  | .packed => 0
  | .q r => (m.qr r.val).toNat

/-- The bit at which row `r` of rows of `n` bits lies. -/
def rowAt (st n r : Nat) : Nat := if st = 0 then r * n else r * st * 8

/-- The stream reads the next 32-byte unit of the ranges that an instruction reads one after another, which `plan` gives by what has
been read so far: inside the declared stash, aligned, after what the teams did before the program started (11 R287). Then it has read
`bytes`; reading leaves the machine in `w`. -/
def UnitAt (s : State) (b st : Nat) (plan : List Byte → List (Nat × Nat)) (bytes : List Byte) (w : State) : Prop :=
  let m := (s.block b).mtx
  (∀ r ∈ plan bytes, r.1 + r.2 ≤ (s.block b).stashSize ∧ r.1 % 32 = 0) ∧ st % 32 = 0 ∧
    (∀ e ∈ (s.block b).teams.zipIdx, e.1.calm (some (m.since.getD e.2 0)) = true) ∧
    ∃ a n bs, unitAt m.buf.length ((plan m.buf).map fun r => (0, r.1, r.2)) = some (0, a, n) ∧
      (onMtx s b id).stashGet b a n = .ok (bs, w) ∧ bytes = m.buf ++ bs

/-- Every byte of the ranges has been read. -/
def allRead (plan : List Byte → List (Nat × Nat)) (bytes : List Byte) : Prop := ((plan bytes).map Prod.snd).sum ≤ bytes.length

/-- The instruction stays, with what it has read so far. -/
def Stays (i : Instr) (s : State) (b : Nat) (w : State) (f : Mtx → Mtx) : Prop :=
  exec i s = .next (w.modMtx b fun m => { f m with stall := some .retry })

/-- Instruction `i` of the stream stops the program with a trap: the status register says which and the trap waits for the team
that owns the program (11 R286). -/
def Trips (i : Instr) (s : State) (b : Nat) (cl : Clause) (code : TrapCode) (cause addr : Nat) : Prop :=
  ∃ u owner, exec i s = .next u ∧
    (∀ f, (s.block b).forkRun = some f → owner = f.owner) ∧
    ((∀ m ∈ (s.block b).teams, m.stall = none) → ((s.block b).trapTarget owner).isSome = true →
      (u.block b).mtx.trap = some ⟨code, cl.pc, addr, owner⟩ ∧ u.focus = none ∧ (u.block b).teams = (s.block b).teams ∧
      (u.block b).mtx.clause = none ∧ (u.block b).mtx.qstat = BitVec.ofNat 32 (2 ^ 30 + code.num * 65536 + cause * 256))

/-! ## Units of memory (08 R208; 15 R390) -/

/-- The elements `l` are those of a read of `n` bytes at `va`, one aligned 32-byte unit each, and gave `bytes`. -/
def Performed (va n : Nat) (l : ULog) (bytes : List Byte) : Prop :=
  ∃ ps : List (List Byte), l = ps.map some ∧ ps.length = (unitsOf va n).length ∧ bytes = ps.flatten

/-! ## Task instructions (13) -/

/-- The ostler may perform a task instruction: the team's earlier accesses have performed, no earlier one must go first, and
nothing holds it (13 R342, 08 R210). -/
structure AtOstler (s : State) (b t id : Nat) (o : Op) (x : TaskOp) : Prop where
  op : (s.team b t).op id = some o
  kind : o.kind = .task x
  ready : (s.team b t).taskReady o x = true
  free : o.faulted = false
  clean : o.ecc = false
  plain : o.els = []
  resident : (s.block b).saved = none

/-- The instruction is outstanding no longer, with its status in its destination. -/
def answered (b t : Nat) (o : Op) (w : Word) (v : State) : State :=
  v.modTeam b t fun n =>
    Team.freed { o.dests.foldl (fun n d => n.writeKeyed (d * 16) w) n with ops := n.ops.filter fun p => p.id != o.id }

/-- Nothing in the ring is to be skipped. -/
def Solid (x : Queue) : Prop := ∀ g ∈ x.segs, g.skip = false ∧ g.len ≠ 0

end Claim
end Sys2Proof
end

