-- ==== Sys2Proof/Certificates/Slice0/Obligations.lean ====
section
/-! DEFINITION. The statements about the machine. `Claim.OnTeam i f` says that instruction `i` completes with the effect `f`
on its team and nothing else but the team's going on; a list in a statement names the instructions it is about, each with
its result. -/
open Sys2Proof
open Sys2Proof.Machine
open Sys2Proof.Claim
noncomputable section

/-! ## Integer, address and lane instructions (04) -/

/-- R111, R113, R114, R118: the instructions of two 32-bit sources, on registers and literals: each active lane's result, or
one result for an s-register, is written, and nothing else changes. -/
def Obligations.IntegerTwoSourceResults : Prop :=
  ∀ e ∈ twoSources,
  ∀ d a b, reg d → reg a → regLit b →
    OnTeam (e.1 d a b) (writes d fun _ m l => e.2 (m.rd a l) (val m b l))

/-- R111, R113, R114, R149, R169: the instructions of one source, and those whose third source is the old destination. -/
def Obligations.IntegerOneSourceAndAccumulateResults : Prop :=
  (∀ e ∈ ([
    (.mov, fun x => x),
    (.iabs, fun x => BitVec.ofInt 32 x.toInt.natAbs),
    (.ineg, fun x => BitVec.ofInt 32 (-x.toNat)),
    (.popc, fun x => BitVec.ofNat 32 ((List.range 32).filter x.getLsbD).length),
    (.clz, fun x => BitVec.ofNat 32 (if x = 0 then 32 else 31 - Nat.log2 x.toNat)),
    (.brev, fun x => ofBits 32 fun i => x.getLsbD (31 - i))
    ] : List ((Opnd → Src → Instr) × (Word → Word))),
    ∀ d a, reg d → regLit a → OnTeam (e.1 d a) (writes d fun _ m l => e.2 (val m a l))) ∧
  (∀ e ∈ ([
    (.imad, fun x y z => BitVec.ofNat 32 (x.toNat * y.toNat + z.toNat)),
    (.bfi, fun x y z =>
      let o := min (y.toNat % 256) 32
      let k := min (y.toNat / 256 % 256) 32
      ofBits 32 fun i => if o ≤ i ∧ i < o + k then x.getLsbD (i - o) else z.getLsbD i),
    (.idot4I8, fun x y z => BitVec.ofInt 32 ((z.toNat : Int) +
      (((List.range 4).map fun i => (x.extractLsb' (8 * i) 8).toInt * (y.extractLsb' (8 * i) 8).toInt).sum)))
    ] : List ((Opnd → Opnd → Src → Instr) × (Word → Word → Word → Word))),
    ∀ d a b, reg d → reg a → regLit b →
      OnTeam (e.1 d a b) (writes d fun _ m l => e.2 (m.rd a l) (val m b l) (m.rd d l)))

/-- R112, R117, R118: the instructions that write a pair. -/
def Obligations.PairResults : Prop :=
  ∀ e ∈ ([
    (.iaddW, fun m a b l => pair m a l + valW m b l),
    (.isubW, fun m a b l => pair m a l - valW m b l),
    (.imulwN32, fun m a b l => BitVec.ofNat 64 ((m.rd a l).toNat * (val m b l).toNat)),
    (.imulwI32, fun m a b l => BitVec.ofInt 64 ((m.rd a l).toInt * (val m b l).toInt)),
    (.shlW, fun m a b l => BitVec.ofNat 64 ((pair m a l).toNat * 2 ^ ((val m b l).toNat % 256))),
    (.shrnW, fun m a b l => BitVec.ofNat 64 ((pair m a l).toNat / 2 ^ ((val m b l).toNat % 256))),
    (.lea, fun m a b l => BitVec.ofInt 64 ((pair m a l).toNat + (val m b l).toInt)),
    (.leaX4, fun m a b l => BitVec.ofInt 64 ((pair m a l).toNat + 4 * (val m b l).toInt)),
    (.leaX8, fun m a b l => BitVec.ofInt 64 ((pair m a l).toNat + 8 * (val m b l).toInt)),
    (fun d _ b => .unmorton d b, fun m _ b l => ofBits 64 fun i =>
      if i < 16 then (val m b l).getLsbD (2 * i)
      else if 32 ≤ i ∧ i < 48 then (val m b l).getLsbD (2 * (i - 32) + 1) else false)
    ] : List ((Opnd → Opnd → Src → Instr) × (Team → Opnd → Src → Nat → DWord))),
  ∀ d a b, reg a → regLit b →
    OnTeam (e.1 d a b) (writesPair d fun _ m l => e.2 m a b l)

/-- R115, R116: compares write the active lanes' bits of a predicate; `SEL` picks by one. -/
def Obligations.CompareAndSelectResults : Prop :=
  (∀ e ∈ ([
    (.icmpEq, fun x y => decide (x.toNat = y.toNat)),
    (.icmpNe, fun x y => decide (x.toNat ≠ y.toNat)),
    (.icmpLtI32, fun x y => decide (x.toInt < y.toInt)),
    (.icmpLeI32, fun x y => decide (x.toInt ≤ y.toInt)),
    (.icmpLtN32, fun x y => decide (x.toNat < y.toNat)),
    (.icmpLeN32, fun x y => decide (x.toNat ≤ y.toNat))
    ] : List ((Fin 8 → Opnd → Src → Instr) × (Word → Word → Bool))),
    ∀ p a b, reg a → regLit b → OnTeam (e.1 p a b) (writesPred p.val fun _ m l => e.2 (m.rd a l) (val m b l))) ∧
  (∀ n d a b, reg d → reg a → regLit b →
    OnTeam (.selP n d a b) (writes d fun cl m l =>
      if (m.p n.val).getLsbD (if isS d then (lanesOf cl.act).headD 0 else l) then m.rd a l else val m b l))

/-- R119-R124: the instructions that read across lanes see only active lanes, `RDLANE` any lane; `x` is the source by lane,
`y` the second operand by lane. -/
def Obligations.LaneCrossingResults : Prop :=
  (∀ e ∈ ([
    (.shflIdx, fun _ y => (y.toNat : Int)),
    (.shflXor, fun l y => ((l ^^^ y.toNat : Nat) : Int)),
    (.shflUp, fun l y => (l : Int) - y.toNat),
    (.shflDown, fun l y => (l : Int) + y.toNat)
    ] : List ((Opnd → Opnd → Src → Instr) × (Nat → Word → Int))),
    ∀ d a b, isV d → isV a → regLit b → OnTeam (e.1 d a b) (writes d fun cl m l =>
      let q := e.2 l (val m b l)
      if 0 ≤ q ∧ q ≤ 15 ∧ cl.act.getLsbD q.toNat then m.rd a q.toNat else m.rd a l)) ∧
  (∀ e ∈ ([
    (.ballot, fun act x _ => ofBits 32 fun l => act.getLsbD l && x l != 0),
    (.scanAdd false, fun act x l => (((lanesOf act).filter (· ≤ l)).map x).sum),
    (.scanAdd true, fun act x l => (((lanesOf act).filter (· < l)).map x).sum),
    (.reduceAdd, fun act x _ => ((lanesOf act).map x).sum),
    (.matchV, fun act x l => ofBits 32 fun j => act.getLsbD j && x j == x l)
    ] : List ((Opnd → Opnd → Instr) × (Half → (Nat → Word) → Nat → Word))),
    ∀ d a, isV d → isV a → OnTeam (e.1 d a) (writes d fun cl m l => e.2 cl.act (fun l => m.rd a l) l)) ∧
  (∀ d a, isV d → isV a →
    (∃ g : Half → (Nat → Word) → Word, OnTeam (.reduceMinI32 d a) (writes d fun cl m _ => g cl.act fun l => m.rd a l) ∧
      ∀ act x, act ≠ 0 → (∃ l ∈ lanesOf act, g act x = x l) ∧ ∀ l ∈ lanesOf act, (g act x).toInt ≤ (x l).toInt) ∧
    (∃ g : Half → (Nat → Word) → Word, OnTeam (.reduceMaxI32 d a) (writes d fun cl m _ => g cl.act fun l => m.rd a l) ∧
      ∀ act x, act ≠ 0 → (∃ l ∈ lanesOf act, g act x = x l) ∧ ∀ l ∈ lanesOf act, (x l).toInt ≤ (g act x).toInt)) ∧
  (∀ d a b, isV d → isV a → (match b with | .reg o => isS o = true | .lit _ => True) →
    OnTeam (.rdlane d a b) (writes d fun _ m _ => m.rd a ((val m b 0).toNat % 16)))

/-- R52, R265, R343: a channel operand of a two-source instruction pops once, peeks or pushes, through the queue or the ring that
its entry binds; an empty or full one stalls the team, an unbound one is `ILLEGAL`; a ring's held slot gives its next 64 bytes. -/
def Obligations.ChannelOperands : Prop :=
  (∀ e ∈ twoSources, ∀ s b t cl d a (y : Src) (c : Fin 64), Executes s b t cl → reg d → reg a → regLit y →
    let m := s.team b t
    let run (i : Instr) : Issue := (begun s b t).issueOf i.info b t cl
    let gives (v : State) (f : Nat → Word) : State := v.modTeam b t fun n => n.wr d cl.act f
    (∀ i ws v, Untagged m i.shape →
      (i = e.1 d (.pop c) y → chanPop (run i) c.val (begun s b t) = .ok (ws, v) → Does i s (gives v fun l => e.2 (ws.getD l 0) (val m y l)) b t) ∧
      (i = e.1 d (.peek c) y → chanPeek (run i) c.val (begun s b t) = .ok (ws, v) → Does i s (gives v fun l => e.2 (ws.getD l 0) (val m y l)) b t) ∧
      (i = e.1 d a (.reg (.pop c)) → chanPop (run i) c.val (begun s b t) = .ok (ws, v) → Does i s (gives v fun l => e.2 (m.rd a l) (ws.getD l 0)) b t) ∧
      (i = e.1 d a (.reg (.peek c)) → chanPeek (run i) c.val (begun s b t) = .ok (ws, v) → Does i s (gives v fun l => e.2 (m.rd a l) (ws.getD l 0)) b t) ∧
      (i = e.1 (.pop c) a y → chanPush (run i) c.val cl.act (fun l => e.2 (m.rd a l) (val m y l)) (begun s b t) = .ok ((), v) → Does i s v b t)) ∧
    (∀ i, Untagged m i.shape → i = e.1 d (.pop c) y ∨ i = e.1 d a (.reg (.pop c)) →
      (chanPop (run i) c.val (begun s b t) = .error .stall → Waits i s b t) ∧
      (∀ x ls, chanPop (run i) c.val (begun s b t) = .error (.trap .illegal x ls) → Traps i s b t cl 0x01 x cl.pc)) ∧
    (∀ i, Untagged m i.shape → i = e.1 (.pop c) a y →
      (chanPush (run i) c.val cl.act (fun l => e.2 (m.rd a l) (val m y l)) (begun s b t) = .error .stall → Waits i s b t) ∧
      (∀ x ls, chanPush (run i) c.val cl.act (fun l => e.2 (m.rd a l) (val m y l)) (begun s b t) = .error (.trap .illegal x ls) →
        Traps i s b t cl 0x01 x cl.pc))) ∧
  (∀ (k : Issue) (s : State) c, k.blk = s.block k.b →
    let e := Tab.get {} (s.block k.b).chans c
    let u := (s.block k.b).suite
    let q := s.queue u e.target
    let refused (x : Nat) : Stop := .trap .illegal x 0xFFFF
    (e.kind = 0 → chanPop k c s = .error (refused 0) ∧ chanPeek k c s = .error (refused 0) ∧
      ∀ mask f, chanPush k c mask f s = .error (refused 0)) ∧
    (e.kind = 2 → q.pops = false → chanPop k c s = .error (refused e.target) ∧ chanPeek k c s = .error (refused e.target)) ∧
    (e.kind = 1 → (s.block k.b).ring e.target = none → chanPop k c s = .error (refused e.target) ∧ chanPeek k c s = .error (refused e.target) ∧
      ∀ mask f, chanPush k c mask f s = .error (refused e.target)) ∧
    (e.kind = 2 → q.pops = true →
      let first := s.popsFirst u e.target k.blk.core (k.tm.slot % 4) = true
      let unit (r : List Byte) : List Word := (List.range 16).map fun l => BitVec.ofNat 32 (ofLe ((r.drop (4 * (l % 8))).take 4))
      (∀ r v, first → s.unitPop u e.target true = (some r, v) → chanPop k c s = .ok (unit r, v)) ∧
      (∀ v, ¬first ∨ s.unitPop u e.target true = (none, v) → chanPop k c s = .error .stall) ∧
      (∀ r v, s.unitPop u e.target false = (some r, v) → chanPeek k c s = .ok (unit r, v)) ∧
      (∀ v, s.unitPop u e.target false = (none, v) → chanPeek k c s = .error .stall)) ∧
    (e.kind = 2 → q.accepts = true → q.kind = 2 → ∀ mask f, mask &&& 0xFF = 0xFF →
      let bytes := (List.range 8).flatMap fun l => leBytes 4 (f l).toNat
      (∀ v, s.enqueue u e.target bytes = some v → chanPush k c mask f s = .ok ((), v)) ∧
      (s.enqueue u e.target bytes = none → chanPush k c mask f s = .error .stall)) ∧
    (e.kind = 1 → e.target + 32 ≤ (s.block k.b).stashSize → e.target % 32 = 0 → ((s.block k.b).ring e.target).isSome = true →
      ∀ hdr v, s.stashGet k.b e.target 32 = .ok (hdr, v) →
      let h := RingHdr.of hdr
      h.slots ≠ 0 → h.size % 64 = 0 → h.share = 1 → ∀ o, e.slot = some o →
      let moved (w : State) : State := w.modBlock k.b fun x => { x with chans := Tab.set {} x.chans c { e with cursor := e.cursor + 64 } }
      (h.mode = 0 → ∀ r w, v.stashGet k.b (o + e.cursor) 64 = .ok (r, w) →
        let words := (List.range 16).map fun l => BitVec.ofNat 32 (ofLe ((r.drop (4 * l)).take 4))
        chanPeek k c s = .ok (words, w) ∧ (e.cursor + 64 < h.size → chanPop k c s = .ok (words, moved w))) ∧
      (h.mode = 2 → ∀ f w, v.stashPut k.b (o + e.cursor) ((List.range 16).flatMap fun l => leBytes 4 (f l).toNat) = .ok w →
        e.cursor + 64 < h.size → chanPush k c 0xFFFF f s = .ok ((), moved w))))

/-- R125, R126, R129: `RNG` writes the random function of each lane's seed, the team's counter and the lane (16 for a
uniform form) and advances the counter; `MODESET` writes the mode word or the counter. -/
def Obligations.RandomAndModeResults : Prop :=
  (∀ d a, reg d → regLit a → OnTeam (.rng d a) fun cl m n =>
    { n.wr d cl.act (fun l =>
        let h := val m a l ^^^ (m.rng * 0x9E3779B9) ^^^ (BitVec.ofNat 32 ((if isS d then 16 else l) + 1) * 0x85EBCA6B)
        let h := (h ^^^ (h >>> 16)) * 0x7FEB352D
        let h := (h ^^^ (h >>> 15)) * 0x846CA68B
        h ^^^ (h >>> 16)) with rng := m.rng + 1 }) ∧
  (∀ a, regLit a → OnTeam (.modeset a) fun _ m n =>
    { n with fmode := (if 6 ≤ (val m a 0).toNat % 8 then val m a 0 &&& 0xF8 else val m a 0 &&& 0xFF) }) ∧
  (∀ a, regLit a → OnTeam (.modesetRng a) fun _ m n => { n with rng := val m a 0 })

/-! ## Floating point (06) -/

/-- R155-R157, R159, R162, R163, R168: binary32, packed 16-bit and binary64 results are one exact value of the flushed operands,
rounded once by `FMODE`, the low half of a packed result first. -/
def Obligations.FloatArithmeticResults : Prop :=
  (∀ e ∈ ([
    (.fadd, fun r x y _ => sumVals r [x 0, y 0]),
    (.fsub, fun r x y _ => sumVals r [x 0, (y 0).negate]),
    (.fmul, fun _ x y _ => (x 0).mul (y 0)),
    (.ffma, fun r x y z => sumVals r [(x 0).mul (y 0), z]),
    (.fdot2Bf16, fun r x y z => sumVals r [(x 1).mul (y 1), (x 2).mul (y 2), z])
    ] : List ((Opnd → Opnd → Src → Instr) × (Nat → (Nat → Val) → (Nat → Val) → Val → Val))),
  ∀ d a b, reg d → reg a → regLit b →
    OnTeam (e.1 d a b) (writesDrawn d fun m l =>
      let read (x : Word) (i : Nat) : Val := if i = 0 then fval m fmtF32 x.toNat else half m fmtBf16 x (i - 1)
      frounded m fmtF32 (e.2 (fRnd m.fmode) (read (m.rd a l)) (read (val m b l)) (fval m fmtF32 (m.rd d l).toNat)) (keyOf d l) 0)) ∧
  (∀ e ∈ ([
    (.hadd2F16, fmtF16, fun r x y _ => sumVals r [x, y]),
    (.hmul2F16, fmtF16, fun _ x y _ => x.mul y),
    (.hfma2F16, fmtF16, fun r x y z => sumVals r [x.mul y, z]),
    (.hadd2Bf16, fmtBf16, fun r x y _ => sumVals r [x, y]),
    (.hmul2Bf16, fmtBf16, fun _ x y _ => x.mul y),
    (.hfma2Bf16, fmtBf16, fun r x y z => sumVals r [x.mul y, z])
    ] : List ((Opnd → Opnd → Src → Instr) × FFmt × (Nat → Val → Val → Val → Val))),
    ∀ d a b, reg d → reg a → regLit b →
      OnTeam (e.1 d a b) (writesDrawn d fun m l =>
        let v (h : Nat) := e.2.2 (fRnd m.fmode) (half m e.2.1 (m.rd a l) h) (half m e.2.1 (val m b l) h) (half m e.2.1 (m.rd d l) h)
        let lo := frounded m e.2.1 (v 0) (keyOf d l) 0
        let hi := frounded m e.2.1 (v 1) (keyOf d l) lo.2
        (lo.1 + 65536 * hi.1, hi.2))) ∧
  (∀ e ∈ ([
    (.dadd, fun r x y _ => sumVals r [x, y]),
    (.dmul, fun _ x y _ => x.mul y),
    (.dfma, fun r x y z => sumVals r [x.mul y, z])
    ] : List ((Opnd → Opnd → Src → Instr) × (Nat → Val → Val → Val → Val))),
    ∀ d a b, reg d → reg a → regLit b →
      OnTeam (e.1 d a b) (writesDrawnPair d fun m l =>
        frounded m fmtF64 (e.2 (fRnd m.fmode) (fval m fmtF64 (pair m a l).toNat) (fval m fmtF64 (valD m b l).toNat)
          (fval m fmtF64 (pair m d l).toNat)) (keyOf d l) 0))

/-- R160, R161, R164: minimum and maximum by value, with −0 below +0 and a NaN giving way; compares by value, false for a NaN
but for the unordered one. -/
def Obligations.FloatCompareAndMinMaxResults : Prop :=
  (∀ e ∈ ([(.fmin, false), (.fmax, true)] : List ((Opnd → Opnd → Src → Instr) × Bool)),
    ∀ d a b, reg d → reg a → regLit b → OnTeam (e.1 d a b) (writes d fun _ m l =>
      let x := fmtF32.ftz (fFtz m.fmode) (m.rd a l).toNat
      let y := fmtF32.ftz (fFtz m.fmode) (val m b l).toNat
      let vx := fmtF32.val x
      let vy := fmtF32.val y
      let below := vx.lt vy || (vx.eqv vy && vx.neg)
      BitVec.ofNat 32 (if vx.isNan ∧ vy.isNan then 0x7FC00000 else if vx.isNan then y else if vy.isNan then x
        else if below = e.2 then y else x))) ∧
  (∀ e ∈ ([
    (.fcmpEq, Val.eqv),
    (.fcmpLt, Val.lt),
    (.fcmpLe, fun x y => x.lt y || x.eqv y),
    (.fcmpUn, fun x y => x.isNan || y.isNan)
    ] : List ((Fin 8 → Opnd → Src → Instr) × (Val → Val → Bool))),
    ∀ p a b, reg a → regLit b → OnTeam (e.1 p a b) (writesPred p.val fun _ m l =>
      e.2 (fval m fmtF32 (m.rd a l).toNat) (fval m fmtF32 (val m b l).toNat))) ∧
  (∀ e ∈ ([(.dcmpLt, Val.lt), (.dcmpEq, Val.eqv)] : List ((Fin 8 → Opnd → Src → Instr) × (Val → Val → Bool))),
    ∀ p a b, reg a → regLit b → OnTeam (e.1 p a b) (writesPred p.val fun _ m l =>
      e.2 (fval m fmtF64 (pair m a l).toNat) (fval m fmtF64 (valD m b l).toNat)))

/-- R165-R167: the special functions are tracked by `setA`: their destination is tagged and owed the value rounded to
nearest even, with no draw. The roundings to an integral value, `FFRACT` and `FSAT` write at once. -/
def Obligations.SpecialFunctionResults : Prop :=
  (∀ e ∈ ([
    (.frcp, fun x => (Val.fin false 1 0).div x),
    (.frsq, Val.rsqrt),
    (.fsqrt, Val.sqrt),
    (.fexp2, Val.exp2),
    (.flog2, Val.log2),
    (.fsin, Val.sinTurns),
    (.fcos, Val.cosTurns)
    ] : List ((Opnd → Src → Instr) × (Val → Val))),
    ∀ d a, reg d → regLit a → OnTeam (e.1 d a) (startsValue d 1 fun m l _ =>
      BitVec.ofNat 32 (fmtF32.ftz (fFtz m.fmode) (fmtF32.rnd (e.2 (fval m fmtF32 (val m a l).toNat)) 0 false 0).bits))) ∧
  (∀ d a b, reg d → reg a → regLit b → OnTeam (.fdiv d a b) (startsValue d 1 fun m l _ =>
      BitVec.ofNat 32 (fmtF32.ftz (fFtz m.fmode)
        (fmtF32.rnd ((fval m fmtF32 (m.rd a l).toNat).div (fval m fmtF32 (val m b l).toNat)) 0 false 0).bits))) ∧
  (∀ e ∈ ([(.frndRn, 0), (.frndRz, 1), (.frndRd, 2), (.frndRu, 3)] : List ((Opnd → Src → Instr) × Nat)),
    ∀ d a, reg d → regLit a → OnTeam (e.1 d a) (writes d fun _ m l =>
      let v := match fval m fmtF32 (val m a l).toNat with
        | .fin n c x => Val.fin n (rndint n c x e.2 0).1.natAbs 0
        | v => v
      BitVec.ofNat 32 (fmtF32.ftz (fFtz m.fmode) (fmtF32.rnd v 0 false 0).bits))) ∧
  (∀ d a, reg d → regLit a → OnTeam (.ffract d a) (writes d fun _ m l =>
      match fval m fmtF32 (val m a l).toNat with
      | .fin n c x =>
        let v := sumVals 0 [.fin n c x, (intVal (rndint n c x 2 0).1).negate]
        if v.isZero then 0 else BitVec.ofNat 32 (fmtF32.ftz (fFtz m.fmode) (fmtF32.rnd v 2 false 0).bits)
      | _ => 0x7FC00000)) ∧
  (∀ d a, reg d → regLit a → OnTeam (.fsat d a) (writes d fun _ m l =>
      let x := fmtF32.ftz (fFtz m.fmode) (val m a l).toNat
      let v := fmtF32.val x
      if v.isNan ∨ v.neg ∨ v.isZero then 0 else if (Val.fin false 1 0).lt v then 0x3F800000 else BitVec.ofNat 32 x))

/-! ## Conversion (05) -/

/-- R142, R145-R149: `CVT` converts one value, `PACK` several into one register, `UNPACK` several out of one; the reserved
code sets `INVQ`, a draw counts; `CBLOOK` reads and `CBSET` writes two entries of a codebook. Format code 15 is `FMTBAD`. -/
def Obligations.ConversionResults : Prop :=
  (∀ e ∈ ([(.cvt, none, false), (.cvtSat, none, true), (.cvtSr, some 5, true)] :
      List ((Opnd → Src → Fin 16 → Fin 16 → Instr) × Option Nat × Bool)),
    ∀ d a t f bk, reg d → regLit a → t.val ≠ 15 → f.val ≠ 15 →
      OnTeamWhen (e.1 d a t f) (fun s b t _ => bookOf s b t = bk) fun cl m n =>
        let c (l : Nat) := converted m bk (if f.val = 14 then (valD m a l).toNat else (val m a l).toNat) f.val t.val
          (e.2.1.getD (fRnd m.fmode)) e.2.2 (keyOf d l) 0
        notes ((computed cl d).any fun l => (c l).invq) ((computed cl d).any fun l => (c l).drew)
          (if t.val = 14 then (n.wr d cl.act fun l => BitVec.ofNat 32 (c l).bits).wr d cl.act (fun l => BitVec.ofNat 32 ((c l).bits / 2 ^ 32)) 1
            else n.wr d cl.act fun l => placeReg t.val (c l).bits)) ∧
  (∀ d a t f bk, reg d → reg a → t.val ≠ 15 → f.val ≠ 15 →
    OnTeamWhen (.pack d a t f) (fun s b t _ => bookOf s b t = bk) fun cl m n =>
      let c (l : Nat) := packedWord m bk a t.val f.val (keyOf d l) l
      notes ((computed cl d).any fun l => (c l).2.1) ((computed cl d).any fun l => (c l).2.2 != 0)
        (n.wr d cl.act fun l => (c l).1)) ∧
  (∀ d a t f bk, reg d → regLit a → t.val ≠ 15 → f.val ≠ 15 →
    OnTeamWhen (.unpack d a t f) (fun s b t _ => bookOf s b t = bk) fun cl m n =>
      let c (l : Nat) := unpacked m bk (val m a l) f.val t.val (keyOf d l)
      notes ((computed cl d).any fun l => (c l).1.any (·.invq)) ((computed cl d).any fun l => (c l).1.any (·.drew))
        ((List.range (packCount f.val)).foldl (fun n i => n.wr d cl.act (fun l =>
          placeReg t.val ((c l).1.getD i ⟨0, false, false⟩).bits) i) n)) ∧
  (∀ c d a bk, reg d → regLit a → OnTeamWhen (.cblook c d a) (fun s b _ _ => (s.block b).codebooks = bk)
    (writes d fun _ m l => (Tab.get 0 bk (16 * c.val + (val m a l).toNat % 16)).setWidth 32 <<< 16)) ∧
  (∀ c q a s b t cl, regLit a → Executes s b t cl → Untagged (s.team b t) (Instr.cbset c q a).shape →
    Does (.cbset c q a) s ((begun s b t).modBlock b fun x => { x with
      codebooks := Tab.set 0 (Tab.set 0 x.codebooks (16 * c.val + 2 * q.val) ((val (s.team b t) a 0).setWidth 16))
        (16 * c.val + 2 * q.val + 1) ((val (s.team b t) a 0 >>> 16).setWidth 16) }) b t)

/-! ## Ranking (12) -/

/-- R310-R313: ranking keys, radix digits, the lane of the largest key, descending ranks. -/
def Obligations.RankingResults : Prop :=
  (∀ e ∈ ([(.rkeyF32, fun x => x), (.rkeyBf16, fun x => x <<< 16)] : List ((Opnd → Src → Instr) × (Word → Word))),
    ∀ d a, reg d → regLit a → OnTeam (e.1 d a) (writes d fun _ m l =>
      let x := e.2 (val m a l)
      if 0x7F800000 < x.toNat % 2147483648 then 0
      else if x = 0x80000000 then 0x80000000
      else if x.toNat < 2147483648 then x ^^^ 0x80000000 else ~~~x)) ∧
  (∀ desc d a b, reg d → reg a → regLit b → OnTeam (.rdig desc d a b) (writes d fun _ m l =>
    let k := min ((val m b l).toNat / 256 % 256) 16
    let g := (m.rd a l).toNat / 2 ^ ((val m b l).toNat % 256) % 2 ^ k
    BitVec.ofNat 32 (if desc then 2 ^ k - 1 - g else g))) ∧
  (∀ d a, isV d → isV a → ∃ g : Half → (Nat → Word) → Word, OnTeam (.argmax d a) (writes d fun cl m _ => g cl.act fun l => m.rd a l) ∧
    ∀ act x, (∀ l ∈ lanesOf act, x l ≠ 0 → (∀ q ∈ lanesOf act, (x q).toNat ≤ (x l).toNat) →
        (∀ q ∈ lanesOf act, q < l → x q ≠ x l) → g act x = BitVec.ofNat 32 l) ∧
      ((∀ l ∈ lanesOf act, x l = 0) → g act x = 0xFFFFFFFF)) ∧
  (∀ d a, isV d → isV a → OnTeam (.rank d a) (writes d fun cl m l => BitVec.ofNat 32
    (((lanesOf cl.act).filter fun q => (m.rd a l).toNat < (m.rd a q).toNat).length +
     ((lanesOf cl.act).filter fun q => m.rd a q = m.rd a l ∧ q < l).length)))

/-! ## Control (03) -/

/-- R78, R79: a branch's taking lanes move to its marked target with the marker's priority at the clause's end; an unmarked
target traps with no lane moved; `BRX` moves each lane to its own target. -/
def Obligations.BranchesMoveTheirLanes : Prop :=
  (∀ s b t cl i (neg : Bool) (p : Fin 8) (o : BOff), Executes s b t cl → (i = .bra neg p o ∨ i = .bru o) →
    let taken : Half := if i = .bru o then cl.act
      else ofBits 16 fun l => cl.act.getLsbD l && (((s.team b t).p p.val).getLsbD l != neg)
    let off : Int := match o with | .near v => v.toInt | .far w => w.toInt
    let target := (((cl.pc : Int) + 4 * off) % 18446744073709551616).toNat
    (taken = 0 → Does i s (begun s b t) b t) ∧
    (taken ≠ 0 → ∀ q w, MarkedAt (begun s b t) b target q w →
      Does i s (w.modTeam b t (moving ((lanesOf taken).map fun l => ⟨l, target, q⟩))) b t) ∧
    (taken ≠ 0 → ∀ w, (begun s b t).marked (s.block b).core (s.block b).asid target = (.ok none, w) →
      Traps i s b t cl 0x04 target cl.pc)) ∧
  (∀ s b t cl a (q : Nat → Nat), Executes s b t cl → Untagged (s.team b t) (Instr.brx a).shape →
    let target (l : Nat) := (pair (s.team b t) a l).toNat
    (∀ l ∈ lanesOf cl.act, target l < 2 ^ 56 ∧ target l % 4 = 0 ∧ MarkedAt (begun s b t) b (target l) (q l) (begun s b t)) →
    Does (.brx a) s (onTeam s b t (moving ((lanesOf cl.act).map fun l => ⟨l, target l, q l⟩))) b t)

/-- R80-R82: a call pushes the next clause's address and the priority at each active lane's stack slot, one deeper, and moves
the lane; a return pops them, and retires the lanes whose stack is empty. -/
def Obligations.CallsPushAndReturnsPop : Prop :=
  (∀ s b t cl i (target q : Nat → Nat), Executes s b t cl → Untagged (s.team b t) i.shape →
    ((∃ o : BOff, i = .call o ∧ ∀ l ∈ lanesOf cl.act, target l = (((cl.pc : Int) + 4 * (match o with | .near v => v.toInt | .far w => w.toInt)) %
        18446744073709551616).toNat) ∨
      (∃ a, i = .callx a ∧ ∀ l ∈ lanesOf cl.act, target l = (pair (s.team b t) a l).toNat ∧ target l < 2 ^ 56 ∧ target l % 4 = 0)) →
    let m := s.team b t
    let x := s.block b
    let depth (l : Nat) : Nat := Tab.get 0 m.depth l
    let slot (l : Nat) : Nat := x.lpsize - 16 * (depth l + 1)
    m.laneOps = false →
    (∀ l ∈ lanesOf cl.act, MarkedAt (begun s b t) b (target l) (q l) (begun s b t) ∧ depth l < 64 ∧ 16 * (depth l + 1) ≤ x.lpsize ∧
      Reaches (begun s b t) b t l (x.lpAddr t (slot l) l) .laneStore ∧ Reaches (begun s b t) b t l (x.lpAddr t (slot l + 12) l) .laneStore) →
    Does i s (onTeam s b t fun n => moving ((lanesOf cl.act).map fun l => ⟨l, target l, q l⟩)
      ((lanesOf cl.act).foldl (fun n l =>
        { (n.lpWrite (slot l) l (leBytes 8 ((cl.pc + 4 * cl.words.length) % 2 ^ 56) ++ leBytes 8 cl.prio)) with
          depth := Tab.set 0 n.depth l (depth l + 1) }) n)) b t) ∧
  (∀ s b t cl, Executes s b t cl →
    let m := s.team b t
    let x := s.block b
    let depth (l : Nat) : Nat := Tab.get 0 m.depth l
    let slot (l : Nat) : Nat := x.lpsize - 16 * depth l
    let deep := (lanesOf cl.act).filter fun l => depth l ≠ 0
    let rpc (l : Nat) := ofLe (m.lpRead (slot l) l 8)
    m.laneOps = false →
    (∀ l ∈ deep, rpc l < 2 ^ 56 ∧ rpc l % 4 = 0 ∧ Reaches (begun s b t) b t l (x.lpAddr t (slot l) l) .laneLoad ∧
      Reaches (begun s b t) b t l (x.lpAddr t (slot l + 12) l) .laneLoad) →
    Does .ret s (onTeam s b t fun n =>
      (moving (deep.map fun l => ⟨l, rpc l, ofLe (m.lpRead (slot l + 8) l 8) % 4096⟩)
        (deep.foldl (fun n l => { ((n.lpTouch (slot l) l).lpTouch (slot l + 12) l) with depth := Tab.set 0 n.depth l (depth l - 1) }) n)).retireLanes
          (ofBits 16 fun l => cl.act.getLsbD l && depth l == 0)) b t)

/-- R83: `EXIT` retires its active lanes, in the kept frontier too; a team with no lane left retires and wakes the sleepers of
its block. -/
def Obligations.ExitRetiresItsLanes : Prop :=
  OnTeam .exit (fun cl _ n => { n with
    retired := n.retired ||| cl.act, kept := n.kept.map fun k => { k with frontier := dropLanes cl.act k.frontier } }) ∧
  (∀ s b t cl e, Executes s b t cl → cl.advance.words = [] → cl.act = cl.mask → (s.team b t).frontier = [e] → e.mask = cl.mask →
    (s.team b t).kept = none → (s.team b t).view = none → (s.team b t).context = .normal → (s.team b t).haltPending = false →
    ∃ u, exec .exit s = .next u ∧ (u.team b t).done = true ∧ (u.team b t).frontier = [] ∧
      ∀ r d, (u.team b r).stall ≠ some (.sleep d))

/-- R73, R74: at a clause's end every lane of it that lives stands in one entry at its target, or falls through to the next
clause, and the other entries' lanes stay; no lane stands in two entries. -/
def Obligations.ClauseEndsPlaceTheirLanes : Prop :=
  ∀ (m : Team) (cl : Clause) (fall : Option Nat), (∀ e ∈ m.frontier, e.held = none) → cl.hold = none →
    (∀ l ∈ lanesOf (cl.mask &&& ~~~m.retired), ∃ e ∈ (m.endClause cl fall).frontier, e.mask.getLsbD l = true ∧ e.held = none ∧
      e.pc = ((cl.moves.find? (·.lane == l)).map Move.pc).getD cl.pc ∧
      ((cl.moves.find? (·.lane == l)).map Move.prio).getD (fall.getD cl.prio) ≤ e.prio) ∧
    (∀ l f, f ∈ m.frontier → f.mask.getLsbD l = true → cl.mask.getLsbD l = false →
      ∃ e ∈ (m.endClause cl fall).frontier, e.mask.getLsbD l = true ∧ e.held = none ∧ e.pc = f.pc ∧ f.prio ≤ e.prio) ∧
    ((∀ l, (m.frontier.filter fun e => e.mask.getLsbD l).length ≤ 1) →
      ∀ l, ((m.endClause cl fall).frontier.filter fun e => e.mask.getLsbD l).length ≤ 1) ∧
    (∀ e ∈ (m.endClause cl fall).frontier, e.mask ≠ 0)

/-- R84-R88: `JSET`, `ARRIVE` and `WAITJ`; the test of a mask with held lanes releases it when no lane is missing, and counts a
lost join when the missing lanes stand at or below its lowest held priority, or nothing is open. -/
def Obligations.RejoinMasks : Prop :=
  (∀ n a, OnTeamWhen (.jset n a) (fun s b t _ => (∀ e ∈ (s.team b t).frontier, e.held ≠ some n.val) ∧ (s.team b t).kept = none)
    fun _ m q => { q with joins := Tab.set {} q.joins n.val ⟨(val m a 0).setWidth 16, 0⟩ }) ∧
  (∀ n, OnTeam (.arrive n) fun cl m q =>
    { q with joins := Tab.set {} q.joins n.val ⟨(m.join n.val).expect, (m.join n.val).arrived ||| (cl.act &&& (m.join n.val).expect)⟩ }) ∧
  (∀ n, OnTeam (.waitj n) fun cl m q =>
    let h := cl.act &&& (m.join n.val).expect
    { q with joins := Tab.set {} q.joins n.val ⟨(m.join n.val).expect, (m.join n.val).arrived ||| h⟩
             clause := if h = 0 then q.clause else q.clause.map fun c => { c with hold := some (n.val, h) } }) ∧
  (∀ (m : Team) n, m.kept = none → (∃ e ∈ m.frontier, e.held = some n) →
    let missing := (m.join n).expect &&& ~~~(m.join n).arrived &&& ~~~m.retired
    let released : Team := { m with
      joins := Tab.set {} m.joins n {}
      frontier := mergeAll (m.frontier.map fun e => if e.held = some n then { e with held := none } else e) }
    let reachable (l : Nat) : Prop := ∃ f ∈ m.frontier, f.mask.getLsbD l = true ∧ ∀ e ∈ m.frontier, e.held = some n → f.prio ≤ e.prio
    let first : Prop := (∀ e ∈ m.frontier, e.held ≠ none) ∧ ∃ e ∈ m.frontier, e.held = some n ∧
      ∀ f ∈ m.frontier, f = e ∨ f.prio < e.prio ∨ (f.prio = e.prio ∧ e.pc < f.pc)
    (∀ e ∈ m.frontier, e.prio ≤ 4095) →
    (missing = 0 → m.testJoin n = released) ∧
    (missing ≠ 0 → ((∀ l, missing.getLsbD l = true → reachable l) ∨ first) →
      m.testJoin n = { released with rejoinlost := m.rejoinlost + 1 }) ∧
    (missing ≠ 0 → ¬(∀ l, missing.getLsbD l = true → reachable l) → (∃ e ∈ m.frontier, e.held = none) → m.testJoin n = m))

/-- R89: predicate logic writes the active lanes' bits; a literal with a bit above 15 set is `ILLEGAL`. -/
def Obligations.PredicateLogicResults : Prop :=
  let bit (m : Team) : PSrc → Nat → Bool
    | .p r, l => (m.p r.val).getLsbD l
    | .lit w, l => w.getLsbD l
  let fits : PSrc → Prop
    | .p _ => True
    | .lit w => w.toNat < 65536
  (∀ e ∈ ([
    (.pand, fun x y => x && y),
    (.por, fun x y => x || y),
    (.pxor, fun x y => x != y)
    ] : List ((Fin 8 → Fin 8 → PSrc → Instr) × (Bool → Bool → Bool))),
    ∀ d a c, fits c → OnTeam (e.1 d a c) (writesPred d.val fun _ m l => e.2 ((m.p a.val).getLsbD l) (bit m c l))) ∧
  (∀ d a, OnTeam (.pnot d a) (writesPred d.val fun _ m l => !(m.p a.val).getLsbD l)) ∧
  (∀ d c, fits c → OnTeam (.pmov d c) (writesPred d.val fun _ m l => bit m c l)) ∧
  (∀ e ∈ ([.pand, .por, .pxor, fun d _ c => .pmov d c] : List (Fin 8 → Fin 8 → PSrc → Instr)), ∀ d a (w : Word),
    65536 ≤ w.toNat → ∀ s b t cl, Executes s b t cl → Traps (e d a (.lit w)) s b t cl 0x01 0 cl.pc)

/-- R90, R91, R216, R270: words whose effect is that the team goes on, where it owes nothing, and `SLEEP`, which makes it wait
for at most 2^24 ticks. -/
def Obligations.WordsThatOnlyGoOnOrSleep : Prop :=
  (∀ i ∈ [Instr.nop, Instr.yield], OnTeam i fun _ _ n => n) ∧
  (∀ sc p u, OnTeamWhen (.fence sc p u) (fun s b t _ => (begun s b t).fenceOwed b t p.toNat = false ∧
    ((p.getLsbD 1 = true ∨ p.getLsbD 2 = true) → (begun s b t).staleIn b sc.toNat = false)) fun _ _ n => n) ∧
  (∀ (s : State) b sc, s.staleIn b sc = false → ∀ c k l x, (c, k) ∈ s.cores → (l, x) ∈ k.l1 → s.inScope b sc c = true →
    (s.homeLine l).writer = (s.block b).asid → (s.homeLine l).wts ≤ s.pts (s.block b).core → s.pts c ≤ x.rts → (s.homeLine l).wts ≤ x.wts) ∧
  (∀ a, OnTeamWhen (.jwait a) (fun s b t _ => ∀ j x, (j, x) ∈ s.jobs → x.owner = some b → ∀ z ∈ x.toks, z.t = t →
    (s.team b t).jobs < z.seq + (val (s.team b t) a 0).toNat) fun _ _ n => n) ∧
  (∀ a, OnTeam (.sleep a) fun _ m n =>
    let k := min (val m a 0).toNat 16777216
    if k = 0 then n else { n with stall := some (.sleep (n.lastIssue + k)) })

/-- R94-R99, R251: a barrier instruction goes to its block's barrier unit, behind what is on its way, and its team waits until
the unit has applied it. -/
def Obligations.BarrierWordsReachTheUnit : Prop :=
  ∀ s b t cl (n : Fin 16), Executes s b t cl →
    let m := s.team b t
    let sends (i : Instr) (o : BarOp) : Prop := Untagged m i.shape → exec i s = .next
      ((onBlock s b t fun x => { x with barOps := x.barOps ++ [⟨s.tick + 1, o⟩] }).modTeam b t fun n' => { n' with stall := some (.unit n.val) })
    let count (c : Count) : Nat := match c with | .one => 1 | .reg r => (m.s r.val).toNat | .lit w => w.toNat
    let clear : Prop := (s.block b).mtx.trap = none
    (∀ a, 1 ≤ (val m a 0).toNat → (val m a 0).toNat ≤ 4095 → sends (.binit n a) (.init t n.val (val m a 0).toNat)) ∧
    (∀ c, 1 ≤ count c → count c ≤ 4095 → sends (.barrive n c) (.arrive t n.val (count c) false)) ∧
    (∀ c, 1 ≤ count c → count c ≤ 4095 → clear → m.arrivedAt = none → sends (.bsync n c) (.arrive t n.val (count c) true)) ∧
    (clear → sends (.bwait n) (.wait t n.val)) ∧
    sends (.binval n) (.inval t n.val) ∧
    (∀ r : Fin 32, sends (.btest n (.s r)) (.test t n.val (96 + r.val))) ∧
    (∀ a c, (val m c 0).toNat = n.val → fwPlain (m.rd a ((lanesOf cl.act).headD 0)) = true →
      sends (.fmtpost a c) (.post t n.val ((lanesOf cl.act).map fun l => m.rd a l))) ∧
    (∀ a, ((val m a 0).toNat = 0 ∨ 4095 < (val m a 0).toNat) → Untagged m (Instr.binit n a).shape → Traps (.binit n a) s b t cl 0x01 0 cl.pc)

/-- R101-R104: joining, mapping and leaving a hitch, and an arrival at a peer's barrier. A block joins in the lowest free slot, or
learns that it is hitched or that the hitch is full; it maps another member, or learns that it cannot (a slot above 7, which no hitch
has, counts as free: log 99); it leaves once what it issued to its peers is over; an arrival reaches the peer's barrier unit, and one
that names no other member is `PROT`. -/
def Obligations.Hitches : Prop :=
  ∀ s b t cl, Executes s b t cl →
    let m := s.team b t
    let x := s.block b
    let near (y : Block) : Prop := y.suite = x.suite ∧ y.core / 8 = x.core / 8
    let taken (key : Word) (q : Nat) : Prop := ∃ c y, (c, y) ∈ (begun s b t).blocks ∧ near y ∧ y.hitch = some (key, q)
    let away (e : Elem) : Prop := (∃ h o, e.place = some (.stash h o) ∧ h ≠ b) ∨
      ((∀ h o, e.place ≠ some (.stash h o)) ∧ ∃ h k, e.via = some (h, k) ∧ h ≠ b)
    let owing : Prop := ∃ n ∈ x.teams, ∃ o ∈ n.ops, ∃ e ∈ o.els, e.done = false ∧ (o.kind = .deferred ∨ away e)
    (∀ d a, isS d = true → Untagged m (Instr.hitch d a).shape →
      (x.hitch ≠ none → Does (.hitch d a) s (onTeam s b t fun n => n.wr d cl.act fun _ => 0xFFFFFFFE) b t) ∧
      (x.hitch = none → (∀ q < 8, taken (val m a 0) q) → Does (.hitch d a) s (onTeam s b t fun n => n.wr d cl.act fun _ => 0xFFFFFFFF) b t) ∧
      (∀ q < 8, x.hitch = none → ¬taken (val m a 0) q → (∀ r < q, taken (val m a 0) r) →
        Does (.hitch d a) s ((onBlock s b t fun y => { y with hitch := some (val m a 0, q) }).modTeam b t fun n =>
          n.wr d cl.act fun _ => BitVec.ofNat 32 q) b t)) ∧
    (∀ d a, isS d = true → Untagged m (Instr.hmap d a).shape →
      let k := (val m a 0).toNat
      ((7 < k ∨ x.hitch = none ∨ (∃ key, x.hitch = some (key, k)) ∨ (begun s b t).member b k = none) →
        Does (.hmap d a) s (onTeam s b t fun n => n.wr d cl.act fun _ => 0xFFFFFFFF) b t) ∧
      (∀ key own p, k ≤ 7 → x.hitch = some (key, own) → own ≠ k → (begun s b t).member b k = some p →
        Does (.hmap d a) s ((onBlock s b t fun y => { y with windows := if k ∈ y.windows then y.windows else y.windows ++ [k] }).modTeam b t
          fun n => n.wr d cl.act fun _ => BitVec.ofNat 32 (16777216 * (k + 1))) b t)) ∧
    ((x.hitch = none ∨ ¬owing) → Does .unhitch s ((begun s b t).unhitch b) b t) ∧
    (x.hitch ≠ none → owing → Waits .unhitch s b t) ∧
    (∀ key own, x.hitch = some (key, own) → (((begun s b t).unhitch b).block b).hitch = none ∧ (((begun s b t).unhitch b).block b).windows = [] ∧
      ∀ c y, (c, y) ∈ ((begun s b t).unhitch b).blocks → near y → y.hitch.map Prod.fst = some key → c ≠ b → own ∉ y.windows) ∧
    (∀ (n : Fin 16) a, Untagged m (Instr.barrivePeer n a).shape →
      let k := (m.rd a 0).toNat
      ((x.hitch = none ∨ (∃ key, x.hitch = some (key, k)) ∨ (begun s b t).member b k = none) →
        Traps (.barrivePeer n a) s b t cl 0x07 0 cl.pc) ∧
      (∀ key own p, x.hitch = some (key, own) → own ≠ k → (begun s b t).member b k = some p →
        Does (.barrivePeer n a) s ((onTeam s b t (starts true (fun _ _ =>
          { kind := .deferred, aux := [p, n.val], els := [{ lane := 0, va := 0, n := 0 }] }) cl m)).modBlock p
            fun y => { y with barOps := y.barOps ++ [⟨s.tick + 20, .peer n.val own b t m.nextOp⟩] }) b t)) ∧
    (∀ (v : State) k p, v.member b k = some p → ∃ y key own, (p, y) ∈ v.blocks ∧ y.hitch = some (key, k) ∧ (v.block b).hitch = some (key, own) ∧
      y.suite = (v.block b).suite ∧ y.core / 8 = (v.block b).core / 8)

/-! ## Traps, special registers, time, halts, translations, frames (16) -/

/-- R105, R411-R413, R420: software traps save the code, the trap's address, the operand and the next word's address, and enter
the handler; `HALT` halts its team and tells the host where the suite is being debugged, and is a breakpoint elsewhere. -/
def Obligations.TrapsAndHalts : Prop :=
  ∀ s b t cl, Executes s b t cl →
    (∀ a, Untagged (s.team b t) (Instr.trap a).shape → Traps (.trap a) s b t cl 0x10 (val (s.team b t) a 0).toNat cl.advance.pc) ∧
    Traps .bkpt s b t cl 0x0F 0 cl.advance.pc ∧
    ((s.suite (s.block b).suite).dbgctl.getLsbD 0 = false → Traps .halt s b t cl 0x0F 0 cl.advance.pc) ∧
    ((s.suite (s.block b).suite).dbgctl.getLsbD 0 = true →
      Does .halt s ((onTeam s b t fun n => { n with
        halted := true, haltPending := n.haltPending && n.context == .trap }).raiseCause (s.block b).suite 5) b t)

/-- R414: `TRET` in trap context takes a pending halt first; it goes on at the resume point inside the trapped clause for its
recorded active set, or lets the lanes fall into the clause that follows, or moves them to a marked clause. -/
def Obligations.TrapReturns : Prop :=
  ∀ s b t cl, Executes s b t cl →
    let m := s.team b t
    let x := s.block b
    let r := m.trapresume.toNat
    (m.context ≠ .trap → Traps .tret s b t cl 0x01 0 cl.pc) ∧
    (m.context = .trap → m.haltPending = true → exec .tret s = .next (((onTeam s b t fun n =>
      { n with halted := true, haltPending := false }).raiseCause x.suite 5).modTeam b t fun n =>
        { n with stall := some .retry, lastIssue := m.lastIssue })) ∧
    (∀ k, m.context = .trap → m.haltPending = false → m.done = false → m.recorded ≠ .trap → m.kept = some k →
      let c : Clause := { k.clause with mask := k.clause.mask &&& ~~~m.retired, act := k.clause.act &&& ~~~m.retired }
      (∀ ws w, c.mask ≠ 0 → c.body ≤ r → r < k.next → r % 4 = 0 → (begun s b t).fetchWords x.core x.asid r ((k.next - r) / 4) = (.ok ws, w) →
        exec .tret s = .next (w.modTeam b t fun n =>
          let back := Team.testJoins { n with frontier := k.frontier, kept := none, context := n.recorded, clause := none }
          { back with clause := some { c with pc := r, words := ws }, count := n.count + 1, prev := none })) ∧
      ((r = k.next ∧ c.body ≤ r) ∨ (∃ q w, ¬(c.body ≤ r ∧ r ≤ k.next) ∧ MarkedAt (begun s b t) b r q w) →
        (∀ e ∈ k.frontier, e.held = none) → c.hold = none →
        ∃ u, exec .tret s = .next u ∧ (u.team b t).context = m.recorded ∧ (u.team b t).kept = none ∧ (u.team b t).clause = none ∧
          ∀ l ∈ lanesOf c.mask, ∃ e ∈ (u.team b t).frontier, e.mask.getLsbD l = true ∧ e.held = none ∧
            e.pc = (if r = k.next then ((c.moves.find? (·.lane == l)).map Move.pc).getD r else r)))

/-- R416, R417: what each special register reads; a 64-bit one fills a pair. -/
def Obligations.SpecialRegisterReads : Prop :=
  ∀ s b t cl, Executes s b t cl →
    let m := s.team b t
    let x := s.block b
    (∀ e ∈ ([
      (0x00, fun l => BitVec.ofNat 32 l),
      (0x01, fun _ => BitVec.ofNat 32 t),
      (0x02, fun _ => BitVec.ofNat 32 x.bindex),
      (0x03, fun _ => BitVec.ofNat 32 (x.core % 8)),
      (0x04, fun _ => BitVec.ofNat 32 (x.core / 8 % 6)),
      (0x05, fun _ => BitVec.ofNat 32 (x.core / 48)),
      (0x06, fun _ => BitVec.ofNat 32 s.device),
      (0x07, fun _ => BitVec.ofNat 32 m.slot),
      (0x09, fun _ => BitVec.ofNat 32 x.asid),
      (0x0A, fun _ => m.fmode),
      (0x0B, fun _ => m.rejoinlost),
      (0x0C, fun l => BitVec.ofNat 32 (Tab.get 0 m.depth l)),
      (0x0D, fun _ => BitVec.ofNat 32 ((x.hitch.map Prod.snd).getD 0xFFFFFFFF)),
      (0x0E, fun _ => if x.drain then 1 else 0),
      (0x0F, fun _ => m.vblayout),
      (0x10, fun _ => x.mstat),
      (0x11, fun _ => x.mtx.qstat),
      (0x13, fun _ => BitVec.ofNat 32 x.lpsize),
      (0x14, fun _ => x.stashhash),
      (0x15, fun _ => BitVec.ofNat 32 (s.suite x.suite).mcq.length),
      (0x18, fun _ => m.trapcode),
      (0x1F, fun _ => x.watchctl)
      ] ++ (List.range 32).map (fun j => (BitVec.ofNat 8 (0x20 + j), fun _ => Tab.get 0 x.banks j)) : List (Byte × (Nat → Word))),
      ∀ d, reg d → Untagged m (Instr.srd d e.1).shape → Does (.srd d e.1) s (onTeam s b t fun n => n.wr d cl.act e.2) b t) ∧
    (∀ e ∈ ([
      (0x08, BitVec.ofNat 64 s.tick),
      (0x12, x.lpbase),
      (0x19, m.trappc),
      (0x1A, m.trapaddr),
      (0x1B, m.trapresume),
      (0x1C, BitVec.ofNat 64 x.trapvec),
      (0x1D, x.watch0),
      (0x1E, x.watch1)
      ] : List (Byte × DWord)),
      ∀ d, Untagged m (Instr.srd d e.1).shape →
        Does (.srd d e.1) s (onTeam s b t fun n => (n.wr d cl.act fun _ => low e.2).wr d cl.act (fun _ => high e.2) 1) b t)

/-- R416-R418, R152: what a write leaves in each special register; a register that only reads keeps its value, and a write to a
protected one in normal context raises `PROT`. -/
def Obligations.SpecialRegisterWrites : Prop :=
  ∀ s b t cl (a : Src), Executes s b t cl →
    let m := s.team b t
    let w := val m a 0
    let q := valW m a 0
    (∀ e ∈ ([
      (0x0A, fun n => { n with fmode := if 6 ≤ w.toNat % 8 then w &&& 0xF8 else w &&& 0xFF }),
      (0x0B, fun n => { n with rejoinlost := w }),
      (0x0F, fun n => { n with vblayout := w &&& 0x80FFFFFF })
      ] : List (Byte × (Team → Team))),
      Untagged m (Instr.swr e.1 a).shape → Does (.swr e.1 a) s (onTeam s b t e.2) b t) ∧
    (∀ e ∈ ([
      (0x18, fun n => { n with trapcode := w &&& 0x3FF }),
      (0x19, fun n => { n with trappc := q }),
      (0x1A, fun n => { n with trapaddr := q }),
      (0x1B, fun n => { n with trapresume := q })
      ] : List (Byte × (Team → Team))),
      m.context ≠ .normal → Untagged m (Instr.swr e.1 a).shape → Does (.swr e.1 a) s (onTeam s b t e.2) b t) ∧
    (∀ e ∈ ([
      (0x1D, fun x => { x with watch0 := q }),
      (0x1E, fun x => { x with watch1 := q }),
      (0x1F, fun x => { x with watchctl := w &&& 0x03FF000F })
      ] : List (Byte × (Block → Block))),
      m.context ≠ .normal → Untagged m (Instr.swr e.1 a).shape → Does (.swr e.1 a) s (onBlock s b t e.2) b t) ∧
    (∀ j < 32, Untagged m (Instr.swr (BitVec.ofNat 8 (0x20 + j)) a).shape →
      Does (.swr (BitVec.ofNat 8 (0x20 + j)) a) s (onBlock s b t fun x => { x with banks := Tab.set 0 x.banks j w }) b t) ∧
    (let left (z : Word) : Word := ofBits 32 fun i => if i < 3 then z.getLsbD i && !w.getLsbD i else if i < 8 then z.getLsbD i
        else if i < 16 then w.getLsbD i else z.getLsbD i && !w.getLsbD 1;
      Untagged m (Instr.swr 0x10 a).shape → Does (.swr 0x10 a) s (onBlock s b t fun x => { x with mstat := left x.mstat }) b t) ∧
    (∀ n ∈ ([0x00, 0x01, 0x02, 0x03, 0x04, 0x05, 0x06, 0x07, 0x08, 0x09, 0x0C, 0x0D, 0x0E, 0x11, 0x12, 0x13, 0x14, 0x15, 0x1C] : List Byte),
      Untagged m (Instr.swr n a).shape → Does (.swr n a) s (begun s b t) b t) ∧
    (∀ n ∈ ([0x18, 0x19, 0x1A, 0x1B, 0x1D, 0x1E, 0x1F] : List Byte),
      m.context = .normal → Untagged m (Instr.swr n a).shape → Traps (.swr n a) s b t cl 0x07 0 cl.pc)

/-- R419, R421, R422, R424, R425, R427: the tick, translations, events, the clock stop and the trace mark. -/
def Obligations.TimeTranslationsAndEvents : Prop :=
  ∀ s b t cl, Executes s b t cl →
    let m := s.team b t
    let x := s.block b
    let u := x.suite
    let asid (a : Opnd) := (m.rd a 0).toNat % 8192
    (∀ d i, (i = Instr.tick d ∨ i = .tickC d ∧ m.ops = []) → Untagged m i.shape → Does i s (onTeam s b t fun n =>
      (n.wr d cl.act fun _ => low (BitVec.ofNat 64 s.tick)).wr d cl.act (fun _ => high (BitVec.ofNat 64 s.tick)) 1) b t) ∧
    (∀ d, m.ops ≠ [] → Untagged m (Instr.tickC d).shape → Waits (.tickC d) s b t) ∧
    (∀ a o, m.context ≠ .normal → Untagged m (Instr.tlbinv a o).shape → (m.rd a 0).toNat < 8192 →
      (s.suiteOfAsid (asid a) = u ∨ m.context = .service) →
      let v := (begun s b t).sweep (asid a) (o.map fun o => (pair m o 0).toNat)
      let hit (pg : Page) : Prop := pg.asid = asid a ∧ ∀ p, o = some p → pg.covers (asid a) (pair m p 0).toNat = true
      (begun s b t).asidBusy (asid a) = false → Does (.tlbinv a o) s v b t ∧
        (∀ c k, (c, k) ∈ v.cores → ∀ pg ∈ k.tlb, ¬hit pg) ∧ (∀ p l, (p, l) ∈ v.postTlb → ∀ pg ∈ l, ¬hit pg)) ∧
    (∀ a o, m.context ≠ .normal → Untagged m (Instr.asidset a o).shape → s.suiteOfAsid (asid a) = u →
      (∀ p, o = some p → (pair m p 0).toNat % 131072 = 0) →
      Does (.asidset a o) s { begun s b t with roots := match o with
        | some p => Tab.put s.roots (asid a) (pair m p 0).toNat
        | none => Tab.erase s.roots (asid a) } b t) ∧
    (∀ i a, (i = .tlbinv a none ∨ i = .asidset a none ∨ i = .dbgstop a) → m.context = .normal → Untagged m i.shape →
      Traps i s b t cl 0x07 0 cl.pc) ∧
    (∀ a, Untagged m (Instr.eventWake a).shape → Does (.eventWake a) s (onBlock s b t fun y => { y with
      teams := y.teams.map fun n => match n.stall with | some (.sleep _) => { n with stall := none } | _ => n }) b t) ∧
    (∀ a, Untagged m (Instr.eventPost a).shape →
      ((s.suite u).evq.length < 16 → Does (.eventPost a) s
        (((begun s b t).modSuite u fun z => { z with evq := z.evq ++ [val m a 0] }).raiseCause u 1) b t) ∧
      (16 ≤ (s.suite u).evq.length → Does (.eventPost a) s ((begun s b t).modSuite u fun z => { z with evlost := z.evlost + 1 }) b t)) ∧
    (∀ a, m.context ≠ .normal → Untagged m (Instr.dbgstop a).shape →
      Does (.dbgstop a) s { begun s b t with armed := some (max (pair m a 0).toNat (s.tick + 64)) } b t) ∧
    (∀ a, Untagged m (Instr.tmark a).shape →
      let z := s.suite u
      let record := leBytes 16 (s.tick % 2 ^ 48 + x.core % 512 * 2 ^ 55 + x.core / 48 % 8 * 2 ^ 64 + m.slot % 256 * 2 ^ 67 + 1 * 2 ^ 75 +
        (val m a 0).toNat * 2 ^ 96)
      (z.trctl.getLsbD 63 = false → Does (.tmark a) s (begun s b t) b t) ∧
      (∀ w, z.trctl.getLsbD 63 = true → z.trlost = 0 → 1 < z.traceRoom →
        (begun s b t).engWrite (ostCore u) (z.trctl.toNat % 8192) (z.trbase.toNat + z.trhead.toNat) record = .ok w →
        Does (.tmark a) s (w.modSuite u fun z => { z with trhead := BitVec.ofNat 64 ((z.trhead.toNat + 16) % z.traceSize) }) b t))

/-- R423: `CSAVE` saves another block of its suite at a 256-aligned address and `CRESTORE` resumes one where a core takes it,
each with its status; both are privileged. -/
def Obligations.SaveAndRestoreInstructions : Prop :=
  ∀ s b t cl (d a c : Opnd), Executes s b t cl → isS d = true →
    let m := s.team b t
    let x := s.block b
    let own : Prop := m.context ≠ .normal
    (Untagged m (Instr.csave d a c).shape →
      let n := (m.rd a 0).toNat
      let addr := (pair m c 0).toNat
      (m.context = .normal → Traps (.csave d a c) s b t cl 0x07 0 cl.pc) ∧
      (own → addr % 256 ≠ 0 → Traps (.csave d a c) s b t cl 0x06 addr cl.pc) ∧
      (own → addr % 256 = 0 → (∀ p ∈ (begun s b t).residents (n / 32) (n % 32), ((begun s b t).block p).killed ≠ none) →
        Does (.csave d a c) s (onTeam s b t fun k => k.wr d cl.act fun _ => 1) b t) ∧
      (∀ p, own → addr % 256 = 0 → (begun s b t).residents (n / 32) (n % 32) = [p] → (s.block p).killed = none → p ≠ b →
        ((s.block p).suite = x.suite ∨ m.context = .service) → (s.block p).saving = none →
        let v := (begun s b t).modBlock p fun y => { y with saving := some addr, frameAsid := x.asid, forced := true, parked := true }
        v.saveReady p = true → v.frameMiss p addr = none →
        ∃ u, exec (.csave d a c) s = .next u ∧ (u.block p).saved = some addr ∧ (u.block p).savedAt = s.tick ∧ (u.team b t).rd d 0 = 0)) ∧
    (Untagged m (Instr.csave d a c).shape →
      let n := (m.rd a 0).toNat
      let addr := (pair m c 0).toNat
      ∀ p, own → addr % 256 = 0 → (begun s b t).residents (n / 32) (n % 32) = [p] → (s.block p).killed = none →
        (p = b → Does (.csave d a c) s (onTeam s b t fun k => k.wr d cl.act fun _ => 1) b t) ∧
        (p ≠ b → (s.block p).suite ≠ x.suite → m.context = .trap →
          Does (.csave d a c) s (onTeam s b t fun k => k.wr d cl.act fun _ => 2) b t)) ∧
    (Untagged m (Instr.crestore d a).shape →
      let addr := (pair m a 0).toNat
      (m.context = .normal → Traps (.crestore d a) s b t cl 0x07 0 cl.pc) ∧
      (own → addr % 256 ≠ 0 → Traps (.crestore d a) s b t cl 0x06 addr cl.pc) ∧
      (∀ r w p core f, own → addr % 256 = 0 → (begun s b t).engRead x.core x.asid addr 256 = .ok (.ok r, w) →
        w.frameOwner x.asid addr r = some p → p ≠ b → frameOk r = true →
        field r 20 1 = (w.block p).teams.length → field r 21 1 = (w.block p).regs →
        ((w.block p).suite = x.suite ∨ m.context = .service) → w.coreBack p (roomOfCore (w.block p).core) = some core →
        let v := w.modBlock p fun y => { y with saved := some addr, frameAsid := x.asid }
        v.frameRead p (FrameHdr.total (FrameHdr.of ((v.frameRead p 256).getD []))) = some f →
        ∃ u, exec (.crestore d a) s = .next u ∧ (u.block p).saved = none ∧ (u.block p).core = core ∧ (u.team b t).rd d 0 = 0) ∧
      (∀ r w p, own → addr % 256 = 0 → (begun s b t).engRead x.core x.asid addr 256 = .ok (.ok r, w) → w.frameOwner x.asid addr r = some p →
        let status (v : Word) : Prop := Does (.crestore d a) s (w.modTeam b t fun k => k.wr d cl.act fun _ => v) b t
        let good : Prop := frameOk r = true ∧ field r 20 1 = (w.block p).teams.length ∧ field r 21 1 = (w.block p).regs
        (¬good → status 4) ∧ (good → (w.block p).suite ≠ x.suite → m.context = .trap → status 2) ∧
        (good → (w.block p).suite = x.suite → w.coreBack p (roomOfCore (w.block p).core) = none → status 3)))

/-! ## Memory accesses (07, 09) -/

/-- R176-R182, R187, R418: a global access in range, aligned and not watched joins its team's outstanding ones with one piece for each
lane it serves, a store with its data, a load with its hint; the destination of a load is tagged; a load that finds the collector
full waits. A gather's null lanes get 0. Outside the address space it is `PROT` before it is `MISALIGN`, at the lowest such lane. -/
def Obligations.GlobalAccessesStart : Prop :=
  let hint : MOff → Nat
    | .reg _ => 0
    | .lit _ m => m.toNat % 4
  (∀ e ∈ ([
    (.ldgN8, 1, false, false), (.ldgI8, 1, true, false), (.ldgN16, 2, false, false), (.ldgI16, 2, true, false), (.ldgB32, 4, false, false),
    (.ldgB64, 8, false, false), (.ldgB128, 16, false, false), (.ldgcB32, 4, false, true), (.ldgcB64, 8, false, true)
    ] : List ((Opnd → Opnd → MOff → Instr) × Nat × Bool × Bool)), ∀ d a o,
    let n := e.2.1
    OnTeamWhen (e.1 d a o)
      (fun s b t cl => Unwatched (s.block b) ∧ InRange n ((accessing (uniOff a o) cl).map (address (s.team b t) a o)) ∧
        Collects s b t ((accessing (uniOff a o) cl).map fun l => (l, address (s.team b t) a o l)))
      (starts false fun cl m =>
        { kind := .load, dests := groupBytes d ((n + 3) / 4), uni := uniOff a o, sgn := e.2.2.1, const := e.2.2.2, hint := hint o,
          els := (accessing (uniOff a o) cl).map fun l => { lane := l, va := address m a o l, n := n } })) ∧
  (∀ e ∈ ([(.stgB8, 1), (.stgB16, 2), (.stgB32, 4), (.stgB64, 8), (.stgB128, 16)] : List ((Opnd → Opnd → MOff → Instr) × Nat)), ∀ d a o,
    OnTeamWhen (e.1 d a o)
      (fun s b t cl => Unwatched (s.block b) ∧ InRange e.2 ((accessing (uniOff a o) cl).map (address (s.team b t) a o)))
      (starts true fun cl m =>
        { kind := .store, uni := uniOff a o,
          els := (accessing (uniOff a o) cl).map fun l => { lane := l, va := address m a o l, n := e.2, data := dataOf m d e.2 l } })) ∧
  (let indexed (m : Team) (a i : Opnd) (n l : Nat) : Nat := (((pair m a l).toNat + (m.rd i l).toInt * n) % 18446744073709551616).toNat
    let live (m : Team) (a i : Opnd) (cl : Clause) := (accessing (isS a && isS i) cl).filter fun l => m.rd i l != 0x80000000
    let nulls (m : Team) (a i : Opnd) (cl : Clause) := if isS a && isS i then (if live m a i cl = [] then lanesOf cl.act else [])
      else (lanesOf cl.act).filter fun l => m.rd i l == 0x80000000
    (∀ e ∈ ([(.gatherB32, 4), (.gatherB64, 8)] : List ((Opnd → Opnd → Opnd → Instr) × Nat)), ∀ d a i,
      OnTeamWhen (e.1 d a i)
        (fun s b t cl => Unwatched (s.block b) ∧ InRange e.2 ((live (s.team b t) a i cl).map (indexed (s.team b t) a i e.2)) ∧
          Collects s b t ((live (s.team b t) a i cl).map fun l => (l, indexed (s.team b t) a i e.2 l)))
        (starts false fun cl m => { kind := .load, dests := groupBytes d (e.2 / 4), uni := isS a && isS i, gather := true
                                    writes := (nulls m a i cl).flatMap fun l =>
                                      (groupBytes d (e.2 / 4)).map fun r => (r * 16 + (if r < 96 then l else 0), 0)
                                    els := (live m a i cl).map fun l => { lane := l, va := indexed m a i e.2 l, n := e.2 } })) ∧
    (∀ e ∈ ([(.scatterB32, 4), (.scatterB64, 8)] : List ((Opnd → Opnd → Opnd → Instr) × Nat)), ∀ d a i,
      OnTeamWhen (e.1 d a i)
        (fun s b t cl => Unwatched (s.block b) ∧ InRange e.2 ((live (s.team b t) a i cl).map (indexed (s.team b t) a i e.2)))
        (starts true fun cl m => { kind := .store, uni := isS a && isS i
                                   els := (live m a i cl).map fun l =>
                                     { lane := l, va := indexed m a i e.2 l, n := e.2, data := dataOf m d e.2 l } }))) ∧
  (∀ a o, OnTeamWhen (.pref a o) (fun s b t cl => ∀ l ∈ accessing (uniOff a o) cl, address (s.team b t) a o l + 4 ≤ 2 ^ 56)
    (starts true fun cl m =>
      { kind := .prefetch, uni := uniOff a o, hint := hint o,
        els := (accessing (uniOff a o) cl).map fun l => { lane := l, va := address m a o l, n := 4 } })) ∧
  (∀ s b t cl d a o l, Executes s b t cl → Untagged (s.team b t) (Instr.ldgB32 d a o).shape → l ∈ accessing (uniOff a o) cl →
    let at_ := address (s.team b t) a o
    (∀ q ∈ accessing (uniOff a o) cl, q < l → at_ q + 4 ≤ 2 ^ 56 ∧ at_ q % 4 = 0) →
    (2 ^ 56 < at_ l + 4 → Traps (.ldgB32 d a o) s b t cl 0x07 (at_ l) cl.pc) ∧
    (at_ l + 4 ≤ 2 ^ 56 → at_ l % 4 ≠ 0 → Traps (.ldgB32 d a o) s b t cl 0x06 (at_ l) cl.pc)) ∧
  (∀ s b t cl d a o, Executes s b t cl → Untagged (s.team b t) (Instr.ldgB32 d a o).shape → Unwatched (s.block b) →
    InRange 4 ((accessing (uniOff a o) cl).map (address (s.team b t) a o)) →
    ¬Collects s b t ((accessing (uniOff a o) cl).map fun l => (l, address (s.team b t) a o l)) → Waits (.ldgB32 d a o) s b t) ∧
  (∀ s b t cl d a o l, Executes s b t cl → l ∈ accessing (uniOff a o) cl →
    let as := accessing (uniOff a o) cl
    let x := s.block b
    let at_ := address (s.team b t) a o
    InRange 4 (as.map at_) →
    let meets (ctl0 ctl1 q : Nat) : Prop :=
      let covers (base : DWord) (f : Nat) : Prop :=
        let z := if 2 ≤ f ∧ f ≤ 20 then f else 2
        base.toNat / 2 ^ z * 2 ^ z < at_ q + 4 ∧ at_ q < base.toNat / 2 ^ z * 2 ^ z + 2 ^ z
      (bit x.watchctl.toNat ctl0 = true ∧ covers x.watch0 (x.watchctl.toNat / 2 ^ 16 % 32)) ∨
      (bit x.watchctl.toNat ctl1 = true ∧ covers x.watch1 (x.watchctl.toNat / 2 ^ 21 % 32))
    (Untagged (s.team b t) (Instr.ldgB32 d a o).shape → meets 0 2 l → (∀ q ∈ as, q < l → ¬meets 0 2 q) →
      Traps (.ldgB32 d a o) s b t cl 0x11 (at_ l) cl.pc) ∧
    (Untagged (s.team b t) (Instr.stgB32 d a o).shape → meets 1 3 l → (∀ q ∈ as, q < l → ¬meets 1 3 q) →
      Traps (.stgB32 d a o) s b t cl 0x11 (at_ l) cl.pc))

/-- R173, R178-R180: lane-private accesses: a piece for each word, at its place in the interleave of the team's area. -/
def Obligations.LanePrivateAccessesStart : Prop :=
  let offset (m : Team) (a : Opnd) (o : MOff) (l : Nat) := address m a o l % 4294967296
  let inside (w n : Nat) (a : Opnd) (o : MOff) (s : State) (b t : Nat) (cl : Clause) : Prop := ∀ l ∈ accessing (uniOff a o) cl,
    offset (s.team b t) a o l + n ≤ (s.block b).lpsize ∧ offset (s.team b t) a o l % w = 0
  let piece (x : Block) (t l off i data : Nat) : Elem :=
    { lane := l, va := x.lpbase.toNat + t * 16 * x.lpsize + ((off + 4 * i) / 4 * 64 + l * 4 + (off + 4 * i) % 4), n := 4,
      data := data / 2 ^ (32 * i) % 2 ^ 32, reg := i, data2 := off + 4 * i }
  (∀ e ∈ ([(.ldlB32, 4), (.ldlB64, 8), (.ldlB128, 16)] : List ((Opnd → Opnd → MOff → Instr) × Nat)), ∀ d a o s b t cl,
    Executes s b t cl → Untagged (s.team b t) (e.1 d a o).shape → inside 4 e.2 a o s b t cl → Does (e.1 d a o) s (onTeam s b t
      (starts false (fun cl m =>
        { kind := .laneLoad, dests := groupBytes d (e.2 / 4), uni := uniOff a o,
          els := (accessing (uniOff a o) cl).flatMap fun l => (List.range (e.2 / 4)).map fun i =>
          piece (s.block b) t l (offset m a o l) i 0 }) cl (s.team b t))) b t) ∧
  (∀ e ∈ ([(.stlB32, 4), (.stlB64, 8), (.stlB128, 16)] : List ((Opnd → Opnd → MOff → Instr) × Nat)), ∀ d a o s b t cl,
    Executes s b t cl → Untagged (s.team b t) (e.1 d a o).shape → inside 4 e.2 a o s b t cl → Does (e.1 d a o) s (onTeam s b t
      (starts true (fun cl m =>
        { kind := .laneStore, uni := uniOff a o,
          els := (accessing (uniOff a o) cl).flatMap fun l => (List.range (e.2 / 4)).map fun i =>
          piece (s.block b) t l (offset m a o l) i (dataOf m d e.2 l) }) cl (s.team b t))) b t)

/-- R175, R183, R189, R220: stash accesses, each piece at its place in the stash, or at the global address of the mapping that
covers it; the bank counters count the extra passes, each of which takes an entry of the core's replay queue; an access that finds
the queue full waits. -/
def Obligations.StashAccessesStart : Prop :=
  let offset (m : Team) (a : Opnd) (o : MOff) (l : Nat) := address m a o l % 4294967296
  let queued (s : State) (b : Nat) : Nat :=
    (s.core (s.block b).core).replay - 2 * (s.tick - (s.core (s.block b).core).replayAt)
  let fits (s : State) (b t n : Nat) (offs : List Nat) : Prop :=
    Unwatched (s.block b) ∧ queued s b < 32 ∧ ∀ o ∈ offs, ((begun s b t).stashAt b o n).isSome = true ∧ o % n = 0
  let extra (s : State) (b t n : Nat) (offs : List Nat) (i : Nat) : Nat := (begun s b t).extraPasses ((begun s b t).stashWords b n offs) i
  let passes (s : State) (b t n : Nat) (offs : List Nat) : State :=
    let more := (List.range 32).foldl (fun a i => max a (extra s b t n offs i)) 0
    ((begun s b t).modCore (s.block b).core fun q => if more = 0 then q else { q with replay := queued s b + more, replayAt := s.tick }).modBlock b
      fun x => { x with banks := (List.range 32).foldl (fun k i => Tab.set 0 k i (BitVec.ofNat 32 (min 4294967295
        ((Tab.get 0 k i).toNat + extra s b t n offs i)))) x.banks }
  (∀ e ∈ ([(.ldsN8, 1, false), (.ldsI8, 1, true), (.ldsN16, 2, false), (.ldsI16, 2, true), (.ldsB32, 4, false), (.ldsB64, 8, false),
      (.ldsB128, 16, false)] : List ((Opnd → Opnd → MOff → Instr) × Nat × Bool)), ∀ d a o s b t cl,
    let n := e.2.1
    let offs := (accessing (uniOff a o) cl).map (offset (s.team b t) a o)
    let els := (accessing (uniOff a o) cl).map fun l => (begun s b t).stashElem b l (offset (s.team b t) a o l) n 0
    Executes s b t cl → Untagged (s.team b t) (e.1 d a o).shape → fits s b t n offs →
    Collects s b t ((els.filter fun e => e.via.any (·.1 == b)).map fun e => (e.lane, e.va)) →
    Does (e.1 d a o) s ((passes s b t n offs).modTeam b t (starts false (fun cl m =>
      { kind := .load, dests := groupBytes d ((n + 3) / 4), uni := uniOff a o, sgn := e.2.2,
        els := (accessing (uniOff a o) cl).map fun l => (begun s b t).stashElem b l (offset m a o l) n 0 }) cl (s.team b t))) b t) ∧
  (∀ e ∈ ([(.stsB8, 1), (.stsB16, 2), (.stsB32, 4), (.stsB64, 8), (.stsB128, 16)] : List ((Opnd → Opnd → MOff → Instr) × Nat)), ∀ d a o s b t cl,
    let offs := (accessing (uniOff a o) cl).map (offset (s.team b t) a o)
    Executes s b t cl → Untagged (s.team b t) (e.1 d a o).shape → fits s b t e.2 offs →
    Does (e.1 d a o) s ((passes s b t e.2 offs).modTeam b t (starts true (fun cl m =>
      { kind := .store, uni := uniOff a o, els := (accessing (uniOff a o) cl).map fun l =>
          (begun s b t).stashElem b l (offset m a o l) e.2 (dataOf m d e.2 l) }) cl (s.team b t))) b t) ∧
  (∀ e ∈ ([(.satomAdd, .add), (.satomMinN32, .minN), (.satomCas, .cas)] : List ((Opnd → Opnd → MOff → Instr) × AtomOp)), ∀ d a o s b t cl,
    let offs := (accessing (isS d) cl).map (offset (s.team b t) a o)
    Executes s b t cl → Untagged (s.team b t) (e.1 d a o).shape → fits s b t 4 offs →
    Does (e.1 d a o) s ((passes s b t 4 offs).modTeam b t (starts false (fun cl m =>
      { kind := .atomic e.2 false, dests := groupBytes d 1, uni := isS d, els := (accessing (isS d) cl).map fun l =>
          { (begun s b t).stashElem b l (offset m a o l) 4 (m.rd d l 0).toNat with data2 := if e.2 = .cas then (m.rd d l 1).toNat else 0 } })
      cl (s.team b t))) b t) ∧
  (∀ d a i s b t cl,
    let m := s.team b t
    let ls := (lanesOf cl.act).filter fun l => m.rd i l != 0x80000000
    let off (l : Nat) : Nat := (((pair m a l).toNat + 4 * (m.rd i l).toInt) % 4294967296).toNat
    let offs := (ls.map off).eraseDups
    Executes s b t cl → Untagged m (Instr.rhist d a i).shape → fits s b t 4 (ls.map off) →
    Does (.rhist d a i) s ((passes s b t 4 offs).modTeam b t (starts true (fun _ _ =>
      { kind := .atomic .add false, els := offs.filterMap fun o => (ls.find? fun l => off l == o).map fun l =>
          (begun s b t).stashElem b l o 4 (((ls.filter fun q => off q == o).map fun q => (m.rd d q).toNat).sum % 4294967296) }) cl m)) b t) ∧
  (∀ s b t cl d a o, Executes s b t cl → Untagged (s.team b t) (Instr.stsB32 d a o).shape → Unwatched (s.block b) → 32 ≤ queued s b →
    (∀ l ∈ accessing (uniOff a o) cl, ((begun s b t).stashAt b (offset (s.team b t) a o l) 4).isSome = true ∧ offset (s.team b t) a o l % 4 = 0) →
    Waits (.stsB32 d a o) s b t) ∧
  (∀ (s : State) b l off n data, off + n ≤ (s.block b).stashSize →
    ((∀ e ∈ (s.block b).maps, ¬(e.2.line ≤ off / 128 ∧ off / 128 < e.2.line + e.2.count)) →
      s.stashElem b l off n data = { lane := l, va := off, n := n, data := data, place := some (.stash b off) }) ∧
    (∀ i k r, (s.block b).maps = (i, k) :: r → k.line ≤ off / 128 → off / 128 < k.line + k.count →
      s.stashElem b l off n data = { lane := l, va := k.va + (off - k.line * 128), n := n, data := data, via := some (b, off / 128) }))

/-- R184-R186: `SMAP` binds a free slot where the lines are inside the stash, aligned and in no mapping, and clears them;
`SUNMAP` writes dirty lines back and frees the slot; `SFLUSH` writes back one slot or all. -/
def Obligations.MapInstructions : Prop :=
  ∀ s b t cl, Executes s b t cl →
    let m := s.team b t
    let x := s.block b
    (∀ d a c i, isS d = true → Untagged m (Instr.smap d a c).shape →
      let va := (pair m a 0).toNat
      let line := (val m c 0).toNat % 2048
      let n := (val m c 0).toNat / 2048 % 4096
      let status (w : Word) : Prop := Does (.smap d a c) s (onTeam s b t fun q => q.wr d cl.act fun _ => w) b t
      (((val m c 0).toNat / 8388608 ≠ 0 ∨ n = 0 ∨ va % 128 ≠ 0) → status 0xFFFFFFFC) ∧
      ((val m c 0).toNat / 8388608 = 0 → n ≠ 0 → va % 128 = 0 →
        (2 ^ 56 < va + n * 128 → Traps (.smap d a c) s b t cl 0x07 va cl.pc) ∧
        (va + n * 128 ≤ 2 ^ 56 → x.stashSize < (line + n) * 128 → status 0xFFFFFFFD) ∧
        (va + n * 128 ≤ 2 ^ 56 → (line + n) * 128 ≤ x.stashSize →
          let apart (k : MapEntry) : Prop :=
            (line + n ≤ k.line ∨ k.line + k.count ≤ line) ∧ (va + n * 128 ≤ k.va ∨ k.va + k.count * 128 ≤ va)
          ((∃ e ∈ x.maps, ¬apart e.2) → status 0xFFFFFFFE) ∧ ((∀ e ∈ x.maps, apart e.2) →
          ((∀ j < 16, (Tab.find x.maps j).isSome = true) → status 0xFFFFFFFF) ∧
          (i < 16 → Tab.find x.maps i = none → (∀ j < i, (Tab.find x.maps j).isSome = true) →
            (begun s b t).stashPending b line (line + n) = false →
            Does (.smap d a c) s ((onBlock s b t fun y => { y with
              maps := Tab.put y.maps i { va := va, line := line, count := n },
              stash := writeBytes y.stash (line * 128) (fill (n * 128) 0) }).modTeam b t fun q =>
                q.wr d cl.act fun _ => BitVec.ofNat 32 i) b t))))) ∧
    (∀ a, Untagged m (Instr.sunmap a).shape → Tab.find x.maps (val m a 0).toNat = none →
      Does (.sunmap a) s (onTeam s b t (starts true (fun _ _ => { kind := .value }) cl m)) b t) ∧
    (∀ a k, Untagged m (Instr.sunmap a).shape → Tab.find x.maps (val m a 0).toNat = some k →
      (begun s b t).stashPending b k.line (k.line + k.count) = false →
      Does (.sunmap a) s ((((begun s b t).flushSlot b (val m a 0).toNat).modBlock b fun y => { y with
        maps := Tab.erase y.maps (val m a 0).toNat }).modTeam b t (starts true (fun _ _ => { kind := .value }) cl m)) b t) ∧
    (∀ a, Untagged m (Instr.sflush a).shape →
      let flushed := if val m a 0 = 0xFFFFFFFF then (List.range 16).foldl (fun s i => s.flushSlot b i) (begun s b t)
        else (begun s b t).flushSlot b (val m a 0).toNat
      Does (.sflush a) s (flushed.modTeam b t (starts true (fun _ _ => { kind := .value }) cl m)) b t)

/-- R221-R223, R231: atomics, reductions and stage draws start one element for each active lane, or one for an s-register,
with their operands. -/
def Obligations.AtomicsStart : Prop :=
  let data (m : Team) (d : Opnd) (from_ n l : Nat) : Nat := ((List.range n).map fun i => (m.rd d l (from_ + i)).toNat * 2 ^ (32 * i)).sum
  let sys : MOff → Bool
    | .lit _ m => m.toNat == 20
    | .reg _ => false
  ∀ e ∈ ([
    (.atomAddI32, .add, false, 1, 4, 1, 0), (.atomAddF32, .addF, false, 1, 4, 1, 0), (.atomMinI32, .minI, false, 1, 4, 1, 0),
    (.atomMinN32, .minN, false, 1, 4, 1, 0), (.atomMaxI32, .maxI, false, 1, 4, 1, 0), (.atomMaxN32, .maxN, false, 1, 4, 1, 0),
    (.atomAnd, .and, false, 1, 4, 1, 0), (.atomOr, .or, false, 1, 4, 1, 0), (.atomXor, .xor, false, 1, 4, 1, 0),
    (.atomXchg, .xchg, false, 1, 4, 1, 0), (.atomCas, .cas, false, 1, 4, 1, 1), (.atomInc, .inc, false, 1, 4, 1, 0),
    (.atomAddW, .addW, false, 2, 8, 2, 0), (.atomMinW, .minW, false, 2, 8, 2, 0), (.atomCasW, .casW, false, 2, 8, 2, 2),
    (.redAddI32, .add, true, 0, 4, 1, 0), (.redAddF32, .addF, true, 0, 4, 1, 0), (.redMinW, .minW, true, 0, 8, 2, 0),
    (.redMaxN32, .maxN, true, 0, 4, 1, 0), (.stage, .stage, false, 4, 32, 0, 0)
    ] : List ((Opnd → Opnd → MOff → Instr) × AtomOp × Bool × Nat × Nat × Nat × Nat)),
  ∀ d a o,
    let op := e.2.1
    let setB := e.2.2.1
    let ret := e.2.2.2.1
    let n := e.2.2.2.2.1
    let words := e.2.2.2.2.2
    OnTeamWhen (e.1 d a o)
      (fun s b t cl => Unwatched (s.block b) ∧ InRange n ((accessing (isS d) cl).map (address (s.team b t) a o)))
      (starts setB fun cl m =>
        { kind := .atomic op (sys o), dests := groupBytes d ret, uni := isS d,
          els := (accessing (isS d) cl).map fun l =>
          { lane := l, va := address m a o l, n := n, data := data m d 0 words.1 l, data2 := data m d words.1 words.2 l } })

/-- R233-R239: `TXBEGIN` opens a transaction for each active lane, `TXABORT` aborts it, `TXEND` commits a lane whose locks are
free and whose reads still hold and aborts one whose reads changed, `TXSTAT` reports; a store inside is held in the core. -/
def Obligations.Transactions : Prop :=
  (∀ r, OnTeam (.txbegin (.v r)) fun cl _ n => (lanesOf cl.act).foldl (fun n l =>
    let x : Tx := ⟨r.val, cl.pc + 4 * cl.words.length, cl.prio, n.lastIssue, decide (3 ≤ (n.stat l).tries), [], [], [], []⟩
    { n with txs := Tab.set none n.txs l (some x)
             txstat := Tab.set {} n.txstat l { n.stat l with first := some ((n.stat l).first.getD n.lastIssue) } })
    (n.wr (.v r) cl.act fun _ => 0)) ∧
  (∀ s b t cl, Runs s b t cl →
    let m := s.team b t
    (∀ d, Untagged m (Instr.txstat d).shape → Does (.txstat d) s (onTeam s b t (startsValue d 1 (fun m l _ =>
      BitVec.ofNat 32 ((m.stat l).code + 256 * (m.stat l).detail + 65536 * (m.stat l).tries + (if (m.stat l).senior then 16777216 else 0)) |||
        (if (m.tx l).isSome then 0x80000000 else 0)) cl m)) b t) ∧
    (∀ a, Untagged m (Instr.txabort a).shape → Does (.txabort a) s (onTeam s b t fun n =>
      (lanesOf cl.act).foldl (fun n l => n.abortTx l 6 ((val m a 0).toNat % 256)) n) b t) ∧
    ((∀ l ∈ lanesOf cl.act, m.tx l = none) → Does .txend s (begun s b t) b t) ∧
    (∀ l x, l ∈ lanesOf cl.act → m.tx l = some x → (∀ q ∈ lanesOf cl.act, q ≠ l → m.tx q = none) → m.quiet = true →
      (let homes := ((x.rlines ++ x.wlines).map fun q => homeOfPa (q * 128)).eraseDups
        let c := (s.block b).core
        let v := homes.foldl (fun v h => v.release c h) (begun s b t)
        (begun s b t).locks b t l x = .free → (begun s b t).readsHold x = true → (∀ q ∈ x.rlines ++ x.wlines, v.mayServe q c = true) →
        (∀ h ∈ homes, (Tab.get [] (v.core c).unacked h).length < 32) →
        Does .txend s ((homes.foldl (fun v h => v.packetDone c h b t m.nextOp [] []) (v.commit b x)).modTeam b t fun n =>
            { n with nextOp := n.nextOp + 1, txs := Tab.set none n.txs l none, txstat := Tab.set {} n.txstat l {} }) b t) ∧
      ((begun s b t).locks b t l x = .refused ∨ ((begun s b t).locks b t l x = .free ∧ (begun s b t).readsHold x = false) →
        Does .txend s (onTeam s b t (·.abortTx l 2 0)) b t) ∧
      ((begun s b t).locks b t l x = .wait → Waits .txend s b t)) ∧
    (∀ d a o l x pg pa, Untagged m (Instr.stgB32 d a o).shape → cl.act = laneMask l → l < 16 → m.tx l = some x → Unwatched (s.block b) →
      InRange 4 [address m a o l] → (begun s b t).translateLane b t l (address m a o l) .store = (.ok pg, begun s b t) →
      pg.place (address m a o l) = .dev pa → (addNew (pa / 128) x.wlines).length ≤ 4 →
      let held := (leBytes 4 (dataOf m d 4 l)).zipIdx.foldl (fun k v => Tab.put k (pa + v.2) v.1) x.writes
      Does (.stgB32 d a o) s ((onTeam s b t fun n =>
        { n with txs := Tab.set none n.txs l (some { x with writes := held, wlines := addNew (pa / 128) x.wlines }) }).modTeam b t
          (starts true (fun _ _ => { kind := .store, uni := uniOff a o }) cl m)) b t)) ∧
  (∀ (m : Team) l x code detail, m.tx l = some x →
    let st : TxStat := { code := code, detail := detail, tries := min 255 ((m.stat l).tries + 1), senior := x.senior, first := (m.stat l).first }
    let n : Team := { m with txs := Tab.set none m.txs l none, txstat := Tab.set {} m.txstat l st,
                             vregs := Tab.set 0 m.vregs (x.reg * 16 + l) (BitVec.ofNat 32
                               (code + 256 * detail + 65536 * st.tries + (if x.senior then 16777216 else 0))) }
    (∀ cl, m.kept = none → m.clause = some cl → cl.mask.getLsbD l = true → m.abortTx l code detail =
      { n with clause := some { cl with act := cl.act &&& ~~~laneMask l, moves := cl.moves ++ [⟨l, x.abortPc, x.abortPrio⟩] } }) ∧
    (m.kept = none → m.clause = none → m.abortTx l code detail =
      { n with frontier := mergeAll (dropLanes (laneMask l) m.frontier ++ [⟨x.abortPc, x.abortPrio, laneMask l, none⟩]) }) ∧
    (∀ k, m.kept = some k → m.clause = none → k.clause.mask.getLsbD l = true → l < 16 → m.abortTx l code detail =
      { n with kept := some { k with clause := { k.clause with
          act := k.clause.act &&& ~~~laneMask l, moves := k.clause.moves ++ [⟨l, x.abortPc, x.abortPrio⟩] } } }))

/-! ## The steps of the memory system (07, 08, 09) -/

/-- R40, R193, R196, R207, R235: a piece of an access gets its page; a missing page suspends the access, a fatal one is delivered as a
delayed trap; a piece of a load or store performs at the stash that holds it, in its turn; an operation all of whose pieces have performed writes what it owes and is outstanding no longer; a transaction that
is too long aborts. -/
def Obligations.AccessesTranslateAndComplete : Prop :=
  (∀ s b t id o i e, (s.team b t).op id = some o → (o.kind = .load ∨ o.kind = .store ∨ o.kind = .laneLoad ∨ o.kind = .laneStore) →
    o.faulted = false → (s.block b).saved = none → o.indexed.find? (fun x => x.2.place.isNone) = some (i, e) → s.mayTranslate b t o e = true →
    (∀ pg w, s.translateElem b t o e = (.ok pg, w) →
      exec (.translationComplete b t id) s = .next (w.modOp b t id (·.setEl i { e with place := some (o.placeOf pg e), done := false }))) ∧
    (∀ ro w, s.translateElem b t o e = (.fault ro, w) →
      exec (.translationComplete b t id) s = .next
        { ((w.modTeam b t (·.cancelFrom id)).modBlock b fun x => { x with faulted := addNew t x.faulted }) with
          faults := w.faults ++ [
            { asid := w.accessAsid b e, va := e.va / 4096 * 4096, readOnly := ro, who := .block b, t := t, pc := o.pc, addr := e.va,
              kind := if o.kind = .store ∨ o.kind = .laneStore then 1 else 0, op := some id }] }) ∧
    (∀ w, s.translateElem b t o e = (.fatal, w) →
      exec (.translationComplete b t id) s = .next (w.modTeam b t fun m =>
        let n := m.discardFrom id
        { n with delayed := n.delayed ++ [{ code := .pagefatal, pc := o.pc, addr := e.va }] }))) ∧
  (∀ s b t id o i e h off, (s.team b t).op id = some o → (o.kind = .load ∨ o.kind = .store) → (s.block b).saved = none →
    s.nextLocal b t o = some (i, e) → e.place = some (.stash h off) →
    let w := s.meetAt b h
    let got := if o.kind = .load then ofLe (readBytes (s.block h).stash off e.n) else 0
    let v := if o.kind = .load then w.doneEl b t id i got
      else ((w.modBlock h fun x => { x with stash := writeBytes x.stash off (leBytes e.n e.data) }).doneEl b t id i 0).clearStored b t id
    ((∃ j y, j ≠ i ∧ o.els[j]? = some y ∧ y.done = false) → exec (.longLatencyComplete (.team b t) id) s = .next v) ∧
    ((∀ j y, j ≠ i → o.els[j]? = some y → y.done = true) →
      exec (.longLatencyComplete (.team b t) id) s = .next (v.modTeam b t fun m =>
        let n := (o.setEl i { e with done := true, got := got }).results.foldl (fun m w => m.writeKeyed w.1 w.2) m
        Team.freed { n with ops := n.ops.filter (·.id != id) }))) ∧
  (∀ s b t id o, (s.team b t).op id = some o → (o.kind = .load ∨ o.kind = .store ∨ o.kind = .value ∨ o.kind = .prefetch) →
    (s.block b).saved = none → (∀ e ∈ o.els, e.done = true) →
    exec (.longLatencyComplete (.team b t) id) s = .next (s.modTeam b t fun m =>
      let n := o.results.foldl (fun m w => m.writeKeyed w.1 w.2) m
      Team.freed { n with ops := n.ops.filter (·.id != id) })) ∧
  (∀ (m : Team), m.freed = if m.done = true ∧ m.ops = [] then { m with tags := [], lpTouched := [], lpData := [] } else m) ∧
  (∀ (o : Op), o.ecc = false → o.uni = false →
    o.results = o.writes ++ o.els.flatMap fun e => ((o.dests.drop e.reg).zip (wordsOf e.n o.sgn e.got)).map fun p =>
      (p.1 * 16 + (if p.1 < 96 then e.lane else 0), p.2)) ∧
  (∀ s b t l x, (s.team b t).tx l = some x → x.begun + 65536 ≤ s.tick →
    exec (.txTimeout b t l) s = .next (s.modTeam b t (·.abortTx l 3 0)))

/-- R200, R203, R205, R220, R223, R228: a store's next piece performs at its home, after what comes earlier in its lane's program order, or
leaves provisional and commits later; an
atomic's elements of one line perform in lane order, with a packet to the home; a packet is resent and its reply released; the
logical clock passes. -/
def Obligations.HomesPerform : Prop :=
  (∀ s b t id o i e, (s.team b t).op id = some o → o.kind = .store → (s.team b t).nextStore o = some (i, e) →
    s.elServed (s.block b).core e = true →
    let v := ((s.storePiece b e).doneEl b t id i 0).clearStored b t id
    (o.prov = false → o.faulted = false → (s.block b).saved = none → s.lineHeld e = true → s.viaUp e = true → exec (.homeStore b t id) s = .next v) ∧
    (o.prov = true → exec (.provisionalCommit b t id) s = .next (v.modOp b t id fun o => { o with prov := !o.performed })) ∧
    (e.isHost = false → o.uni = false → e.lane < 16 → ∀ q ∈ (s.team b t).before id, (q.kind = .load ∨ q.kind = .store) →
      ∀ z ∈ q.els, (q.uni = false → z.lane = e.lane) → (q.uni = true → laneIn q.act e.lane = true) → z.done = true ∨ z.isHost = true)) ∧
  (∀ s b t id o, (s.team b t).op id = some o → o.kind = .store → o.prov = false → o.faulted = false → (s.block b).saved = none →
    (s.team b t).nextStore o = none → o.els ≠ [] → (∀ e ∈ o.els, ∃ pa, e.place = some (.dev pa) ∧ e.via = none) →
    (∃ q ∈ (s.team b t).before id, q.kind = .store ∧ q.translated = false) → s.provisional (s.block b).core < 64 →
    exec (.homeStore b t id) s = .next (s.modOp b t id fun o => { o with prov := true })) ∧
  (∀ (s : State) b e pa, e.place = some (.dev pa) → e.via = none → pa % 128 + e.n ≤ 128 → 0 < e.n → s.holder (pa / 128) = none →
    Memory.wf s.mem = true →
    let u := s.storePiece b e
    (∀ a, readBytes u.mem a 1 = if pa ≤ a ∧ a < pa + e.n then (leBytes e.n e.data).drop (a - pa) |>.take 1 else readBytes s.mem a 1) ∧
    (u.homeLine (pa / 128)).wts = max (s.pts (s.block b).core) ((s.homeLine (pa / 128)).rts + 1) ∧
    (u.homeLine (pa / 128)).rts = (u.homeLine (pa / 128)).wts ∧ u.blocks = s.blocks ∧ u.hostMem = s.hostMem) ∧
  (∀ s b t id o a sys i e pa, (s.team b t).op id = some o → o.kind = .atomic a sys → o.faulted = false → o.translated = true →
    (s.team b t).earlierTranslated id = true → (s.block b).saved = none → o.first (fun e => !e.isHost) = some (i, e) →
    e.place = some (.dev pa) → (∀ z ∈ o.els, z.done = false → (s.team b t).earlierFor id (o.lanes z) = true) →
    (∀ z ∈ o.els, z.done = false → z.via = none ∧ ∃ q, z.place = some (.dev q) ∧ q / 128 = pa / 128) →
    let c := (s.block b).core
    let l := pa / 128
    let h := homeOfPa (l * 128)
    s.provisionalOn c l = false → s.mayServe l c = true → (Tab.get [] ((s.release c h).core c).unacked h).length < 32 →
    let mine := o.indexed.filter fun x => !x.2.done
    let r := mine.foldl (fun (z : State × List Nat) x => let y := z.1.atomicPiece b t o a x.1 x.2; (y.1, z.2 ++ [y.2]))
      ((s.release c h).readBy (s.block b).asid l, [])
    exec (.homeAtomic b t id) s = .next (r.1.packetDone c h b t id (mine.map Prod.fst) r.2)) ∧
  (∀ (s u : State) b t id (o o' : Op), (s.team b t).op id = some o → (u.team b t).op id = some o' → exec (.homeAtomic b t id) s = .next u →
    ∀ (i j : Nat) (e z : Elem), i < j → o'.els[i]? = some e → o'.els[j]? = some z → z.done = true → (∀ y, o.els[j]? = some y → y.done = false) →
      (∃ pa, e.place = some (.dev pa)) → e.done = true) ∧
  (∀ s c h q r, (Tab.get [] (s.core c).unacked h).find? (fun q => !s.acked q) = some q →
    (Tab.get [] s.replies (h * 512 + c)).find? (fun z => z.seq == q.seq) = some r →
    exec (.atomicResend c h) s = .next ((q.idx.zip r.values).foldl (fun s p => s.doneEl q.b q.t q.op p.1 p.2) s)) ∧
  (∀ s c h, Tab.wf {} s.cores = true → Tab.wf [] (s.core c).unacked = true → Tab.wf [] s.replies = true →
    ∃ u, exec (.replyCacheRelease c h) s = .next u ∧
    (∀ q ∈ Tab.get [] (u.core c).unacked h, q.replied = false ∧ (s.team q.b q.t).op q.op ≠ none) ∧
    (∀ d g, (d ≠ c ∨ g ≠ h) → Tab.get [] (u.core d).unacked g = Tab.get [] (s.core d).unacked g) ∧
    (∀ k, k ≠ h * 512 + c → Tab.get [] u.replies k = Tab.get [] s.replies k) ∧ u.mem = s.mem ∧ u.blocks = s.blocks) ∧
  (∀ s, ∃ u, exec .ptsTick s = .next u ∧ (∀ c, u.pts c = s.pts c + 1) ∧ u.tick = s.tick + 16 - s.tick % 16 ∧
    u = { s with tick := u.tick, ptsTime := s.ptsTime + 1 })

/-- R223, R230, R231: what each atomic returns and leaves at its address; a stage draw takes a guided share of what remains. -/
def Obligations.AtomicResults : Prop :=
  (∀ e ∈ ([
    (.add, fun o x _ => (o + x) % 4294967296),
    (.minI, fun o x _ => if (BitVec.ofNat 32 x).toInt < (BitVec.ofNat 32 o).toInt then x else o),
    (.maxI, fun o x _ => if (BitVec.ofNat 32 o).toInt < (BitVec.ofNat 32 x).toInt then x else o),
    (.minN, fun o x _ => if x < o then x else o),
    (.maxN, fun o x _ => if o < x then x else o),
    (.and, fun o x _ => o &&& x),
    (.or, fun o x _ => o ||| x),
    (.xor, fun o x _ => o ^^^ x),
    (.xchg, fun _ x _ => x),
    (.cas, fun o x y => if o = x then y else o),
    (.inc, fun o x _ => if x ≤ o then 0 else o + 1),
    (.addW, fun o x _ => (o + x) % 18446744073709551616),
    (.minW, fun o x _ => if x < o then x else o),
    (.casW, fun o x y => if o = x then y else o),
    (.addF, fun o x _ => (fmtF32.rnd (sumVals 0 [fmtF32.val o, fmtF32.val x]) 0 false 0).bits)
    ] : List (AtomOp × (Nat → Nat → Nat → Nat))),
    ∀ n o x y, (e.1 = .minI ∨ e.1 = .maxI → o < 4294967296 ∧ x < 4294967296) → atomicStep e.1 n o x y = (o, leBytes n (e.2 o x y))) ∧
  (∀ n next last minimum maximum div : Nat, next < 2 ^ 64 → last < 2 ^ 64 → minimum < 2 ^ 32 → maximum < 2 ^ 32 → div < 2 ^ 32 →
    let rem := last - next
    let hi := max 1 maximum
    let lo := min hi (max 1 minimum)
    let c := if rem = 0 then 0 else min (min hi (max lo ((rem + max 1 div - 1) / max 1 div))) rem
    atomicStep .stage n (next + last * 2 ^ 64 + minimum * 2 ^ 128 + maximum * 2 ^ 160 + div * 2 ^ 192) 0 0 =
      (next + c * 2 ^ 64 + min (rem - c) 0xFFFFFFFF * 2 ^ 96, leBytes 8 ((next + c) % 2 ^ 64)))

/-- R177, R188, R203, R204: requests of a core for a line without an entry open one, which leaves after 16 core clocks with the
requests that have joined it, 32 if a gather opened it; a line that is live in L1 serves them; the home extends the lease and answers
with the line; the line enters L1 in the rank that its requests' hints give, and serves every request. -/
def Obligations.CollectorSteps : Prop :=
  (∀ s c l, let reqs := s.coreReqs c l
    let entry : CollEntry := { line := l, const := reqs.any (s.reqIs (·.const)), reqs := reqs, opened := s.tick
                               gather := (reqs.take 1).any (s.reqIs (·.gather)) }
    let live (x : L1Line) : Prop := Tab.find (s.core c).l1 l = some x ∧ s.pts c ≤ x.rts ∧ ∀ q ∈ reqs, s.isFill q = false
    s.sectorMode = false →
    (reqs ≠ [] → (s.core c).collector.length < 64 → (∀ e ∈ (s.core c).collector, e.line ≠ l) →
      ((∀ x, ¬live x) → exec (.collectorSend c l) s = .next (s.modCore c fun k => { k with collector := k.collector ++ [entry] })) ∧
      (∀ x, live x → exec (.collectorSend c l) s = .next (s.modCore c fun k => { k with collector := k.collector ++
        [{ entry with state := .homed x.data [] x.wts x.rts }] }))) ∧
    (∀ e, (s.core c).collector.find? (fun e => e.line == l) = some e → e.state = .held → (∀ x, ¬live x) →
      e.opened + (if e.gather then 16 else 8) ≤ s.tick →
      exec (.collectorSend c l) s = .next (s.modCore c fun k => { k with collector := k.collector.map fun y =>
        if y.line = l then { y with reqs := reqs, const := entry.const, state := .sent } else y }))) ∧
  (∀ s c l e, (s.core c).collector.find? (fun e => e.line == l && e.state == .sent) = some e → s.provisionalOn c l = false →
    s.mayServe l c = true → (∀ q ∈ s.coreReqs c l, s.isFill q = false) → (∀ i < 4, ¬ l * 4 + i ∈ s.poison) →
    let reqs := s.coreReqs c l
    let const := reqs.any (s.reqIs (·.const))
    let len := if const then 1024 else 16
    let rts := max (s.homeLine l).rts (s.pts c + len)
    ∃ u, exec (.homeLoad c l) s = .next u ∧ (u.homeLine l).rts = rts ∧ (u.homeLine l).wts = (s.homeLine l).wts ∧
      u.pts c = max (s.pts c) (s.homeLine l).wts ∧ u.mem = s.mem ∧ u.blocks = s.blocks ∧
      (u.core c).collector = (s.core c).collector.map fun x => if x.line = l then
        { x with state := .homed (s.lineBytes l) [] (s.homeLine l).wts (min rts (u.pts c + len - 1)), reqs := reqs, const := const } else x) ∧
  (∀ s c l e data bad wts rts, (s.core c).collector.find? (fun e => e.line == l) = some e → e.state = .homed data bad wts rts →
    let v := s.modCore c fun k => { k with
      collector := k.collector.filter (·.line != l), l1 := if bad = [] then k.l1 else Tab.erase k.l1 l }
    let kept (w : State) : Prop := exec (.collectorLineReturn c l) s = .next (e.reqs.foldl (fun s q => s.serve l data bad q) w)
    ((bad ≠ [] ∨ ∀ q ∈ e.reqs, ∀ o z, v.reqEl q = some (o, z) → o.hint = 3) → kept v) ∧
    (∀ q o z, bad = [] → e.reqs = [q] → v.reqEl q = some (o, z) → o.hint < 3 →
      kept (v.fillL1 c l data wts rts (if o.const = true ∨ o.hint = 2 then 2 else if o.hint = 1 then 0 else 1)))) ∧
  (∀ (s : State) c l data wts rts rank,
    ((s.core c).l1.length < s.l1Lines c → s.fillL1 c l data wts rts rank = s.modCore c fun k => { k with
      l1 := Tab.put k.l1 l ⟨data, wts, rts, rank, s.tick⟩ })) ∧
  (∀ (s : State) l data q o e pa, s.reqEl q = some (o, e) → o.kind = .load → e.done = false → e.place = some (.dev pa) → pa / 128 = l →
    pa % 128 + e.n ≤ data.length → s.serve l data [] q = s.doneEl q.b q.t q.op q.i (ofLe ((data.drop (pa % 128)).take e.n)))

/-! ## Copies, jobs, rings, stamps, forks (10, 12) -/

/-- R243-R246, R253, R254, R257, R267-R269, R316, R317: a job instruction takes an entry of its core's queue, gets the next job number,
its token register is tagged, and the engine has its record. A `COPY` opens a collective copy or joins one. -/
def Obligations.JobsAreSubmitted : Prop :=
  ∀ s b t cl, Executes s b t cl →
    let m := s.team b t
    let x := s.block b
    let free (w : State) : Prop := w.entries x.core < 32
    let slice (r : List Byte) : Slice :=
      { src := if bit (field r 20 1) 0 then field r 0 4 else field r 0 8, dst := if bit (field r 20 1) 1 then field r 8 4 else field r 8 8
        len := field r 16 4, srcStash := bit (field r 20 1) 0, dstStash := bit (field r 20 1) 1 }
    let foot (z : Slice) : List Foot := [⟨z.src, z.len, z.srcStash, true, false⟩, ⟨z.dst, z.len, z.dstStash, false, true⟩]
    let near (v w : State) (sel : Bool) : State := { v with nearQueue := v.nearQueue ++ [(x.core / 48, sel, w.nextJob)] }
    (∀ d a c r w, Untagged m (Instr.copy d a c).shape → RecordAt (begun s b t) b t (m.rd a 0).toNat 32 32 r w →
      let n := (val m c 0).toNat
      1 ≤ n → n ≤ 64 →
      ((∀ e ∈ w.openCopies b, e.1 ∈ m.joined) → (w.openCopies b).length < 4 → free w →
        Does (.copy d a c) s (submitted s w b t cl (issuedJob s b t cl (some d) (.copy [slice r] n)
          (if bit (field r 20 1) 2 then some (field r 21 1 % 16) else none) (foot (slice r)) r) (some d)
          fun q => { q with joined := q.joined ++ [w.nextJob] }) b t) ∧
      (∀ j y zs, (w.openCopies b).find? (fun e => !m.joined.contains e.1) = some (j, n) → Tab.find w.jobs j = some y → y.kind = .copy zs n →
        Does (.copy d a c) s ({ w with jobs := Tab.put w.jobs j { y with
            kind := .copy (zs ++ [slice r]) n, foot := y.foot ++ foot (slice r),
            toks := y.toks ++ [(⟨t, tokenReg d, m.jobs + 1, m.nextOp⟩ : JobTok)] } }.modTeam b t fun q =>
          starts true (fun _ _ => { kind := .value }) cl m { holdsToken (some d) q with joined := q.joined ++ [j] }) b t)) ∧
    (∀ d a r w, Untagged m (Instr.copyr d a).shape → RecordAt (begun s b t) b t (val m a 0).toNat 32 32 r w → free w →
      let k : Remote := { put := field r 22 1 == 0, peer := field r 20 1 % 64, suite := field r 21 1 % 8, raddr := field r 8 8
                          laddr := if bit (field r 0 8) 63 then field r 0 4 else field r 0 8, stash := bit (field r 0 8) 63, len := field r 16 4 }
      Does (.copyr d a) s (submitted s w b t cl (issuedJob s b t cl (some d)
        (if 1 < field r 22 1 then .bad 22 else .remote k) none [] r) (some d) id) b t) ∧
    (∀ d a c, Untagged m (Instr.layout d a c).shape → (val m c 0).toNat ≤ 7 → (pair m a 0).toNat % 64 = 0 → free (begun s b t) →
      Does (.layout d a c) s (submitted s (begun s b t) b t cl (issuedJob s b t cl (some d)
        (.layout (pair m a 0).toNat (val m c 0).toNat none) none [⟨(pair m a 0).toNat, 64, false, true, false⟩] []) (some d) id) b t) ∧
    (∀ d a r w, Untagged m (Instr.stream d a).shape → RecordAt (begun s b t) b t (val m a 0).toNat 32 32 r w → free w →
      Does (.stream d a) s (submitted s w b t cl (issuedJob s b t cl (some d) (.stream (StreamRec.of r none))
        (if bit (field r 1 1) 1 then some (field r 3 1 % 16) else none) [] r) (some d) id) b t) ∧
    (∀ d a r w, Untagged m (Instr.jobcard d a).shape → RecordAt (begun s b t) b t (val m a 0).toNat 128 32 r w → free w →
      let job := issuedJob s b t cl (some d) (cardKind r) (if bit (field r 3 1) 0 then some (field r 4 1 % 16) else none) (cardFoot r) r
      let v := submitted s w b t cl job (some d) id
      ((∀ sel kind, cardKind r ≠ .near sel kind r false none) → Does (.jobcard d a) s v b t) ∧
      (∀ sel kind, cardKind r = .near sel kind r false none → Does (.jobcard d a) s (near v w sel) b t)) ∧
    (∀ e ∈ ([(.pklq, 3), (.pklg, 4), (.seljob, 5)] : List ((Opnd → Src → Instr) × Nat)), ∀ d a r w,
      Untagged m (e.1 d a).shape → RecordAt (begun s b t) b t (val m a 0).toNat 128 32 r w → free w →
      let bar := if bit (field r 3 1) 0 then some (field r 4 1 % 16) else none
      (field r 0 2 = e.2 → Does (e.1 d a) s (near (submitted s w b t cl (issuedJob s b t cl (some d)
        (.near (e.2 == 5) e.2 r false none) bar (nearFoot e.2 r) r) (some d) id) w (e.2 == 5)) b t) ∧
      (field r 0 2 ≠ e.2 → Does (e.1 d a) s (submitted s w b t cl (issuedJob s b t cl (some d) (.bad 0) bar [] r) (some d) id) b t)) ∧
    (∀ d a r w, Untagged m (Instr.copyr d a).shape → RecordAt (begun s b t) b t (val m a 0).toNat 32 32 r w → ¬free w → Waits (.copyr d a) s b t)

/-- R249-R251: a fork opens with its first arrival, checks and votes, and its last arrival starts its programs with the value as
the block's format word; a rendezvous waits for them and answers the first status that is not `OK`. -/
def Obligations.ForksAndRendezvous : Prop :=
  ∀ s b t cl, Executes s b t cl →
    let m := s.team b t
    let x := s.block b
    let starting : Team → Team := starts true (fun _ _ => { kind := .value }) cl m
    let live (f : ForkRun) : Prop := f.mtx = true ∨ none ∈ f.codes
    (∀ a c r w v, Untagged m (Instr.fork a c).shape → x.fork = none → (∀ f, x.forkRun = some f → ¬live f) →
      RecordAt (begun s b t) b t (val m c 0).toNat 64 64 r w → field r 10 1 ≤ 4 →
      let offs := (List.range (field r 10 1)).map fun i => field r (16 + 4 * i) 4
      let want := if field r 8 2 = 0 then x.teams.length else field r 8 2
      (∀ o ∈ offs, o % 32 = 0 ∧ o + 32 ≤ x.stashSize) → field r 0 8 < 2 ^ 56 → field r 0 8 % 4 = 0 → (field r 0 8 ≠ 0 → x.usesMtx = true) →
      fwPlain v = true → (∀ l ∈ lanesOf cl.act, m.rd a l = v) → 1 < want →
      Does (.fork a c) s ((w.modBlock b fun y => { y with forkImage := r, fork := some (⟨v, t, want, 1, field r 0 8, offs⟩ : Fork) }).modTeam b t starting) b t) ∧
    (∀ a c f, Untagged m (Instr.fork a c).shape → x.fork = some f → (∀ l ∈ lanesOf cl.act, m.rd a l = f.value) →
      (f.arrivals + 1 < f.expected → Does (.fork a c) s ((onBlock s b t fun y => { y with
        fork := some { f with arrivals := f.arrivals + 1 } }).modTeam b t starting) b t) ∧
      (f.expected ≤ f.arrivals + 1 → f.srecs = [] →
        let v := onBlock s b t fun y => { y with fmtWord := f.value, fork := none, forkRun := some ⟨f.owner, [], f.mstream != 0⟩ }
        Does (.fork a c) s ((if f.mstream = 0 then v else v.startMatrix b f.mstream f.value m.fmode x.codebooks).modTeam b t starting) b t)) ∧
    (∀ a c f, Untagged m (Instr.fork a c).shape → x.fork = some f → (∃ l ∈ lanesOf cl.act, m.rd a l ≠ f.value) →
      m.context ≠ .trap → ∀ q w, MarkedAt (onTeam s b t (noted 0x08 cl.pc 0 cl.pc)) b x.trapvec q w →
        ∃ u, exec (.fork a c) s = .next u ∧ (u.team b t).context = .trap ∧ (u.team b t).trapcode = 0x08 ∧ (u.block b).fork = some f) ∧
    (∀ d, Untagged m (Instr.rendez (some d)).shape → isS d = true → x.mtx.trap = none → x.fork = none →
      (∀ f, x.forkRun = some f → ¬live f →
        Does (.rendez (some d)) s (onTeam s b t fun n => n.wr d cl.act fun _ =>
          ((f.codes.filterMap id).find? fun w => w.toNat % 256 != 0).getD 0) b t) ∧
      (x.forkRun = none → Does (.rendez (some d)) s (onTeam s b t fun n => n.wr d cl.act fun _ => 0) b t) ∧
      (∀ f, x.forkRun = some f → live f → Waits (.rendez (some d)) s b t)) ∧
    (x.mtx.trap = none → x.fork = none → (∀ f, x.forkRun = some f → ¬live f) → Does (.rendez none) s (begun s b t) b t) ∧
    (x.mtx.trap = none → x.fork ≠ none → Waits (.rendez none) s b t)

/-- R258-R264, R271, R272: a ring's header is written by `RINIT`; `RAWAIT` hands out the next ready slot, `RRELEASE`, after the
team's earlier accesses, gives one back in ring order, `RSTAT` reports the counters. A slot that all its sharers have released leaves, oldest first: free again in a
fill ring, filled in a drain ring. Tile stamps open, take each event's tick once, and are written as a record when retired. -/
def Obligations.RingAndStampInstructions : Prop :=
  (∀ s b t cl, Executes s b t cl →
      let m := s.team b t
      let x := s.block b
      let at_ (hdr : Nat) (r : Ring) (h : RingHdr) (w : State) : Prop := hdr + 32 ≤ x.stashSize ∧ hdr % 32 = 0 ∧ x.ring hdr = some r ∧
        ∃ bytes, (begun s b t).stashGet b hdr 32 = .ok (bytes, w) ∧ h = RingHdr.of bytes
      let put (w z : State) (hdr : Nat) (r : Ring) (h : RingHdr) : Prop := (w.modBlock b (·.setRing hdr r)).stashPut b (hdr + 8)
        (leBytes 4 (h.wptr % 2 ^ 32) ++ leBytes 4 (h.rptr % 2 ^ 32) ++ leBytes 4 (h.free % 2 ^ 32) ++ leBytes 4 (h.filled % 2 ^ 32) ++
          leBytes 4 (h.held % 2 ^ 32)) = .ok z
      (∀ d a c, isS d = true → Untagged m (Instr.rinit d a c).shape →
        let hdr := (m.rd a 0).toNat
        let cfg := (val m c 0).toNat
        let slots := cfg % 128
        let size := cfg / 4096 % 4096 * 32
        let status (w : Word) : Prop := Does (.rinit d a c) s (onTeam s b t fun n => n.wr d cl.act fun _ => w) b t
        (cfg ≠ 0 → (slots = 0 ∨ 64 < slots ∨ size = 0 ∨ 65536 < size) → status 0xFFFFFFFC) ∧
        (cfg = 0 → hdr % 32 ≠ 0 → status 0xFFFFFFFD) ∧
        (cfg = 0 → hdr % 32 = 0 → x.ring hdr = none → (begun s b t).ringNamed b hdr = false →
          Does (.rinit d a c) s ((onBlock s b t fun y => { y with rings := Tab.erase y.rings hdr }).modTeam b t fun n =>
            n.wr d cl.act fun _ => 0) b t) ∧
        (1 ≤ slots → slots ≤ 64 → 32 ≤ size → size ≤ 65536 → cfg / 128 % 2 = 0 → cfg / 1024 % 4 = 0 → hdr % 32 = 0 →
          hdr + 32 + slots * size ≤ x.stashSize → x.ring hdr = none → (begun s b t).ringNamed b hdr = false → x.rings.length < 16 →
          ∀ z, (onBlock s b t (·.setRing hdr {})).stashPut b hdr (leBytes 1 slots ++ leBytes 1 (cfg / 256 % 4) ++ leBytes 1 0 ++
            leBytes 1 (max 1 (cfg / 16777216)) ++ leBytes 4 size ++ leBytes 8 0 ++ leBytes 4 slots ++ leBytes 8 0 ++ leBytes 4 0) = .ok z →
          Does (.rinit d a c) s (z.modTeam b t fun n => n.wr d cl.act fun _ => 0) b t)) ∧
      (∀ d a r h w, isS d = true → Untagged m (Instr.rawait d a).shape → at_ (val m a 0).toNat r h w → h.slots ≠ 0 → h.mode % 2 = 0 →
        let hdr := (val m a 0).toNat
        (∀ i k, r.cur = some (i, k) → k < h.share → Does (.rawait d a) s
          ((w.modBlock b (·.setRing hdr { r with cur := some (i, k + 1) })).modTeam b t fun n =>
            n.wr d cl.act fun _ => BitVec.ofNat 32 (hdr + 32 + i * h.size)) b t) ∧
        ((∀ i k, r.cur = some (i, k) → h.share ≤ k) →
          let cur (i : Nat) : Ring := { r with cur := some (i, 1), rel := Tab.set 0 r.rel i 0 }
          (h.mode = 0 → 0 < h.filled → ∀ z, put w z hdr (cur (h.rptr % h.slots))
              { h with rptr := h.rptr + 1, filled := h.filled - 1, held := h.held + 1 } →
            Does (.rawait d a) s (z.modTeam b t fun n => n.wr d cl.act fun _ => BitVec.ofNat 32 (hdr + 32 + h.rptr % h.slots * h.size)) b t) ∧
          (h.mode = 2 → 0 < h.free → ∀ z, put w z hdr (cur ((h.wptr + h.held) % h.slots))
              { h with free := h.free - 1, held := h.held + 1 } →
            Does (.rawait d a) s (z.modTeam b t fun n =>
              n.wr d cl.act fun _ => BitVec.ofNat 32 (hdr + 32 + (h.wptr + h.held) % h.slots * h.size)) b t) ∧
          ((h.mode = 0 ∧ h.filled = 0 ∨ h.mode = 2 ∧ h.free = 0) → Waits (.rawait d a) s b t))) ∧
      (∀ a c, Untagged m (Instr.rrelease a c).shape → m.calm = false → Waits (.rrelease a c) s b t) ∧
      (∀ a c r h w i, Untagged m (Instr.rrelease a c).shape → m.calm = true → at_ (m.rd a 0).toNat r h w → h.size ≠ 0 →
        let hdr := (m.rd a 0).toNat
        (val m c 0).toNat = hdr + 32 + i * h.size → (∃ j < min h.held h.slots, (h.oldest + j) % h.slots = i) → Tab.get 0 r.rel i < h.share →
        let y := ringSettle h.slots { r with rel := Tab.set 0 r.rel i (Tab.get 0 r.rel i + 1) } h
        ∀ z, put w z hdr y.1 y.2 → Does (.rrelease a c) s z b t) ∧
      (∀ d a r h w, isS d = true → Untagged m (Instr.rstat d a).shape → at_ (val m a 0).toNat r h w →
        Does (.rstat d a) s (w.modTeam b t fun n => n.wr d cl.act fun _ => BitVec.ofNat 32
          (h.free % 256 + h.filled % 256 * 256 + h.held % 256 * 65536 + r.work % 256 * 16777216)) b t)) ∧
  (∀ n (r : Ring) (h : RingHdr),
      (h.held = 0 → ringSettle n r h = (r, h)) ∧
      (Tab.get 0 r.rel h.oldest < h.share → ringSettle n r h = (r, h)) ∧
      (0 < h.held → h.share ≤ Tab.get 0 r.rel h.oldest → ∃ q, q.rel = Tab.set 0 r.rel h.oldest 0 ∧ q.work = r.work ∧
        ringSettle (n + 1) r h = ringSettle n q (if h.mode < 2 then { h with held := h.held - 1, free := h.free + 1 }
          else { h with held := h.held - 1, wptr := h.wptr + 1, filled := h.filled + 1 }))) ∧
  (∀ s b t cl, Executes s b t cl →
    let m := s.team b t
    let x := s.block b
    let starting : Team → Team := starts true (fun _ _ => { kind := .value }) cl m
    let record (z : Stamp) : List Byte := leBytes 4 z.tile.toNat ++ leBytes 2 x.core ++
      leBytes 1 ((z.events.map fun e => 2 ^ e.1).sum) ++ leBytes 1 0 ++
      (List.range 6).flatMap (fun e => leBytes 8 ((Tab.find z.events e).getD 0)) ++ leBytes 8 s.tick
    (∀ a, Untagged m (Instr.stampOpen a).shape → (pair m a 0).toNat % 64 = 0 → x.stampAt ((m.rd a 0 3).toNat % 4) = none →
      Does (.stampOpen a) s ((onBlock s b t fun y => { y with
        stamps := Tab.set none y.stamps ((m.rd a 0 3).toNat % 4) (some { addr := (pair m a 0).toNat, tile := m.rd a 0 2 }) }).modTeam b t
          starting) b t) ∧
    (∀ (e : Fin 6) a z, Untagged m (Instr.stampEv e a).shape → (val m a 0).toNat ≤ 3 → x.stampAt (val m a 0).toNat = some z →
      (Tab.find z.events e.val = none → Does (.stampEv e a) s ((onBlock s b t fun y => { y with
        stamps := Tab.set none y.stamps (val m a 0).toNat (some { z with events := Tab.put z.events e.val s.tick }) }).modTeam b t starting) b t) ∧
      ((Tab.find z.events e.val).isSome = true → Does (.stampEv e a) s (onTeam s b t starting) b t)) ∧
    (∀ (e : Fin 6) a, Untagged m (Instr.stampEv e a).shape → (val m a 0).toNat ≤ 3 → x.stampAt (val m a 0).toNat = none →
      Does (.stampEv e a) s (onTeam s b t starting) b t) ∧
    (∀ a, Untagged m (Instr.stampRetire a).shape → (val m a 0).toNat ≤ 3 → x.stampAt (val m a 0).toNat = none →
      Does (.stampRetire a) s (onTeam s b t starting) b t) ∧
    (∀ a z, Untagged m (Instr.stampRetire a).shape → (val m a 0).toNat ≤ 3 → x.stampAt (val m a 0).toNat = some z →
      (begun s b t).entries x.core < 32 →
      let job : Job := { owner := some b, suite := x.suite, core := x.core, asid := x.asid, kind := .write z.addr (record z)
                         issuer := some (t, m.nextOp), snap := { fmt := x.fmtWord, fmode := m.fmode, books := x.codebooks }, word := 0x0D000020
                         toks := [⟨t, none, m.jobs + 1, m.nextOp⟩], foot := [⟨z.addr, 64, false, false, true⟩] }
      Does (.stampRetire a) s (submitted s (onBlock s b t fun y => { y with stamps := Tab.set none y.stamps (val m a 0).toNat none })
        b t cl job none id) b t))

/-! ## The matrix stream (11) -/

/-- R289, R290, R293, R302-R304, R286: register moves, the loop, control words, a cleared accumulator, the words that go to the
barrier unit, ring slots, tile stamps and the end of the matrix program; a word that touches a tagged object trips. -/
def Obligations.MatrixControlWords : Prop :=
  ∀ s b cl, Sequences s b cl →
    let m := (s.block b).mtx
    let x := s.block b
    let v := onMtx s b id
    let placed (hdr : Nat) (r : Ring) (h : RingHdr) (w : State) : Prop := hdr + 32 ≤ x.stashSize ∧ hdr % 32 = 0 ∧ x.ring hdr = some r ∧
      ∃ bytes, v.stashGet b hdr 32 = .ok (bytes, w) ∧ h = RingHdr.of bytes
    let ring (hdr : Nat) (r : Ring) (h : RingHdr) (w : State) : Prop := placed hdr r h w ∧ h.slots ≠ 0 ∧ h.mode % 2 = 1
    let put (w z : State) (hdr : Nat) (r : Ring) (h : RingHdr) : Prop := (w.modBlock b (·.setRing hdr r)).stashPut b (hdr + 8)
      (leBytes 4 (h.wptr % 2 ^ 32) ++ leBytes 4 (h.rptr % 2 ^ 32) ++ leBytes 4 (h.free % 2 ^ 32) ++ leBytes 4 (h.filled % 2 ^ 32) ++
        leBytes 4 (h.held % 2 ^ 32)) = .ok z
    let toUnit (i : Instr) (n : Nat) (o : BarOp) : Prop :=
      exec i s = .next ((v.modBlock b fun y => { y with barOps := y.barOps ++ [⟨s.tick + 1, o⟩] }).modMtx b fun m => { m with stall := some (.unit n) })
    Goes .mnop s v b ∧
    (∀ d a, Unclaimed m (qreads a ++ [16 + d.val]) → Goes (.mmovq d a) s (onMtx s b (·.setQ d.val (qval m a))) b) ∧
    (∀ d a c, Unclaimed m ([16 + a.val, 16 + d.val] ++ qreads c) →
      Goes (.maddq d a c) s (onMtx s b (·.setQ d.val (m.qr a.val + qval m c))) b) ∧
    (∀ (c : Fin 16) o, Unclaimed m [16 + c.val] →
      let far : Int := match o with | .near k => k.toInt | .far w => w.toInt
      (m.qr c.val = 1 → Goes (.mloop c o) s (onMtx s b (·.setQ c.val 0)) b) ∧
      (m.qr c.val ≠ 1 → Goes (.mloop c o) s (onMtx s b fun m => { m.setQ c.val (m.qr c.val - 1) with clause := some { cl with
        moves := [⟨0, ((cl.pc + 4 * far) % 18446744073709551616).toNat, 0⟩] } }) b)) ∧
    (∀ (c : Fin 12) a, Unclaimed m (qreads a ++ [c.val]) →
      let w := qval m a
      (c.val < 8 → w = 0 ∨ tileValid w = true → m.reads c.val = false → Goes (.mtc c a) s (onMtx s b fun m =>
        m.setTile c.val { ctl := w, data := (m.tile c.val).data, bitmap := none, idx := none, res := [], scales := [] }) b) ∧
      (8 ≤ c.val → w = 0 ∨ accValid w = true → Goes (.mtc c a) s (onMtx s b fun m =>
        m.setAcc (c.val - 8) { ctl := w, els := (m.acc (c.val - 8)).els }) b) ∧
      (w ≠ 0 → (c.val < 8 ∧ tileValid w = false ∨ 8 ≤ c.val ∧ accValid w = false) → Trips (.mtc c a) s b cl .mtxshape 1 0)) ∧
    (∀ n, Unclaimed m [8 + n.val] → Goes (.mzero n) s (onMtx s b fun m => m.setAcc n.val { ctl := (m.acc n.val).ctl, els := [] }) b) ∧
    (∀ d a k mma, (16 + d.val) ∈ [k] ∨ k ∈ qreads a → Tab.find m.tags k = some mma → Trips (.mmovq d a) s b cl .hazard 0 0) ∧
    (∀ n, toUnit (.mfmt n) n.val (.seqWait n.val true) ∧ toUnit (.mwait n) n.val (.seqWait n.val false) ∧
      toUnit (.msignal n) n.val (.seqArrive n.val)) ∧
    (∀ d a r h w, Unclaimed m [16 + a.val, 16 + d.val] → ring (m.qr a.val).toNat r h w →
      let hdr := (m.qr a.val).toNat
      let slot (i : Nat) (m : Mtx) : Mtx := chases false cl [16 + d.val] none (m.setQ d.val (BitVec.ofNat 32 (hdr + 32 + i * h.size)))
      let cur (i : Nat) : Ring := { r with cur := some (i, 1), rel := Tab.set 0 r.rel i 0 }
      (∀ i k, r.cur = some (i, k) → k < h.share →
        Goes (.mawait d a) s ((w.modBlock b (·.setRing hdr { r with cur := some (i, k + 1) })).modMtx b (slot i)) b) ∧
      ((∀ i k, r.cur = some (i, k) → h.share ≤ k) →
        (h.mode = 1 → 0 < h.filled → ∀ z, put w z hdr (cur (h.rptr % h.slots))
            { h with rptr := h.rptr + 1, filled := h.filled - 1, held := h.held + 1 } →
          Goes (.mawait d a) s (z.modMtx b (slot (h.rptr % h.slots))) b) ∧
        (h.mode = 3 → 0 < h.free → ∀ z, put w z hdr (cur ((h.wptr + h.held) % h.slots))
            { h with free := h.free - 1, held := h.held + 1 } →
          Goes (.mawait d a) s (z.modMtx b (slot ((h.wptr + h.held) % h.slots))) b) ∧
        ((h.mode = 1 ∧ h.filled = 0 ∨ h.mode = 3 ∧ h.free = 0) →
          exec (.mawait d a) s = .next (onMtx s b fun m => { m with stall := some .retry })))) ∧
    (∀ a c r h w i, Unclaimed m [16 + a.val, 16 + c.val] → placed (m.qr a.val).toNat r h w → h.size ≠ 0 →
      let hdr := (m.qr a.val).toNat
      (m.qr c.val).toNat = hdr + 32 + i * h.size → (∃ j < min h.held h.slots, (h.oldest + j) % h.slots = i) → Tab.get 0 r.rel i < h.share →
      let y := ringSettle h.slots { r with rel := Tab.set 0 r.rel i (Tab.get 0 r.rel i + 1) } h
      ∀ z, put w z hdr y.1 y.2 → Goes (.mrelease a c) s z b) ∧
    (∀ n (e : Fin 7), (e.val ≠ 6 →
        (x.stampAt n.val = none → Goes (.mstamp n e) s v b) ∧
        (∀ z, x.stampAt n.val = some z → Tab.find z.events e.val = none → Goes (.mstamp n e) s (v.modBlock b fun y => { y with
          stamps := Tab.set none y.stamps n.val (some { z with events := Tab.put z.events e.val s.tick }) }) b) ∧
        (∀ z k, x.stampAt n.val = some z → Tab.find z.events e.val = some k → Goes (.mstamp n e) s v b)) ∧
      (e.val = 6 → x.stampAt n.val = none → Goes (.mstamp n e) s v b) ∧
      (∀ z, e.val = 6 → x.stampAt n.val = some z → ∃ record : List Byte, record.length = 64 ∧
        record.take 4 = leBytes 4 z.tile.toNat ∧ record.drop 56 = leBytes 8 s.tick ∧
        let job : Job := { owner := some b, suite := x.suite, core := x.core, asid := x.asid, kind := .write z.addr record, entry := false
                           snap := { fmt := m.fmt, fmode := m.fmode, books := m.books }, word := 0x0D000020
                           foot := [⟨z.addr, 64, false, false, true⟩] }
        Goes (.mstamp n e) s { v.modBlock b fun y => { y with stamps := Tab.set none y.stamps n.val none } with
          jobs := Tab.put s.jobs s.nextJob job, nextJob := s.nextJob + 1 } b)) ∧
    (m.ops = [] → exec .mend s = .next { s.modBlock b fun y => { y with
      mtx := { y.mtx with clause := none, stall := none, held := false, qstat := y.mtx.qstat &&& 0x7FFFFFFF, buf := [], wrote := 0 }
      forkRun := y.forkRun.map fun f => { f with mtx := false } } with focus := none }) ∧
    (m.ops ≠ [] → exec .mend s = .next (onMtx s b fun m => { m with stall := some .retry }))

/-- R278, R282, R285, R287, R291-R301: tiles, accumulators and scales are loaded and stored by rows, one 32-byte unit a step; a multiply instruction joins the
array with its format word and codebooks, and each of its chunks adds an exact sum to every element, rounded once; a
decomposition replaces a tile; a format word that is not usable and a wrong shape trip. -/
def Obligations.MatrixTileAndArrayWords : Prop :=
  (∀ s b cl, Sequences s b cl →
    let m := (s.block b).mtx
    let v := onMtx s b id
    (∀ (t : Fin 12) a p, Unclaimed m (qreads a ++ preads p ++ [t.val]) →
      let off := (qval m a).toNat
      let st := pitchOf m p
      let stays (w : State) (bytes : List Byte) : Prop := Stays (.mload t a p) s b w fun m => { m with buf := bytes }
      (8 ≤ t.val →
        let k := m.acc (t.val - 8)
        let rows := accRows k.ctl
        let cols := accCols k.ctl
        let plan (_ : List Byte) : List (Nat × Nat) := [(off, (rowAt st (cols * 96) (rows - 1) + cols * 96 + 7) / 8)]
        accValid k.ctl = true → Tab.wf 0 k.els = true →
        ∀ bytes w, UnitAt s b st plan bytes w →
          (¬allRead plan bytes → stays w bytes) ∧
          (allRead plan bytes → ∃ y : Accum, y.ctl = k.ctl ∧ (∀ r < rows, ∀ c < cols, Tab.get 0 y.els (32 * r + c) =
              BitVec.ofNat 96 (ofLe bytes / 2 ^ (rowAt st (cols * 96) r + c * 96))) ∧
            Goes (.mload t a p) s (w.modMtx b fun m => chases false cl [t.val] none ({ m with buf := bytes }.setAcc (t.val - 8) y)) b)) ∧
      (t.val < 8 →
        let k := m.tile t.val
        let wd := ctlWidth k.ctl
        let cols := ctlCols k.ctl
        let rows := ctlRows k.ctl
        let n := rows * cols
        tileValid k.ctl = true → m.reads t.val = false →
        let loaded (w : State) (bytes : List Byte) (bm : Option (BitVec 8192)) (idx : Option (BitVec 16384)) (el : Nat → Nat) : Prop :=
          ∃ y : Tile, y.ctl = k.ctl ∧ y.bitmap = bm ∧ y.idx = idx ∧ y.res = [] ∧ y.scales = k.scales ∧ (∀ e < n, y.elem e = el e) ∧
            Goes (.mload t a p) s (w.modMtx b fun m => chases false cl [t.val] none ({ m with buf := bytes }.setTile t.val y)) b
        (ctlForm k.ctl = 0 →
          let plan (_ : List Byte) : List (Nat × Nat) := [(off, (rowAt st (cols * wd) (rows - 1) + cols * wd + 7) / 8)]
          ∀ bytes w, UnitAt s b st plan bytes w → (¬allRead plan bytes → stays w bytes) ∧
            (allRead plan bytes →
              loaded w bytes none none fun e => ofLe bytes / 2 ^ (rowAt st (cols * wd) (e / cols) + e % cols * wd) % 2 ^ wd)) ∧
        (ctlForm k.ctl = 1 →
          let nb := (n + 7) / 8
          let bm (bytes : List Byte) : Nat := ofLe (bytes.take nb) % 2 ^ n
          let len (bytes : List Byte) : Nat := (popcount (bm bytes) n * wd + 7) / 8
          let plan (bytes : List Byte) : List (Nat × Nat) :=
            (off, nb) :: (if bytes.length < nb ∨ len bytes = 0 then [] else [(off + (n + 255) / 256 * 32, len bytes)])
          ∀ bytes w, UnitAt s b 0 plan bytes w → (¬allRead plan bytes → stays w bytes) ∧
            (allRead plan bytes → loaded w bytes (some (BitVec.ofNat 8192 (bm bytes))) none fun e =>
              if bit (bm bytes) e then ofLe (bytes.drop nb) / 2 ^ (popcount (bm bytes) e * wd) % 2 ^ wd else 0)) ∧
        (ctlForm k.ctl = 2 →
          let nd := (n * wd + 7) / 8
          let plan (_ : List Byte) : List (Nat × Nat) := [(off, nd), (off + (n * wd + 255) / 256 * 32, (2 * n + 7) / 8)]
          ∀ bytes w, UnitAt s b 0 plan bytes w → (¬allRead plan bytes → stays w bytes) ∧
            (allRead plan bytes → let idx := ofLe (bytes.drop nd)
              (∀ g < n / 2, idx / 16 ^ g % 4 < idx / 16 ^ g / 4 % 4) →
              loaded w bytes none (some (BitVec.ofNat 16384 (idx % 2 ^ (2 * n)))) fun e =>
                ofLe (bytes.take nd) / 2 ^ (e * wd) % 2 ^ wd))) ∧
      (t.val < 8 ∧ tileValid (m.tile t.val).ctl = false ∨ 8 ≤ t.val ∧ accValid (m.acc (t.val - 8)).ctl = false →
        Trips (.mload t a p) s b cl .mtxshape 2 0)) ∧
    (∀ (n : Fin 4) a p, Unclaimed m (qreads a ++ preads p ++ [8 + n.val]) →
      let off := (qval m a).toNat
      let st := pitchOf m p
      let k := m.acc n.val
      let rows := accRows k.ctl
      let cols := accCols k.ctl
      let wd := fmtWidth (fwOut m.fmt)
      let span := (rowAt st (cols * wd) (rows - 1) + cols * wd + 7) / 8
      let el (r c : Nat) := outElem m.fmt (Tab.get 0 k.els (32 * r + c)).toNat
        ((rngmix (BitVec.ofNat 32 (0xFFFF0000 + (r * cols + c))) m.rng 17).toNat / 65536)
      let covered (g : Nat) : Prop := ∃ r < rows, rowAt st (cols * wd) r ≤ g ∧ g < rowAt st (cols * wd) r + cols * wd
      let units := (List.range ((span + 31) / 32)).filter fun j => decide (∃ r < rows,
        rowAt st (cols * wd) r < 256 * (j + 1) ∧ 256 * j < rowAt st (cols * wd) r + cols * wd)
      (fwCause m.fmt = none → accValid k.ctl = true → (st = 0 ∨ cols * wd ≤ st * 8) → off + span ≤ (s.block b).stashSize → off % 32 = 0 →
        st % 32 = 0 → ∀ j old w, units[m.wrote]? = some j → v.stashGet b (off + 32 * j) (min 32 (span - 32 * j)) = .ok (old, w) →
        ∃ new : List Byte, new.length = old.length ∧
          (∀ r < rows, ∀ c < cols, ∀ i < wd, let g := rowAt st (cols * wd) r + c * wd + i
            256 * j ≤ g → g < 256 * (j + 1) → bit (ofLe new) (g - 256 * j) = bit (el r c).1 i) ∧
          (∀ i < 8 * old.length, ¬covered (256 * j + i) → bit (ofLe new) i = bit (ofLe old) i) ∧
          ∀ z, w.stashPut b (off + 32 * j) new = .ok z →
            (m.wrote + 1 < units.length → Stays (.mstore n a p) s b z fun m => { m with wrote := m.wrote + 1 }) ∧
            (m.wrote + 1 = units.length → Goes (.mstore n a p) s (z.modMtx b fun m => chases true cl [] none
              (if ∃ r < rows, ∃ c < cols, (el r c).2 = true then { m with rng := m.rng + 1 } else m)) b)) ∧
      (∀ c, fwCause m.fmt = some c → Trips (.mstore n a p) s b cl .fmtbad c 0)) ∧
    (∀ (t : Fin 8) a, Unclaimed m (qreads a ++ [t.val]) →
      let k := m.tile t.val
      let n := ctlRows k.ctl * (logicalK k.ctl / fwSblk m.fmt)
      fwCause m.fmt = none → fwSblk m.fmt ≠ 0 → tileValid k.ctl = true → logicalK k.ctl % fwSblk m.fmt = 0 → m.reads t.val = false →
      Tab.wf 0x3F8000 k.scales = true →
      let plan (_ : List Byte) : List (Nat × Nat) := [((qval m a).toNat, 4 * n)]
      ∀ bytes w, UnitAt s b 0 plan bytes w → (¬allRead plan bytes → Stays (.mscale t a) s b w fun m => { m with buf := bytes }) ∧
        (allRead plan bytes →
          ∃ z, (∀ i, Tab.get 0x3F8000 z i = if i < n then ofLe bytes / 2 ^ (32 * i + 8) % 2 ^ 24 else Tab.get 0x3F8000 k.scales i) ∧
          Goes (.mscale t a) s (w.modMtx b fun m =>
            chases false cl [t.val] none ({ m with buf := bytes }.setTile t.val { k with scales := z })) b)) ∧
    (∀ e ∈ ([(0, .mma), (1, .mmas), (2, .mmanm)] : List (Nat × (Fin 4 → Bool → Fin 8 → Bool → Fin 8 → Instr))), ∀ n p x q y,
      Unclaimed m [x.val, y.val] → (∀ f u, Tab.find m.tags (8 + n.val) = some (f, u) → u = true) →
      (fwCause m.fmt = none → mmaCause e.1 m.fmt (m.tile x.val) (m.tile y.val) (m.acc n.val) = none →
        Goes (e.2 n p x q y) s ((if (m.tile x.val).reserved || (m.tile y.val).reserved then
          v.modBlock b fun z => { z with mstat := z.mstat ||| 1 } else v).modMtx b
            (chases false cl [8 + n.val] (some { maps := e.1 == 1, a := n.val, x := x.val, y := y.val, fmt := m.fmt, books := m.books }))) b) ∧
      (∀ c, fwCause m.fmt = some c → Trips (e.2 n p x q y) s b cl .fmtbad c 0) ∧
      (∀ c, fwCause m.fmt = none → mmaCause e.1 m.fmt (m.tile x.val) (m.tile y.val) (m.acc n.val) = some c →
        Trips (e.2 n p x q y) s b cl .mtxshape c 0)) ∧
    (∀ (d x : Fin 8) (q : Fin 16), Unclaimed m [x.val, 16 + q.val, d.val] → fwCause m.fmt = none →
      let k := m.tile x.val
      tileValid k.ctl = true → ctlForm k.ctl ≤ 1 → ctlFmt k.ctl ≠ 8 → ctlCols k.ctl % 4 = 0 → 16 ≤ ctlCols k.ctl → m.reads d.val = false →
      let r := decompose k (fmtS24.val ((m.qr q.val).toNat % 2 ^ 24))
      let status (o : Word) : Word := (match r.drop with
        | some v => BitVec.ofNat 32 (max v (o.toNat / 65536) * 65536 + o.toNat % 65536) ||| 2
        | none => if r.undec then o ||| 4 else o) ||| (if k.reserved then 1 else 0)
      Goes (.mdecomp d x q) s ((v.modBlock b fun z => { z with mstat := status z.mstat }).modMtx b fun m =>
        chases false cl [d.val] none (m.setTile d.val r.tile)) b)) ∧
  (∀ s b id (o : MOp), (s.block b).mtx.ops.find? (fun p => p.id == id) = some o → (s.block b).saved = none →
    let m := (s.block b).mtx
    let gone : List MOp := m.ops.filter fun p => p.id != id
    (o.mma = none → exec (.longLatencyComplete (.seq b) id) s = .next (s.modMtx b fun m => { m with ops := gone })) ∧
    (∀ a, o.mma = some a → (∀ p ∈ m.ops, p.mma.isSome = true → id ≤ p.id) →
      let k := m.chunk a m.qstep
      exec (.longLatencyComplete (.seq b) id) s = .next (s.modMtx b fun m =>
        if logicalK (m.tile a.x).ctl ≤ (m.qstep + 1) * fwStep a.fmt then { k with qstep := 0, ops := gone }
        else { k with qstep := m.qstep + 1 }))) ∧
  (∀ (m : Mtx) (o : MmaOp) c r n, Tab.wf 0 (m.acc o.a).els = true → Tab.wf {} m.accs = true → r < accRows (m.acc o.a).ctl →
    n < accCols (m.acc o.a).ctl → accCols (m.acc o.a).ctl ≤ 32 →
    let x := m.tile o.x
    let y := m.tile o.y
    let ks := ((List.range (fwStep o.fmt)).map (· + c * fwStep o.fmt)).filter fun k => !o.maps ||
      ((!fwXbm o.fmt || x.column k) && (!fwYbm o.fmt || y.column k))
    let xs := ks.map fun k => x.logical (Machine.bookOf o.books (fwXcb o.fmt)) r k
    let ys := ks.map fun k => y.logical (Machine.bookOf o.books (fwYcb o.fmt)) n k
    let old := Tab.get 0 (m.acc o.a).els (32 * r + n)
    Tab.get 0 ((m.chunk o c).acc o.a).els (32 * r + n) =
      accStep (fwAmode o.fmt) old (termSum xs ys) (x.scale (fwSblk o.fmt) (fwStep o.fmt) r c) (y.scale (fwSblk o.fmt) (fwStep o.fmt) n c)) ∧
  (∀ (a : BitVec 96) S p q,
    (S.isZero = true → ∀ k, accStep k a S p q = a) ∧
    (S.isZero = false → accStep 0 a S p q = if ((S.mul p).mul q).isZero then a else
      BitVec.ofNat 96 (fmtA96.rnd (sumVals 0 [fmtA96.val a.toNat, (S.mul p).mul q]) 0 false 0).bits) ∧
    (S.isZero = false → accStep 1 a S p q = BitVec.ofInt 96 (a.toInt + S.toInt)) ∧
    (S.isZero = false → accStep 2 a S p q = BitVec.ofInt 96 (max (-(2 ^ 95)) (min (a.toInt + S.toInt) (2 ^ 95 - 1)))))

/-! ## Tasks (13) -/

/-- R342-R349, R351: a task instruction leaves for the ostler with what it captured at issue; a queue number above 4095 is
`ILLEGAL`; `DEADLINE` changes the queue's table entry, `DRAINCHK` and `QSTAT` report. -/
def Obligations.TaskInstructionsStart : Prop :=
  ∀ s b t cl, Executes s b t cl →
    let m := s.team b t
    let x := s.block b
    let starting (o : TaskOp) (d : Option Opnd) (setB : Bool) : Team → Team :=
      starts setB (fun _ _ => { kind := .task o, dests := match d with | some d => groupBytes d 1 | none => [] }) cl m
    let room (off n : Nat) : Prop := off + n ≤ x.stashSize ∧ off % 32 = 0
    (∀ nb d a c, Untagged m (Instr.qpop nb d a c).shape → (m.rd a 0).toNat ≤ 4095 → room (val m c 0).toNat 256 →
      Does (.qpop nb d a c) s (onTeam s b t (starting (.pop (m.rd a 0).toNat (val m c 0).toNat nb) (some d) false)) b t) ∧
    (∀ a c head w r z, Untagged m (Instr.qpush a c).shape → (m.rd a 0).toNat ≤ 4095 →
      RecordAt (begun s b t) b t (val m c 0).toNat 32 1 head w → (val m c 0).toNat % 32 = 0 →
      let n := if (s.queue x.suite (m.rd a 0).toNat).kind = 1 ∧ 1 ≤ (Waybill.of head).len ∧ (Waybill.of head).len ≤ 8
        then 32 * (Waybill.of head).len else 32
      (val m c 0).toNat + n ≤ x.stashSize → w.stashGet b (val m c 0).toNat n = .ok (r, z) →
      Does (.qpush a c) s (z.modTeam b t (starting (.push (m.rd a 0).toNat (val m c 0).toNat r) none true)) b t) ∧
    (∀ d a c, Untagged m (Instr.qreserve d a c).shape → (m.rd a 0).toNat ≤ 4095 →
      Does (.qreserve d a c) s (onTeam s b t (starting (.reserve (m.rd a 0).toNat (val m c 0).toNat) (some d) false)) b t) ∧
    (∀ a c, Untagged m (Instr.qcommit a c).shape → (m.rd a 0).toNat ≤ 4095 →
      Does (.qcommit a c) s (onTeam s b t (starting (.commit (m.rd a 0).toNat (val m c 0).toNat) none true)) b t) ∧
    (∀ a c, Untagged m (Instr.qcancel a c).shape → (m.rd a 0).toNat ≤ 4095 →
      Does (.qcancel a c) s (onTeam s b t (starting (.cancel (m.rd a 0).toNat (val m c 0).toNat) none true)) b t) ∧
    (∀ a, Untagged m (Instr.succ a).shape → Does (.succ a) s (onTeam s b t (starting (.succ (val m a 0).toNat) none true)) b t) ∧
    (∀ a r w, Untagged m (Instr.doneQ a).shape → RecordAt (begun s b t) b t (val m a 0).toNat 256 32 r w →
      let len := field r 0 1
      let n := field r 5 1
      let handles := (List.range n).filterMap fun i =>
        if 4 * (n - i) + 8 ≤ min (32 * len) 256 then some (field r (min (32 * len) 256 - 4 * (n - i)) 4) else none
      Does (.doneQ a) s (w.modTeam b t (starting (.done handles) none true)) b t) ∧
    (∀ tr d a c r w, Untagged m (Instr.rinvoke tr d a c).shape → (m.rd a 0).toNat < 2 ^ 26 →
      RecordAt (begun s b t) b t (val m c 0).toNat (32 * ((m.rd a 0).toNat / 2 ^ 23 % 8)) 32 r w →
      let dev := (m.rd a 0).toNat % 64
      let seq := Tab.get 0 w.invSeqs dev
      Does (.rinvoke tr d a c) s ({ w with invSeqs := Tab.set 0 w.invSeqs dev ((seq + 1) % 65536) }.modTeam b t
        (starting (.invoke (m.rd a 0) r tr seq 0 none) (some d) false)) b t) ∧
    (∀ a c, Untagged m (Instr.deadline a c).shape → (m.rd a 0).toNat ≤ 4095 →
      let va := (s.suite x.suite).used.qtable.toNat + 64 * (m.rd a 0).toNat
      let r := (begun s b t).ostRead x.suite va 64
      let at_ := val m c 0
      let w := if at_ = 0xFFFFFFFF then r.2.ostWrite x.suite (va + 25) [BitVec.ofNat 8 (field r.1 25 1) &&& 0xFB]
        else (r.2.ostWrite x.suite (va + 25) [BitVec.ofNat 8 (field r.1 25 1) ||| 4]).ostWrite x.suite (va + 28) (leBytes 4 at_.toNat)
      let e := w.ostRead x.suite va 64
      Does (.deadline a c) s (e.2.modQueue x.suite (m.rd a 0).toNat (·.load e.1)) b t) ∧
    (∀ d, isS d = true → Untagged m (Instr.drainchk d).shape →
      let left := match (s.suite x.suite).drainAt with
        | some k => k + (s.suite x.suite).used.drainlim.toNat - s.tick
        | none => 0
      Does (.drainchk d) s (onTeam s b t fun n => n.wr d cl.act fun _ =>
        BitVec.ofNat 32 ((if x.drain then 2 ^ 31 else 0) + min left (2 ^ 31 - 1))) b t) ∧
    (∀ (i : Fin 5) d a, Untagged m (Instr.qstat i d a).shape → (val m a 0).toNat ≤ 4095 →
      let q := s.queue x.suite (val m a 0).toNat
      let bytes (n : Nat) : Nat := ((q.resv.filter fun r => r.state == n).map fun r => r.len).sum
      let item : Nat := match i.val with
        | 0 => q.committed + bytes 1
        | 1 => q.size - (q.committed + bytes 1) - bytes 0
        | 2 => q.base % 2 ^ 32
        | 3 => q.base / 2 ^ 32
        | _ => q.errs
      Does (.qstat i d a) s (onTeam s b t (startsValue d 1
        (fun _ _ _ => BitVec.ofNat 32 (if q.ok ∧ bit q.mode 3 then item else 0)) cl m)) b t) ∧
    (∀ nb d a c, isS a = true → Untagged m (Instr.qpop nb d a c).shape → 4095 < (m.rd a 0).toNat → Traps (.qpop nb d a c) s b t cl 0x01 0 cl.pc) ∧
    (∀ d a c, isS a = true → Untagged m (Instr.qreserve d a c).shape → 4095 < (m.rd a 0).toNat → Traps (.qreserve d a c) s b t cl 0x01 0 cl.pc)

/-- R210, R343-R345, R351, R352: the ostler pops and pushes, reserves, commits and cancels in the ring, counts down predecessors and
hands over ready waybills, and delivers invocations: each ends with its status; a full queue ends a reservation after its time, and
a refused invocation is tried again. -/
def Obligations.OstlerPerformsTasks : Prop :=
  (∀ s b t id o x, AtOstler s b t id o x →
    let u := (s.block b).suite
    let y := s.block b
    let ends (w : Word) (v : State) : Prop := exec (.longLatencyComplete (.team b t) id) s = .next (answered b t o w v)
    let j := s.joinClock y.core
    let popped (w : Word) (v : State) : Prop := ends w (v.seeAgents y.core)
    (∀ q off nb, x = .pop q off nb → (∀ e ∈ s.poppers u q, y.core ≤ e.1 ∧ (e.1 = y.core → (s.team b t).slot % 4 ≤ e.2)) →
      ((s.queue u q).pops = false → popped 0xFFFFFFFF j) ∧
      (∀ v, (s.queue u q).pops = true → j.headEntry u q = (none, v) → (nb = true ∨ y.drain = true) → popped 0 v) ∧
      (∀ e v, (s.queue u q).pops = true → j.headEntry u q = (some e, v) →
        let bin : Prop := (v.queue u q).kind = 1 ∧ (Waybill.of e).kind = 4 ∧ field e 28 4 ≠ 0
        (bin → 8 ≤ y.refs.length → (nb = true ∨ y.drain = true) → popped 0 v) ∧
        (∀ w, v.stashPut b off (e.take (y.stashSize - off)) = .ok w →
          (¬bin → popped (BitVec.ofNat 32 e.length) (w.modQueue u q (·.consume e.length))) ∧
          (bin → y.refs.length < 8 → popped (BitVec.ofNat 32 e.length) ((w.modQueue u q (·.consume e.length)).modBlock b fun y =>
            { y with refs := y.refs ++ [BitVec.ofNat 32 (field e 28 4)] }))))) ∧
    (∀ q off data, x = .push q off data →
      ((s.queue u q).accepts = false → ends 0 (j.refuse u 2 (off + 2 ^ 63) q)) ∧
      ((s.queue u q).accepts = true → (s.queue u q).kind = 1 → (Waybill.of data).malformed = true → ends 0 (j.refuse u 5 (off + 2 ^ 63) q)) ∧
      (∀ v, (s.queue u q).accepts = true → ((s.queue u q).kind ≠ 1 ∨ (Waybill.of data).malformed = false) →
        j.enqueue u q data = some v → ends 0 v)) ∧
    (∀ q n, x = .reserve q n →
      let z := s.queue u q
      let good : Prop := z.accepts = true ∧ n % 32 = 0 ∧ 32 ≤ n ∧ 4 * n ≤ z.size
      (¬good → ends 0xFFFFFFFE j) ∧
      (good → z.total + n ≤ z.size → ends (BitVec.ofNat 32 ((z.head + z.total) % z.size)) (j.modQueue u q fun z =>
        { z with resv := z.resv ++ [{ off := (z.head + z.total) % z.size, len := n, b := b, t := t }] })) ∧
      (good → z.size < z.total + n → y.drain = true → ends 0xFFFFFFFF j) ∧
      (good → z.size < z.total + n → y.drain = false → z.fulltmo ≠ 0 → o.issued + z.fulltmo ≤ s.tick →
        exec (.qreserveTimeout b t id) s = .next (answered b t o 0xFFFFFFFF s))) ∧
    (∀ q off state, (x = .commit q off ∧ state = 1 ∨ x = .cancel q off ∧ state = 2) →
      (∀ old r new, (s.queue u q).resv = old ++ r :: new → r.off = off → r.state = 0 → (∀ p ∈ old, ¬(p.off = off ∧ p.state = 0)) →
        ends 0 (j.modQueue u q fun z => ({ z with resv := old ++ { r with state := state } :: new }).publish s.tick)) ∧
      ((∀ r ∈ (s.queue u q).resv, ¬(r.off = off ∧ r.state = 0)) → ends 0 (j.countErr u q))) ∧
    (∀ h, x = .succ h → ends 0 (j.succHandle u h)) ∧
    (∀ hs, x = .done hs → ends 0 (hs.foldl (fun v h => v.succHandle u h) j)) ∧
    (∀ rt data tr seq, x = .invoke rt data tr seq 0 none → s.putsOwed b t id (rt.toNat % 64) = false → rt.toNat % 64 ≠ s.device →
      s.portTo (rt.toNat % 64) = none → tr = false → ends 3 s) ∧
    (∀ rt data tr seq, x = .invoke rt data tr seq 0 none → s.putsOwed b t id (rt.toNat % 64) = false → rt.toNat % 64 = s.device →
      let p : Packet := { suite := rt.toNat / 64 % 8, handler := rt.toNat / 512 % 4096, prio := rt.toNat / 2 ^ 21 % 4, args := data
                          srcDev := s.device, srcSuite := u, seq := seq }
      let r := s.invoked p
      (r.1 = 0 → ends 0 r.2) ∧
      (r.1 = 2 → tr = false → ends 2 r.2) ∧
      (r.1 = 2 → tr = true → exec (.longLatencyComplete (.team b t) id) s = .next ((r.2.modTeam b t fun n => Team.freed
        { n with ops := n.ops.filter (fun p => p.id != o.id), tags := n.tags.filter (fun e => !o.dests.contains e.1) }).modTeam b t fun n =>
          { n with delayed := n.delayed ++ [{ code := .refused, pc := o.pc, addr := 2 }] })) ∧
      (r.1 = 1 → exec (.longLatencyComplete (.team b t) id) s = .next (r.2.modTeam b t fun n => { n with ops := n.ops.map fun p =>
        if p.id = id then { p with kind := .task (.invoke rt data tr seq 0 (some r.2.tick)) } else p })))) ∧
  (∀ s b t id o rt data tr seq tries since, (s.team b t).op id = some o → (s.block b).saved = none → o.ecc = false → o.els = [] →
    o.kind = .task (.invoke rt data tr seq tries (some since)) → rt.toNat % 64 = s.device → since + 4500 * (tries + 1) ≤ s.tick →
    let p : Packet := { suite := rt.toNat / 64 % 8, handler := rt.toNat / 512 % 4096, prio := rt.toNat / 2 ^ 21 % 4, args := data
                        srcDev := s.device, srcSuite := (s.block b).suite, seq := seq }
    let r := s.invoked p
    (r.1 = 0 → exec (.rinvokeRetry b t id) s = .next (answered b t o 0 r.2)) ∧
    (r.1 = 1 → tries < 2 → exec (.rinvokeRetry b t id) s = .next (r.2.modTeam b t fun n => { n with ops := n.ops.map fun p =>
      if p.id = id then { p with kind := .task (.invoke rt data tr seq (tries + 1) (some since)) } else p })) ∧
    (r.1 = 1 → 2 ≤ tries → tr = false → exec (.rinvokeRetry b t id) s = .next (answered b t o 1 r.2))) ∧
  (∀ s (p : Packet), p.srcDev ∈ s.peers →
    let kept := Tab.get [] s.invReplies p.srcDev
    ((∃ r ∈ kept, r.seq = p.seq) → exec (.rinvokeReceive p) s = .next s) ∧
    ((∀ r ∈ kept, r.seq ≠ p.seq) →
      ((s.invoked p).1 = 1 → exec (.rinvokeReceive p) s = .next (s.invoked p).2) ∧
      ((s.invoked p).1 ≠ 1 → exec (.rinvokeReceive p) s = .next { (s.invoked p).2 with
        invReplies := Tab.set [] (s.invoked p).2.invReplies p.srcDev
          ((kept ++ [({ seq := p.seq, values := [(s.invoked p).1] } : Reply)]).drop (kept.length + 1 - Config.unackedMax)) }))) ∧
  (∀ (s : State) (p : Packet),
    (s.suiteExists p.suite = false → s.invoked p = (2, s)) ∧
    (∀ v, s.suiteExists p.suite = true → s.handlerOf p.suite p.handler = (none, v) → s.invoked p = (2, v)) ∧
    (∀ q v, s.suiteExists p.suite = true → s.handlerOf p.suite p.handler = (some q, v) →
      let len := (16 + p.args.length + 31) / 32
      let head := leBytes 8 (len + 256 + p.handler * 2 ^ 16 + q * 2 ^ 28) ++
        leBytes 8 (p.srcDev + p.srcSuite * 2 ^ 8 + p.prio * 2 ^ 16 + p.seq * 2 ^ 32) ++ p.args
      let bytes := head ++ List.replicate (32 * len - head.length) 0
      ((v.queue p.suite q).accepts = true → (v.queue p.suite q).kind = 1 → ∀ w, v.enqueue p.suite q bytes true = some w → s.invoked p = (0, w)) ∧
      ((v.queue p.suite q).accepts = true → (v.queue p.suite q).kind = 1 → v.enqueue p.suite q bytes true = none → s.invoked p = (1, v)) ∧
      ((v.queue p.suite q).accepts = false ∨ (v.queue p.suite q).kind ≠ 1 → s.invoked p = (1, v)))) ∧
  (∀ (s : State) u h,
    let va := (s.suite u).used.arena.toNat + 32 * h
    let r := s.ostRead u va 8
    let w := r.2.ostWrite u (va + 6) (leBytes 2 (field r.1 6 2 - 1))
    (s.succHandle u 0xFFFFFFFF = s) ∧
    (h ≠ 0xFFFFFFFF → (s.suite u).used.arenasz.toNat ≤ h → s.succHandle u h = s.countErr u ((s.suite u).used.errq.toNat % 4096)) ∧
    (h ≠ 0xFFFFFFFF → h < (s.suite u).used.arenasz.toNat →
      (field r.1 6 2 = 0 → s.succHandle u h = r.2.countErr u (Waybill.of r.1).queue) ∧
      (field r.1 6 2 = 1 → s.succHandle u h = w.readyCopy u h) ∧
      (1 < field r.1 6 2 → s.succHandle u h = w))) ∧
  (∀ (s : State) u q bytes, Tab.wf {} s.suites = true → Tab.wf {} (s.suite u).queues = true →
    let x := s.queue u q
    (x.size < x.total + bytes.length → s.enqueue u q bytes = none) ∧
    (x.total + bytes.length ≤ x.size → Solid x → x.resv = [] → bytes ≠ [] → ∃ v, s.enqueue u q bytes = some v ∧
      (v.queue u q).segs = x.segs ++ [{ len := bytes.length, tick := s.tick, skip := false }] ∧ (v.queue u q).head = x.head ∧
      (v.queue u q).resv = [])) ∧
  (∀ (x : Queue) g r, x.segs = g :: r → Solid x →
    (x.consume g.len).segs = r ∧ (x.consume g.len).head = (x.head + g.len) % x.size ∧ (x.consume g.len).resv = x.resv) ∧
  (∀ (x : Queue) tick, Solid x → (∀ r, x.resv.head? = some r → r.state = 0) → x.publish tick = x) ∧
  (∀ (x : Queue) tick r rest, Solid x → x.resv = r :: rest → (∀ p, rest.head? = some p → p.state = 0) → r.len ≠ 0 → r.state = 1 →
    x.publish tick = { x with segs := x.segs ++ [{ len := r.len, tick := tick, skip := false, packet := r.packet }], resv := rest })

/-! ## The ostler (13) -/

/-- R331, R333, R334, R339-R341, R344, R349, R33: enabling a suite reads its page and its descriptors; a tail write submits records
or is refused; a pick takes the first candidate in its order that the room can place; a taken launch's blocks start with
their arguments at its kernel; waits pin a candidate and make it overdue; ready copies enter in order; drains; a block retires when its teams, jobs and programs
are over. -/
def Obligations.OstlerDispatches : Prop :=
  (∀ s u, (s.suite u).ctl.getLsbD 0 = false → exec (.ctlEnable u) s = .next ((List.range 4096).foldl (fun v q =>
    let va := (v.suite u).used.qtable.toNat + 64 * q
    (v.ostRead u va 64).2.modQueue u q (·.load (v.ostRead u va 64).1))
      (s.modSuite u fun x => { x with used := x.page, ctl := x.ctl ||| 1 }))) ∧
  (∀ (x : Queue) r,
    let y := x.load r
    (y.ok = true ↔ field r 24 1 ≤ 2 ∧ field r 8 8 % 32 = 0 ∧ 64 ≤ field r 8 8 ∧ field r 8 8 ≤ 2 ^ 24 ∧ field r 0 8 % 32 = 0) ∧
    y.base = field r 0 8 ∧ y.size = field r 8 8 ∧ y.kind = field r 24 1 ∧ y.mode = field r 25 1 ∧ y.level = field r 26 1 % 8 ∧
    y.offset = field r 28 4 ∧ y.fulltmo = field r 36 4 ∧ y.errs = x.errs ∧
    (x.base = y.base → x.size = y.size → x.kind = y.kind → y.segs = x.segs ∧ y.head = x.head ∧ y.resv = x.resv) ∧
    (¬(x.base = y.base ∧ x.size = y.size ∧ x.kind = y.kind) → y.segs = [] ∧ y.head = 0 ∧ y.resv = [])) ∧
  (∀ s u q (v : DWord), q < 4096 →
    let x := s.queue u q
    let at_ := x.base + (if x.size = 0 then v.toNat else v.toNat % x.size)
    let n := (v.toNat + x.size - x.tail) % x.size
    let w := { s with svcQueues := s.svcQueues.filter fun e => e != (u, q) }
    (x.hostMade = false → exec (.tailWrite u q v) s = .next w) ∧
    (x.hostMade = true → (x.enabled = false ∨ v.toNat % 32 ≠ 0 ∨ x.size ≤ v.toNat ∨ x.size < x.total + s.queueHeld u q + n) →
      exec (.tailWrite u q v) s = .next (w.refuse u 7 at_ q)) ∧
    (x.hostMade = true → x.enabled = true → v.toNat % 32 = 0 → v.toNat < x.size → x.total + s.queueHeld u q + n ≤ x.size →
      (n = 0 → exec (.tailWrite u q v) s = .next w) ∧
      (n ≠ 0 → exec (.tailWrite u q v) s = .next (w.modQueue u q fun x => { x with segs := x.segs ++ [{ len := n, tick := s.tick }] })))) ∧
  (∀ s u, (s.suite u).ctl.getLsbD 1 = false → ∃ t, exec (.ctlDrain u) s = .next t ∧ t.suites = (s.modSuite u fun x =>
      { x with ctl := x.ctl ||| 2, drainAt := some s.tick }).suites ∧
    (∀ b, (s.block b).suite ≠ u → Tab.find t.blocks b = Tab.find s.blocks b) ∧
    (∀ b x, Tab.find s.blocks b = some x → x.suite = u → (t.block b).drain = true ∧
      ∀ m ∈ (t.block b).teams, ∀ k, m.stall ≠ some (.sleep k))) ∧
  (∀ s u, (s.suite u).ctl.getLsbD 1 = true → exec (.ctlDrainEnd u) s = .next (State.unparkBatches { s.modSuite u fun x =>
      { x with ctl := x.ctl &&& ~~~2, drainAt := none } with
    blocks := s.blocks.map fun (b, x) => (b, if x.suite = u then { x with drain := false } else x) } u)) ∧
  (∀ s u r, (s.suite u).dispatches = true → r ∈ s.roomsOf u → ∀ pre c at_ post v, s.pickOrder u = pre ++ (c, at_) :: post →
    (∀ e ∈ pre, s.place u r e.1 = none) → s.place u r c = some v → exec (.ostlerPick u r) s = .next (v.noteServed u at_)) ∧
  (∀ (s : State) u, s.savedCands u = [] → (∀ c ∈ s.cands u, c.overdue = none ∧
      ((s.suite u).queue c.queue).held s.tick = false ∧ ((s.suite u).queue c.queue).critical = false ∧
      ((s.suite u).queue c.queue).high = false) →
    ((s.pickOrder u).length = (s.cands u).length ∧
      ((s.pickOrder u).filterMap fun e => e.2.map Prod.fst).Pairwise (· ≤ ·)) ∧
    ∀ c ∈ s.cands u, ∃ e ∈ s.pickOrder u, e.1 = c.cand ∧ e.2 = some (c.level - (s.tick - c.enq) / 2 ^ 20, c.queue)) ∧
  (∀ s u q c e v r rest, (s.suite u).dispatches = true → s.headCand u q = some c → s.headEntry u q = (some e, v) →
    isEngine (s.queue u q).kind e = false →
    (∀ code, s.asked u q e = .error code → exec (.launchTake u q) s = .next (s.refuseHead u q e.length code)) ∧
    (∀ a k l w, s.asked u q e = .ok a → s.roomsOf u = r :: rest → s.roomFree u r (.head q) = true → r ∈ s.recRooms u a.record →
      s.coreFor r a.record = some k → s.takeHead u q e = .launch l w → exec (.launchTake u q) s = .next (w.placeBlock l k))) ∧
  (∀ (s : State) u q e a w v, s.asked u q e = .ok a → (∀ f ∈ s.faults, f.who ≠ .entry u q) → s.prepare u (ostAsid u) a.ranges = some w →
    w.entryCheck u (field a.record 0 8) = (some none, v) → bit (field a.record 48 2) 15 = false →
    s.takeHead u q e = .launch v.nextLaunch { v.modQueue u q (·.consume e.length) with
      nextLaunch := v.nextLaunch + 1
      launches := Tab.put v.launches v.nextLaunch
        { suite := u, record := a.record, chtab := a.chtab, level := ((v.headCand u q).map (·.level)).getD (s.queue u q).level
          enq := (s.queue u q).headTick, queue := q, addr := (s.queue u q).base + (s.queue u q).head
          held := if (s.queue u q).kind = 0 then e.length else 0, frameCrit := (s.queue u q).critical, waybill := a.waybill
          handler := none, pinned := (s.queue u q).pinned, overdue := (s.queue u q).overdue } }) ∧
  (∀ (s : State) l k (x : Launch) p w, Tab.find s.launches l = some x → s.marked k (ostAsid x.suite) (field x.record 0 8) = (.ok (some p), w) →
    let y := (s.placeBlock l k).block w.nextBlock
    let args := field x.record 16 8
    (x.waybill = none → y.asid = 1024 * x.suite ∧ y.suite = x.suite ∧ y.core = k ∧ y.regs = field x.record 41 1 ∧ y.stashSize = field x.record 36 4 ∧
      y.lpsize = 1024 * field x.record 45 1 ∧ y.trapvec = field x.record 8 8 ∧ y.bindex = x.next ∧ y.blocks = field x.record 32 4 ∧
      y.usesMtx = bit (field x.record 42 1) 5 ∧ y.stash = [] ∧ y.teams.length = field x.record 40 1 ∧
      (∀ m ∈ y.teams, m.frontier = [⟨field x.record 0 8, p, 0xFFFF, none⟩] ∧ m.s 0 = BitVec.ofNat 32 args ∧
        m.s 1 = BitVec.ofNat 32 (args / 2 ^ 32) ∧ m.s 2 = BitVec.ofNat 32 x.next ∧ m.s 3 = BitVec.ofNat 32 y.blocks ∧
        (∀ i, 4 ≤ i → m.s i = 0) ∧ m.vregs = [] ∧ m.clause = none ∧ m.ops = [])) ∧
    (∃ z, Tab.find (s.placeBlock l k).launches l = some z ∧ z.next = x.next + 1 ∧ z.record = x.record)) ∧
  (∀ s u n c, (s.cands u).find? (fun x => x.cand == candOf n) = some c →
    (c.pinned = none → c.enq + c.level * 2 ^ 20 + 2 ^ 22 ≤ s.tick → exec (.candidatePinned u n) s = .next (s.markCand u c.cand (some s.tick) none)) ∧
    (∀ p, c.pinned = some p → c.overdue = none → p + 2 ^ 22 ≤ s.tick →
      exec (.candidateOverdue u n) s = .next (s.markCand u c.cand (some p) (some s.tick)))) ∧
  (∀ s u q h, (s.queue u q).hold = some h → (s.queue u q).holdSpent = false → h + 2 ^ 20 ≤ s.tick →
    exec (.drainFirstHoldEnd u q) s = .next (s.modQueue u q fun x => { x with holdSpent := true })) ∧
  (∀ s u h rest w, (s.suite u).ready = h :: rest →
    let va := (s.suite u).used.arena.toNat + 32 * h
    let e := Waybill.of (s.ostRead u va 8).1
    s.enqueue u e.queue (s.ostRead u va (32 * e.len)).1 = some w →
    exec (.waybillReadyCopy u) s = .next (w.modSuite u fun y => { y with ready := y.ready.eraseIdx 0 })) ∧
  (∀ s u q bytes rest w, (s.suite u).ready = [] → (s.suite u).pushes = (q, bytes) :: rest → s.enqueue u q bytes = some w →
    exec (.waybillReadyCopy u) s = .next (w.modSuite u fun y => { y with pushes := y.pushes.eraseIdx 0 })) ∧
  (∀ s b x, Tab.find s.blocks b = some x → x.saved = none → (∀ m ∈ x.teams, m.done = true ∧ m.ops = []) →
    (x.killed = none → x.fork = none ∧ x.mtx.qstat.getLsbD 31 = false) → (x.mtx.midway = false ∨ x.mtx.held = true) →
    (x.persistent = false ∨ x.drain = true ∨ x.killed ≠ none) →
    let opened := (List.range 4).filter fun n => (x.stampAt n).isSome
    let snap : Snap := { fmt := x.fmtWord, books := x.codebooks }
    (x.killed = none → opened ≠ [] → exec (.blockRetire b) s = .next (opened.foldl (fun v n => (v.stampRetire b n false snap none).2) s)) ∧
    (opened = [] ∨ x.killed ≠ none → (∀ e ∈ s.jobs, e.2.owner ≠ some b) →
      let j := s.joinClock x.core
      let v := x.barOps.foldl (fun s m => s.applyDead m.op) ((j.releaseBlock b).flushMaps b)
      exec (.blockRetire b) s = .next (j.drainedCause ({ v with
        blocks := Tab.erase v.blocks b, faults := v.faults.filter fun f => !f.who.ofBlock b }.blockDone x.launch) x.suite))) ∧
  (∀ s b x, Tab.find s.blocks b = some x → x.persistent = true → x.drain = false → x.killed = none →
    exec (.blockRetire b) s = .fault .notEnabled) ∧
  (∀ (s : State) l x, Tab.find s.launches l = some x →
    (x.done + 1 < field x.record 32 4 → s.blockDone l = { s with launches := Tab.put s.launches l { x with done := x.done + 1 } }) ∧
    (field x.record 32 4 ≤ x.done + 1 → x.handler = none → x.waybill = none → s.blockDone l = { s with launches := Tab.erase s.launches l }) ∧
    (∀ w, field x.record 32 4 ≤ x.done + 1 → x.handler = none → x.waybill = some w →
      s.blockDone l = (handlesOf w).foldl (fun v h => v.succHandle x.suite h) { s with launches := Tab.erase s.launches l }))

/-- R196, R219, R217, R350, R428, R436, R437, R477: a fault is posted or waits on the entry of its page, and its answer lets what waited go on or
gives it its fatal outcome; machine-check records; a block is saved to a frame of the pool and restored from it. -/
def Obligations.FaultQueueAndSavedBlocks : Prop :=
  (∀ (s : State) u k, s.raiseCause u k = { s.modSuite u fun x => { x with irqstat := x.irqstat ||| BitVec.ofNat 64 (2 ^ k) } with
    vectors := if (s.suite u).irqmask.getLsbD k then s.vectors ++ [8 * u + k] else s.vectors }) ∧
  (∀ s u i f, s.nextFault u = some (i, f) →
    let tagged (tag : Nat) : State := { s with faults := s.faults.set i { f with tag := some tag } }
    let x := s.suite u
    (∀ e ∈ x.pfout, e.resolved = true → s.asidBusy e.asid = true) →
    (∀ e, x.pfout.find? (fun e => e.asid == f.asid && e.va == f.va) = some e → exec (.faultEntryPost u) s = .next (tagged e.tag)) ∧
    ((∀ e ∈ x.pfout, ¬(e.asid = f.asid ∧ e.va = f.va)) → x.pfq.length < 64 → x.pfout.length < 256 →
      let e : FEntry := { asid := f.asid, va := f.va, kind := f.kind, readOnly := f.readOnly, tag := x.pftag, tick := s.tick }
      exec (.faultEntryPost u) s = .next (((tagged x.pftag).modSuite u fun x => { x with
        pfq := x.pfq ++ [e], pfout := x.pfout ++ [e], pftag := (x.pftag + 1) % 2 ^ 32 }).raiseCause u 6))) ∧
  (∀ s u, exec (.pfpop u) s = .next (s.modSuite u fun x => { x with pfq := x.pfq.drop 1 }) ∧
    exec (.mcpop u) s = .next (s.modSuite u fun x => { x with mcq := x.mcq.drop 1 })) ∧
  (∀ s u (tag : Word),
    ((s.suite u).pfout.find? (fun e => e.tag == tag.toNat && !e.resolved) = none →
      exec (.pfdoneResolved u tag) s = .next s ∧ exec (.pfdoneDeclined u tag) s = .next s) ∧
    (∀ e, (s.suite u).pfout.find? (fun e => e.tag == tag.toNat && !e.resolved) = some e →
      let settle (v : State) (go : State → PFault → State) : State := (v.faults.filter fun f => f.on e).foldl go
        ({ v with faults := v.faults.filter fun f => !f.on e }.modSuite u fun x => { x with
          pfout := x.pfout.filter fun e => e.tag != tag.toNat })
      let w := s.sweep e.asid (some e.va)
      exec (.pfdoneDeclined u tag) s = .next (settle s fun v f => v.faultDeclined f) ∧
      (w.asidBusy e.asid = false → exec (.pfdoneResolved u tag) s = .next (settle w fun v f => v.faultResolved f)) ∧
      (w.asidBusy e.asid = true → exec (.pfdoneResolved u tag) s = .next (w.modSuite u fun x => { x with
        pfout := x.pfout.map fun z => if z.tag = tag.toNat then { z with resolved := true } else z })))) ∧
  (∀ s u e, (s.suite u).pfout.find? (fun e => e.resolved && !s.asidBusy e.asid) = some e →
    exec (.faultEntryPost u) s = .next ((s.faults.filter fun f => f.on e).foldl (fun v f => v.faultResolved f)
      ({ s with faults := s.faults.filter fun f => !f.on e }.modSuite u fun x => { x with
        pfout := x.pfout.filter fun z => z.tag != e.tag }))) ∧
  (∀ (s : State) (f : PFault) b, f.who = .block b → (s.block b).killed = none →
    s.faultResolved f = s ∧ s.faultDeclined f = s.modBlock b fun x => { x with declined := x.declined ++ [f] }) ∧
  (∀ (s : State) (f : PFault) j x, f.who = .job j → s.job j = some x →
    s.faultResolved f = s.modJob j (fun x => { x with held := false }) ∧
    ((∀ body st, x.kind ≠ .batch body st) →
      s.faultDeclined f = (s.modJob j fun x => { x with held := false }).endJob j 2 0x12) ∧
    (∀ body st, x.kind = .batch body st → s.faultDeclined f =
      s.modJob j fun x => { x with held := false, kind := .batch body { st with declined := some f.va } })) ∧
  (∀ (s : State) (f : PFault) b, f.who = .seq b →
    s.faultResolved f = s.modMtx b (fun m => { m with held := false }) ∧
    let v := s.modMtx b fun m => { m with held := false }
    ((s.block b).mtx.clause = none → s.faultDeclined f = v.seqTrap b .pagefatal (s.block b).mtx.pc f.addr) ∧
    (∀ cl, (s.block b).mtx.clause = some cl → s.faultDeclined f = v.seqTrap b .pagefatal cl.pc 0)) ∧
  (∀ (s : State) (f : PFault), f.who = .retry → s.faultResolved f = s ∧ s.faultDeclined f = s) ∧
  (∀ s kind pa (sectors : BitVec 4) asid, 1 ≤ kind → kind ≤ 4 → s.installed pa = true → sectors ≠ 0 → asid < 8192 →
    let h := s.homeLine (pa / 128)
    (kind = 1 → h.dirty = true) → (kind ≠ 1 → h.dirty = false ∧ h.reader = some asid ∧
      ∀ i < 4, sectors.getLsbD i = true → i + 4 * (pa / 128) ∉ s.poison) →
    let who := if kind = 1 then (s.homeLine (pa / 128)).writer else asid
    let r : MCheck := { room := roomOfPa pa, post := homeOfPa pa % Config.postsPerRoom, kind := kind, asid := who
                        sectors := sectors.toNat, pa := pa / 128 * 128, tick := s.tick }
    let u := s.suiteOfAsid who
    ∃ bad, (∀ k, k ∈ bad ↔ k ∈ s.poison ∨ ∃ i < 4, sectors.getLsbD i = true ∧ k = i + 4 * (pa / 128)) ∧
      let v := { s.setHomeLine (pa / 128) { h with dirty := false } with poison := bad }
      (Tab.find s.roots who ≠ none → (s.suite u).mcq.length < 64 → exec (.eccUncorrectable kind pa sectors asid) s =
        .next ((v.modSuite u fun x => { x with mcq := x.mcq ++ [r] }).raiseCause u 2)) ∧
      (Tab.find s.roots who = none → exec (.eccUncorrectable kind pa sectors asid) s =
        .next { v with sysrec := Tab.set [] s.sysrec r.room (Tab.get [] s.sysrec r.room ++ [r]) }) ∧
      (Tab.find s.roots who ≠ none → 64 ≤ (s.suite u).mcq.length → exec (.eccUncorrectable kind pa sectors asid) s =
        .next { v with sysrec := Tab.set [] s.sysrec r.room (Tab.get [] s.sysrec r.room ++ [r])
                       sysrecN := Tab.set 0 s.sysrecN r.room (Tab.get 0 s.sysrecN r.room + 1) })) ∧
  (∀ s r, r < 8 → exec (.eccCorrectable r) s = .next { s with corrected := Tab.set 0 s.corrected r (Tab.get 0 s.corrected r + 1) }) ∧
  (∀ (s : State) b forced, (s.block b).saved = none → (s.block b).killed = none →
    let x := s.block b
    (∀ n, x.saving = none → s.freeFrame x.suite = some n →
      let addr := (s.suite x.suite).used.frames.toNat + n * (256 * Config.frameStride)
      let v := s.modBlock b fun x => { x with saving := some addr, frameNo := some n, frameAsid := 1024 * x.suite, forced := forced }
      (v.saveReady b = false → s.poolSave b forced = some v) ∧
      (v.saveReady b = true → v.frameMiss b addr = none → s.poolSave b forced = some (v.saveBlock b addr))) ∧
    (∀ addr, x.saving = some addr → s.saveReady b = true → s.frameMiss b addr = none →
      s.poolSave b forced = some (s.saveBlock b addr))) ∧
  (∀ s b v, ((s.block b).faulted ≠ [] ∨ (s.block b).saving ≠ none) → (s.block b).parked = false → s.poolSave b false = some v →
    exec (.blockSave b) s = .next v) ∧
  (∀ s u t0 b y v, (s.suite u).drainAt = some t0 → t0 + (s.suite u).used.drainlim.toNat ≤ s.tick →
    s.blocks.filter (fun e => e.2.suite == u && e.2.savable) = [(b, y)] →
    s.poolSave b (s.block b).faulted.isEmpty = some v → (∀ e ∈ v.jobs, e.2.suite = u → ∀ body st, e.2.kind ≠ .batch body st) →
    exec (.forcedSave u) s = .next v) ∧
  (∀ (s : State) b addr,
    let t := s.saveBlock b addr
    (t.block b).saved = some addr ∧ (t.block b).saving = none ∧ (t.block b).savedAt = s.tick ∧
    (t.block b).teams = (s.block b).teams.map Team.settle ∧ (∀ k, t.focus ≠ some (.team b k)) ∧ t.focus ≠ some (.seq b) ∧ t.tick = s.tick) ∧
  (∀ (s : State) b k,
    let r := s.frameBytes b k
    let x := s.block b
    field r 0 4 = 0x00010009 ∧ field r 16 4 = x.bindex % 2 ^ 32 ∧ field r 20 1 = x.teams.length % 256 ∧ field r 21 1 = x.regs % 256 ∧
    field r 24 4 = x.stashSize % 2 ^ 32 ∧ field r 48 8 = k % 2 ^ 64 ∧ field r 56 2 = x.core % 65536) ∧
  (∀ s b c, s.restorable b = true → (s.suite (s.block b).suite).dispatches = true → s.frameGood b = true →
    s.coreBack b (roomOfCore (s.block b).core) = some c → exec (.blockRestore b) s = .next (s.restoreOn b c)) ∧
  (∀ (s : State) b c r, s.frameRead b (FrameHdr.total (FrameHdr.of ((s.frameRead b 256).getD []))) = some r →
    let x := s.block b
    let y := (s.restoreOn b c).block b
    y.core = c ∧ y.saved = none ∧ y.frameNo = none ∧ y.parked = false ∧ y.forced = false ∧ y.faulted = [] ∧ y.declined = [] ∧
    y.drain = (s.suite x.suite).drainAt.isSome ∧ y.teams.length = x.teams.length ∧ y.suite = x.suite)

/-! ## Graphics and traversal (14, 15) -/

/-- R358-R360, R363, R368-R371, R373, R377-R379, R381-R384: mesh declarations and outputs, tile references, bin pops, the raster record
a team reads, quads, and the issue of the instructions that read tables and textures with what they captured; what each demands, and
where it traps. -/
def Obligations.GraphicsInstructions : Prop :=
  ∀ s b t cl, Executes s b t cl →
    let m := s.team b t
    let x := s.block b
    let first := (lanesOf cl.act).headD 0
    let words (o : Opnd) (n l : Nat) : List Word := (List.range n).map fun i => m.rd o l i
    let fetches (u : UnitOp) (d : Opnd) (n : Nat) (args : Nat → List Word) : Team → Team := starts false (fun cl _ =>
      { kind := .unit u, els := [{ lane := 0, va := 0, n := 0 }], args := (lanesOf cl.act).map args, dests := groupBytes d n }) cl m
    (∀ d a c, Untagged m (Instr.vbld d a c).shape →
      (∀ v, m.view = some v → m.rd c 0 ∈ x.refs → Does (.vbld d a c) s (onTeam s b t (startsValue d 4 (fun m l i =>
        match s.tileOf (m.rd c 0) with
        | some (v, t, z) =>
          let n := (m.rd a l).toNat
          let px := z.store.getD n (0, 0)
          if n < 1024 then ([BitVec.ofNat 32 (t % v.tilesX * 32 + n % 32 + (t / v.tilesX * 32 + n / 32) * 65536), px.2,
            BitVec.ofNat 32 px.1, BitVec.ofNat 32 (px.1 / 2 ^ 32)] : List Word).getD i 0 else 0xFFFFFFFF
        | none => 0xFFFFFFFF) cl m)) b t) ∧
      (m.view = none → Traps (.vbld d a c) s b t cl 0x01 0 cl.pc) ∧
      (∀ v, m.view = some v → ¬m.rd c 0 ∈ x.refs → Traps (.vbld d a c) s b t cl 0x07 (m.rd c 0).toNat cl.pc)) ∧
    (∀ d a, Untagged m (Instr.vbdec d a).shape →
      (∀ v, m.view = some v → Unwatched x → Does (.vbdec d a) s (onTeam s b t (fetches (.vbdec m.vblayout.toNat v) d 4 (words a 2))) b t) ∧
      (m.view = none → Traps (.vbdec d a) s b t cl 0x01 0 cl.pc)) ∧
    (∀ d a, Untagged m (Instr.bary d a).shape →
      (∀ v, m.view = some v → Unwatched x → Does (.bary d a) s (onTeam s b t (fetches (.bary m.vblayout.toNat v) d 16 (words a 4))) b t) ∧
      (m.view = none → Traps (.bary d a) s b t cl 0x01 0 cl.pc)) ∧
    (∀ e ∈ ([(.attr, 1, UnitOp.attr), (.attrd, 2, UnitOp.attrd)] :
        List ((Opnd → Opnd → Src → Instr) × Nat × (Nat → Nat → Nat → UnitOp))), ∀ d a c, Untagged m (e.1 d a c).shape →
      let sel := (val m c 0).toNat
      let k := sel % 64
      let n := sel / 256 % 8
      (sel = k + 256 * n → 1 ≤ n → n ≤ 4 → (∀ i, d = .v i → i.val + e.2.1 * n ≤ x.regs) →
        (∀ r ∈ groupBytes d (e.2.1 * n), m.tag r = none) → Unwatched x → ∀ v, m.view = some v →
        Does (e.1 d a c) s (onTeam s b t (fetches (e.2.2 k n v) d (e.2.1 * n) (words a 16))) b t) ∧
      ((sel ≠ k + 256 * n ∨ n = 0 ∨ 4 < n) → Traps (e.1 d a c) s b t cl 0x01 0 cl.pc) ∧
      (∀ i, sel = k + 256 * n → 1 ≤ n → n ≤ 4 → d = .v i → x.regs < i.val + e.2.1 * n → Traps (e.1 d a c) s b t cl 0x05 0 cl.pc)) ∧
    (∀ d a, Untagged m (Instr.quadsyn d a).shape → Does (.quadsyn d a) s (onTeam s b t (startsValue d 1 (fun m l _ =>
      let r0 := (m.rd a l 0).toNat
      let big := bit r0 14
      let size := if big then ([(1, 1), (2, 1), (1, 2), (2, 2), (4, 2), (2, 4), (4, 4)] : List (Nat × Nat)).getD
        ((m.rd a l 1).toNat / 65536 % 8) (1, 1) else (1, 1)
      if bit r0 31 then 0xFFFFFFFF
      else BitVec.ofNat 32 (r0 % 16384 / size.1 % 2 + 2 * (r0 / 65536 % 16384 / size.2 % 2) + (if bit r0 15 then 4 else 0) +
        (if big then 8 else 0))) cl m)) b t) ∧
    (∀ e ∈ ([(.tex, 6, UnitOp.tex), (.texlod, 3, UnitOp.texlod), (.texfetch, 2, UnitOp.texfetch)] :
        List ((Opnd → Opnd → Opnd → Instr) × Nat × (List Byte → UnitOp))), ∀ d a c r w, Untagged m (e.1 d a c).shape →
      RecordAt (begun s b t) b t (m.rd c 0).toNat 32 32 r w → texOk r = true → Unwatched x →
      Does (e.1 d a c) s (w.modTeam b t (fetches (e.2.2 r) d 4 (words a e.2.1))) b t) ∧
    (∀ d a c r w, Untagged m (Instr.imgst d a c).shape → RecordAt (begun s b t) b t (m.rd c 0).toNat 32 32 r w → texOk r = true →
      Unwatched x → Does (.imgst d a c) s (w.modTeam b t (starts true (fun cl _ => {
        kind := .unit (.imgst r), els := [{ lane := 0, va := 0, n := 0 }], args := (lanesOf cl.act).map fun l => words d 4 l ++ words a 4 l }) cl m)) b t) ∧
    (∀ d a r w z lay, Untagged m (Instr.binpop d a).shape → RecordAt (begun s b t) b t (val m a 0).toNat 64 32 r w →
      field r 1 1 % 16 = 4 → Unwatched x → (uWord (.lane b t first) (field r 8 8 + 72)).whole 4096 w [] = .done lay z →
      let count := field r 24 4
      let taken := field r 36 4
      let n := (lanesOf cl.act).length
      ∀ y, z.stashPut b ((val m a 0).toNat + 36) (leBytes 4 (min count (taken + n))) = .ok y →
      Does (.binpop d a) s ((y.modTeam b t fun n => { n with view := some (field r 8 8), vblayout := lay &&& 0x80FFFFFF }).modTeam b t
        (starts false (fun _ _ => { kind := .unit .binpop, els := [{ lane := 0, va := 0, n := 0 }], dests := groupBytes d 4
                                    aux := (List.range n).map fun i => if taken + i < count then field r 16 8 + 16 * (taken + i) else 0
                                    args := (List.range n).map fun i => if taken + i < count then [0] else [] }) cl m)) b t) ∧
    (∀ a, Untagged m (Instr.tilerel a).shape →
      let starting : Team → Team := starts true (fun _ _ => { kind := .value }) cl m
      (val m a 0 ∈ x.refs → Does (.tilerel a) s ((((begun s b t).modTile (val m a 0) TileSt.lose).modBlock b fun y => { y with
        refs := y.refs.erase (val m a 0) }).modTeam b t starting) b t) ∧
      (¬val m a 0 ∈ x.refs → Does (.tilerel a) s (onTeam s b t starting) b t)) ∧
    (∀ d a c v, Untagged m (Instr.tileacq d a c).shape → s.viewAt x.asid (pair m a 0).toNat = some v →
      let tx := (val m c 0).toNat % 65536
      let ty := (val m c 0).toNat / 65536
      let tile := if tx < v.tilesX ∧ ty < v.tilesY then tx + ty * v.tilesX else v.tilesX * v.tilesY
      let w := onTeam s b t fun n => { n with view := some (pair m a 0).toNat, vblayout := BitVec.ofNat 32 v.layout &&& 0x80FFFFFF }
      (∀ r z, w.acquire b v.id tile = some (r, z) → Does (.tileacq d a c) s (z.modTeam b t (startsValue d 1 (fun _ _ _ => r) cl m)) b t) ∧
      (w.acquire b v.id tile = none → x.drain = true →
        Does (.tileacq d a c) s (w.modTeam b t (startsValue d 1 (fun _ _ _ => 0xFFFFFFFF) cl m)) b t) ∧
      (w.acquire b v.id tile = none → x.drain = false →
        Does (.tileacq d a c) s (w.modTeam b t (starts false (fun _ _ => { kind := .tileAcq v.id tile, dests := groupBytes d 1 }) cl m)) b t)) ∧
    (∀ d a c lay w, Untagged m (Instr.tileacq d a c).shape → s.viewAt x.asid (pair m a 0).toNat = none → m.calm = true → Unwatched x →
      (uWord (.lane b t first) ((pair m a 0).toNat + 72)).whole 4096 (begun s b t) [] = .done lay w →
      Does (.tileacq d a c) s ((w.modTeam b t fun n => { n with view := some (pair m a 0).toNat, vblayout := lay &&& 0x80FFFFFF }).modTeam b t
        (startsValue d 1 (fun _ _ _ => 0xFFFFFFFE) cl m)) b t) ∧
    (∀ d a c, Untagged m (Instr.mdecl d a c).shape → m.calm = true →
      let addr := (pair m a 0).toNat
      let counts := val m c 0
      let plain := counts.toNat = counts.toNat % 512 + counts.toNat / 65536 % 512 * 65536 ∧ 1 ≤ counts.toNat % 512 ∧ counts.toNat % 512 ≤ 256 ∧
        1 ≤ counts.toNat / 65536 % 512 ∧ counts.toNat / 65536 % 512 ≤ 256
      (¬plain → Does (.mdecl d a c) s (((begun s b t).submitBatch b t).modTeam b t (startsValue d 1 (fun _ _ _ => 0xFFFFFFFC) cl m)) b t) ∧
      (∀ record w, plain →
      ((∃ v, s.viewAt x.asid addr = some v ∧ record = v.record ∧ w = begun s b t) ∨
        (s.viewAt x.asid addr = none ∧ Unwatched x ∧ (uRead (.lane b t first) addr 96).whole 4096 (begun s b t) [] = .done record w)) →
      let y := w.submitBatch b t
      let bad := viewBad (y.roomsOf x.suite) { id := 0, addr := addr, asid := x.asid, suite := x.suite, record := record
                                               room := field record 84 1 % 8 }
      let answers (z : State) (st : Word) : Prop := Does (.mdecl d a c) s (z.modTeam b t (startsValue d 1 (fun _ _ _ => st) cl m)) b t
      (bad = true → answers y 0xFFFFFFFD) ∧
      (bad = false → addr % 64 ≠ 0 → answers y 0xFFFFFFFE) ∧
      (bad = false → addr % 64 = 0 →
        (∀ st z, y.declare b t addr counts record = some (st, z) → answers z st) ∧
        (y.declare b t addr counts record = none → Does (.mdecl d a c) s (y.modTeam b t (starts false (fun _ _ =>
          { kind := .mdecl addr counts.toNat, dests := groupBytes d 1
            args := [(List.range 24).map fun i => BitVec.ofNat 32 (field record (4 * i) 4)] }) cl m)) b t)))) ∧
    (∀ d a c r w z zs, Untagged m (Instr.texfetch d a c).shape → RecordAt (begun s b t) b t (m.rd c 0).toNat 32 32 r w → texOk r = true →
      ¬Unwatched x → let op : Op := { kind := .unit (.texfetch r), els := [{ lane := 0, va := 0, n := 0 }], act := cl.act,
                                      args := (lanesOf cl.act).map (words a 2), dests := groupBytes d 4 }
      sortBy (fun p q => decide (p.lane < q.lane)) (((unitRun b t op (.texfetch r)).looks w).filter fun z => x.watched (!z.st) z.st z.va z.n) = z :: zs →
      Traps (.texfetch d a c) s b t cl 0x11 z.va cl.pc) ∧
    (∀ e ∈ ([(.moutv, false), (.moutp, true)] : List ((Opnd → Opnd → Instr) × Bool)), ∀ d a, Untagged m (e.1 d a).shape →
      let starting : Team → Team := starts true (fun _ _ => { kind := .value }) cl m
      let wrong (l : Nat) : Option Nat := moutBad m.batch e.2 (m.rd a l).toNat (words d 4 l)
      ((∀ l ∈ lanesOf cl.act, wrong l = none) → Does (e.1 d a) s (onTeam s b t fun n => starting { n with
        batch := (lanesOf cl.act).foldl (fun q l => q.map fun q => q.out e.2 (m.rd a l).toNat (words d 4 l)) n.batch }) b t) ∧
      ((∀ l ∈ lanesOf cl.act, wrong l ≠ none) → x.meshCheck = false → Does (e.1 d a) s ((onBlock s b t fun y => { y with
        mstat := (lanesOf cl.act).foldl (fun w _ => bumpStat w (if e.2 then 12 else 8)) y.mstat }).modTeam b t starting) b t) ∧
      (∀ n r, x.meshCheck = true → (lanesOf cl.act).filterMap wrong = n :: r → Traps (e.1 d a) s b t cl 0x0C n cl.pc))

/-- R391-R396, R398-R405, R407, R408: the traversal instructions start with their control record and their rays; each step of the
unit takes the first walk that has not ended one visit on, and the instruction answers with a result block a lane; a ray that can
hit nothing misses; an instance's transform; hits go to material bins; a batch walks its rays in order. -/
def Obligations.TraversalInstructionsAndWalks : Prop :=
  (∀ s b t cl, Executes s b t cl →
    let m := s.team b t
    let x := s.block b
    let first := (lanesOf cl.act).headD 0
    let ray (a : Opnd) (l : Nat) : List Word := (List.range 8).map fun i => m.rd a l i
    let control (off : Nat) (r : List Byte) (w : State) (a : Access) : Prop := RecordAt (begun s b t) b t off 32 32 r w ∧
      field r 12 4 % 128 = 0 ∧ field r 12 4 + 1152 ≤ x.lpsize ∧ (∀ o ∈ m.ops, o.isLaneAccess = false ∧ o.isWalk = false) ∧
      ∀ l ∈ lanesOf cl.act, Reaches w b t l (x.lpAddr t (field r 12 4) l) a ∧ Reaches w b t l (x.lpAddr t (field r 12 4 + 124) l) a
    let walks (d : Opnd) (trec : Nat) (ws : List RayWalk) : Team → Team := starts false (fun _ m =>
      { kind := .walk trec, dests := groupBytes d 8, els := [{ lane := 0, va := 0, n := 0 }], args := [[m.vblayout]], walks := ws }) cl m
    (∀ d a c r w, Untagged m (Instr.trace d a c).shape → control (val m c 0).toNat r w .laneStore →
      Does (.trace d a c) s (w.modTeam b t (walks d (field r 12 4) ((lanesOf cl.act).map fun l => (RayWalk.begin
        { root := field r 0 8, budget := field r 8 2, rmask := field r 10 1, tflags := field r 11 1, ray := ray a l })))) b t) ∧
    let touched (trec : Nat) (n : Team) : Team := (lanesOf cl.act).foldl (fun n l => n.lpTouch trec l) n
    (∀ d a c r w, Untagged m (Instr.trcont d a c).shape → control (val m c 0).toNat r w .laneStore →
      Does (.trcont d a c) s ({ w.modTeam b t (touched (field r 12 4)) with free := w.free + 48 }.modTeam b t
        (walks d (field r 12 4) ((lanesOf cl.act).map fun l =>
          (TraceCtl.of r).resume (m.lpRead (field r 12 4) l 128) (m.rd a l).toNat (w.free + 3 * l)))) b t) ∧
    (∀ d c r w, Untagged m (Instr.trstat d c).shape → control (val m c 0).toNat r w .laneLoad →
      Does (.trstat d c) s ((w.modTeam b t (touched (field r 12 4))).modTeam b t (startsValue d 2 (fun m l i =>
        let z := m.lpRead (field r 12 4) l 128
        BitVec.ofNat 32 (if i = 0 then field z 38 1 % 8 + field z 32 4 / 2 ^ 27 * 256 + field z 36 1 * 65536 + (if bit (field z 38 1) 3 then 2 ^ 24 else 0)
          else field z 108 4)) cl m)) b t) ∧
    (∀ d a c, Untagged m (Instr.trxform d a c).shape → Unwatched x → InRange 64 ((lanesOf cl.act).map fun l => (pair m c l).toNat) →
      Does (.trxform d a c) s (onTeam s b t (starts false (fun cl _ =>
        { kind := .unit .xform, dests := groupBytes d 8, els := [{ lane := 0, va := 0, n := 0 }]
          aux := (lanesOf cl.act).map fun l => (pair m c l).toNat, args := (lanesOf cl.act).map (ray a) }) cl m)) b t) ∧
    (∀ d a c r w hits z, Untagged m (Instr.binhit d a c).shape → RecordAt (begun s b t) b t (val m c 0).toNat 32 32 r w → Unwatched x →
      (uHits (.lane b t first) r ((lanesOf cl.act).map fun l => (ray d l, (m.rd a l).toNat, l))).whole 4096 w [] = .done hits z →
      let p := hitPlan r hits
      ∀ y, z.stashPut b ((val m c 0).toNat + 20) (leBytes 4 p.cursor ++ leBytes 4 p.dropped) = .ok y →
      Does (.binhit d a c) s (y.modTeam b t (starts true (fun _ _ => if p.stores = [] then { kind := .value } else
        { kind := .binPush p.stores p.pushes, els := [{ lane := 0, va := 0, n := 0 }] }) cl m)) b t)) ∧
  (∀ s b t id o trec, (s.team b t).op id = some o → o.kind = .walk trec → o.faulted = false → (s.block b).saved = none →
    (s.team b t).earlierDone id = true → (s.team b t).earlierTranslated id = true →
    let lanes := lanesOf o.act
    let note (i : Nat) (w : RayWalk) (v : State) : State := v.modOp b t id fun o => { o with
      walks := o.walks.set i w, aux := if w.ended.isSome then [o.aux.headD 0 + 2 ^ i] else o.aux, log := [] }
    let env : WalkEnv := ⟨.core (s.block b).core (s.block b).asid, none⟩
    ((∀ e ∈ o.walks.zipIdx, e.1.ended.isSome = true ∧ bit (o.aux.headD 0) e.2 = true) → o.ecc = false →
      let out := (lanes.zip o.walks).flatMap fun (l, w) =>
        (o.dests.zip (w.result ((o.args.headD []).headD 0).toNat)).map fun (r, y) => (r * 16 + l, y)
      exec (.longLatencyComplete (.team b t) id) s = .next (s.modTeam b t fun m =>
        let n := out.foldl (fun n w => n.writeKeyed w.1 w.2) m
        Team.freed { n with ops := n.ops.filter (·.id != id) })) ∧
    (∀ w i, o.walks.zipIdx.find? (fun (w, i) => w.ended.isNone || bit (o.aux.headD 0) i == false) = some (w, i) →
      (w.ended.isSome = true → w.idle = false → exec (.longLatencyComplete (.team b t) id) s =
        .next (note i w (s.modTeam b t fun n => n.lpWrite trec (lanes.getD i 0) (w.record w.endState)))) ∧
      (w.ended.isSome = true → w.idle = true → exec (.longLatencyComplete (.team b t) id) s =
        .next (note i w (s.modTeam b t fun n => n.lpWrite (trec + 38) (lanes.getD i 0)
          [BitVec.ofNat 8 (field (n.lpRead trec (lanes.getD i 0) 128) 38 1 / 8 * 8 + 4)]))) ∧
      (∀ v log, w.ended = none → w.step env s o.log = .more v log →
        exec (.longLatencyComplete (.team b t) id) s = .next (v.modOp b t id fun o => { o with log := log })) ∧
      (∀ y v, w.ended = none → w.step env s o.log = .done y v → y.ended = none →
        exec (.longLatencyComplete (.team b t) id) s = .next (note i y v)) ∧
      (∀ y v, w.ended = none → w.step env s o.log = .done y v → y.ended.isSome = true → y.idle = false →
        exec (.longLatencyComplete (.team b t) id) s =
          .next (note i y (v.modTeam b t fun n => n.lpWrite trec (lanes.getD i 0) (y.record y.endState)))))) ∧
  (∀ (w : RayWalk), w.begin = if 2 ^ 56 ≤ w.root then w.fin 4 0x07 else if w.root % 64 ≠ 0 then w.fin 4 0x06 else
    if rayMisses w.ray then w.fin 0 0 else w) ∧
  (∀ (r : List Word), r.length = 8 → (rayMisses r = true ↔
    (∃ x ∈ r, fmtF32.val x.toNat = .nan) ∨
    (∃ lo hi, extOf (r.getD 3 0) = some lo ∧ extOf (r.getD 7 0) = some hi ∧ hi.lt lo = true) ∨
    (∀ i ∈ [4, 5, 6], (fmtF32.val (r.getD i 0).toNat).isZero = true))) ∧
  (∀ (w : RayWalk) lay code detail, w.ended = some (code, detail) →
    (code ≠ 1 → code ≠ 3 → w.result lay = BitVec.ofNat 32 (w.used * 65536 + detail * 256 + code) :: List.replicate 7 0xFFFFFFFF) ∧
    (∀ t u v c k i, code = 1 → w.hit = some [t, u, v, c, k, i] → w.result lay =
      [BitVec.ofNat 32 (w.used * 65536 + detail * 256 + code), t, u, v, BitVec.ofNat 32 (identOf lay i.toNat c.toNat k.toNat), i, c, k])) ∧
  (∀ (leaf : List Byte) (r : List Word), ∀ k < 3,
    let f (i : Nat) : Val := fmtF32.val (field leaf (16 * k + 4 * i) 4)
    let g (i : Nat) : Val := fmtF32.val (r.getD i 0).toNat
    let one : Val := .fin false 1 0
    let nil : Val := .fin false 0 0
    (xformRay leaf r).getD k 0 = BitVec.ofNat 32 (fmtF32.rnd (sumVals 0 [(f 0).mul (g 0), (f 1).mul (g 1), (f 2).mul (g 2), (f 3).mul one]) 0 false 0).bits ∧
    (xformRay leaf r).getD (4 + k) 0 =
      BitVec.ofNat 32 (fmtF32.rnd (sumVals 0 [(f 0).mul (g 4), (f 1).mul (g 5), (f 2).mul (g 6), (f 3).mul nil]) 0 false 0).bits ∧
    (xformRay leaf r).getD 3 0 = r.getD 3 0 ∧ (xformRay leaf r).getD 7 0 = r.getD 7 0) ∧
  (∀ s b t id o stores pushes, (s.team b t).op id = some o → o.kind = .binPush stores pushes → o.faulted = false → (s.block b).saved = none →
    (s.team b t).earlierDone id = true → (s.team b t).earlierTranslated id = true →
    let u := (s.block b).suite
    let storing : U Unit := stores.forM fun (va, bytes) => uWrite (.lane b t ((lanesOf o.act).headD 0)) va bytes
    (∀ v log, stores ≠ [] → storing.step s o.log = .more v log →
      exec (.longLatencyComplete (.team b t) id) s = .next (v.modOp b t id fun o => { o with log := log })) ∧
    (∀ v, stores ≠ [] → storing.step s o.log = .done () v →
      exec (.longLatencyComplete (.team b t) id) s = .next (v.modOp b t id fun o => { o with kind := .binPush [] pushes, els := [], log := [] })) ∧
    (∀ q wb q' wb' r v, stores = [] → pushes = (q, wb) :: (q', wb') :: r → s.pushOne u q wb = some v →
      exec (.longLatencyComplete (.team b t) id) s = .next (v.modOp b t id fun o => { o with kind := .binPush [] ((q', wb') :: r) }))) ∧
  (∀ s j (x : Job) body (st : BatchSt), s.job j = some x → x.kind = .batch body st → s.jobRuns j x = true → st.parked = false →
    let via : Via := .core x.core x.asid
    let put (v : State) (st : BatchSt) (pos : Nat) : State := v.modJob j fun x => { x with kind := .batch body st, pos := pos }
    let goes (v : State) : Prop := exec (.traversalBatchComplete j) s = .next v
    let ray : U RayWalk := batchRay via (BatchCtl.of body) x.pos st.again
    let group := field body 40 8 ≠ 0 ∧ ((x.pos + 1) % 16 = 0 ∨ x.pos + 1 = field body 48 4)
    (∀ q wb r v, st.pushes = (q, wb) :: r → s.pushOne x.suite q wb = some v → goes (put v { st with pushes := r } x.pos)) ∧
    (st.pushes = [] → st.walk = none → field body 48 4 ≤ x.pos → goes (s.endJob j 0 0)) ∧
    (st.pushes = [] → st.walk = none → x.pos < field body 48 4 →
      (∀ v log, ray.step s st.log = .more v log → goes (put v { st with log := log } x.pos)) ∧
      (∀ w v, ray.step s st.log = .done w v →
        goes (put v { st with walk := some w, log := [], declined := none, again := none } x.pos))) ∧
    (∀ w, st.pushes = [] → st.walk = some w → w.ended = none →
      (∀ v log, w.step ⟨via, some (bit (field body 55 1) 4)⟩ s st.log = .more v log → goes (put v { st with log := log } x.pos)) ∧
      (∀ y v, w.step ⟨via, some (bit (field body 55 1) 4)⟩ s st.log = .done y v →
        goes (put v { st with walk := some y, log := [], declined := none, again := none } x.pos))) ∧
    (∀ w v, st.pushes = [] → st.walk = some w → w.ended.isSome = true →
      (st.stage = 0 → (uWrite via (field body 24 8 + 128 * x.pos) (w.record w.endState)).step s st.log = .done () v →
        goes (put v { st with stage := 1, log := [], declined := none } x.pos)) ∧
      (st.stage = 1 → (uWrite via (field body 16 8 + 32 * x.pos) ((w.result (field body 56 4)).flatMap fun y => leBytes 4 y.toNat)).step s st.log =
          .done () v →
        (group → goes (put v { st with stage := 2, log := [], declined := none } x.pos)) ∧
        (¬group → goes (put v { pushes := [] } (x.pos + 1)))) ∧
      (∀ ps, st.stage = 2 → (batchHits via (BatchCtl.of body) (x.pos / 16 * 16) (x.pos + 1)).step s st.log = .done ps v →
        goes (put v { pushes := ps } (x.pos + 1))))) ∧
  (∀ (s : State) j (x : Job) body (st : BatchSt), x.kind = .batch body st → st.parked = false → x.ended = none →
    let park (v : State) (st : BatchSt) : State := v.modJob j fun x => { x with kind := .batch body { st with parked := true } }
    (st.walk = none → s.parkBatch j x = some (park s st)) ∧
    (∀ w v, st.walk = some w → w.ended = none → s.engWrite x.core x.asid (field body 24 8 + 128 * x.pos) (w.record 3) = .ok v →
      s.parkBatch j x = some (park v { st with walk := none, log := [], again := some (w.used, w.before) })))

/-- R357, R359, R361-R369, R371-R376, R379, R381-R384, R451, R452: an instruction that reads tables or textures completes with what it read
as one point of the memory order; a batch is culled and binned; a tile is resolved in the batch order under the edge and depth rules,
classified by material and released; waits for views and tiles end. -/
def Obligations.GraphicsUnitSteps : Prop :=
  (∀ s b t id o u, (s.team b t).op id = some o → o.kind = .unit u → o.faulted = false → o.ecc = false → (s.block b).saved = none →
    (s.team b t).earlierDone id = true → (s.team b t).earlierTranslated id = true →
    (∀ ws v, (unitRun b t o u).step s o.log = .done ws v → exec (.longLatencyComplete (.team b t) id) s = .next (v.modTeam b t fun m =>
      let n := ws.foldl (fun n w => n.writeKeyed w.1 w.2) m
      Team.freed { n with ops := n.ops.filter (·.id != id) })) ∧
    (∀ v log, (unitRun b t o u).step s o.log = .more v log →
      exec (.longLatencyComplete (.team b t) id) s = .next (v.modOp b t id fun o => { o with log := log })) ∧
    (∀ va, (unitRun b t o u).step s o.log = .stop (.poison va) → exec (.longLatencyComplete (.team b t) id) s = .next (s.modTeam b t fun m =>
      let n := Team.freed { m with ops := m.ops.filter (·.id != id) }
      { n with delayed := n.delayed ++ [{ code := .ecc, pc := o.pc, addr := va }] }))) ∧
  (∀ (via : Via) va n (s : State) l bytes, Performed va n l bytes → (uRead via va n).step s l = .done bytes s) ∧
  (∀ (via : Via) va n (s : State) (ps : List (List Byte)) lo k, (unitsOf va n)[ps.length]? = some (lo, k) →
    let l : ULog := ps.map some
    (lo = max va (va / 32 * 32 + 32 * ps.length) ∧ lo + k = min (va + n) (va / 32 * 32 + 32 * ps.length + 32)) ∧
    (∀ pa w r z, s.unitPlace via lo k false = .ok (.dev pa, w) → w.unitRead via lo pa k = .ok (some r, z) →
      (uRead via va n).step s l = .more z (l ++ [some r])) ∧
    (∀ ba w, s.unitPlace via lo k false = .ok (.host ba, w) →
      (uRead via va n).step s l = .more w (l ++ [some (readBytes w.hostMem ba k)])) ∧
    (∀ m, s.unitPlace via lo k false = .error (.miss m) → (uRead via va n).step s l = .stop (.miss m))) ∧
  (∀ (via : Via) va bytes (s : State) i lo k, (unitsOf va bytes.length)[i]? = some (lo, k) →
    let l : ULog := List.replicate i (some [])
    ∀ pa w z, s.unitPlace via lo k true = .ok (.dev pa, w) → w.unitWrite via pa ((bytes.drop (lo - va)).take k) = .ok z →
      (uWrite via va bytes).step s l = .more z (l ++ [some []])) ∧
  (∀ (via : Via) itable lay ident (s : State) e l,
    let inst := ident / 2 ^ (lay / 256 % 256 + lay % 256)
    let c := ident / 2 ^ (lay % 256) % 2 ^ (lay / 256 % 256)
    let t := ident % 2 ^ (lay % 256)
    Performed (itable + 128 * inst) 96 l e →
      (lay / 256 % 256 = 0 → (uNamed via itable lay ident).step s l = .done ⟨inst, c, t, field e 88 4, e⟩ s) ∧
      (∀ k l', lay / 256 % 256 ≠ 0 → Performed (field e 80 8 + 8 * c) 8 l' k →
        (uNamed via itable lay ident).step s (l ++ l') = .done ⟨inst, c, field k 0 4 + t, field e 88 4 + field k 4 2, e⟩ s)) ∧
  (∀ (via : Via) (v : View) blk k n s l, blk.getD 3 0 = (0xFFFFFFFF : Word) →
    (attrLane via v blk k n false).step s l = .done (List.replicate n 0x7FC00000) s ∧
    (attrLane via v blk k n true).step s l = .done (List.replicate (2 * n) 0x7FC00000) s) ∧
  (∀ (via : Via) (v : View) blk k n s l ws z, (attrWords via v blk k n).step s l = .done (some ws) z →
    let sum (o i : Nat) : Word := weighed ws ((blk.drop o).take 3) i
    (attrLane via v blk k n false).step s l = .done ((List.range n).map (sum 0)) z ∧
    (attrLane via v blk k n true).step s l = .done ((List.range n).map (sum 4) ++ (List.range n).map (sum 8)) z) ∧
  (∀ (via : Via) r (x y : Word) (s : State) log,
    let l := y.toNat / 2 ^ 28
    let row := y.toNat % 2 ^ 28
    let w := max 1 (field r 8 2 / 2 ^ l)
    let h := max 1 (field r 10 2 / 2 ^ l)
    ((field r 12 1 ≤ l ∨ w ≤ x.toNat ∨ h ≤ row) → (uFetch via r x y).step s log = .done [0, 0, 0, 0] s) ∧
    (∀ px, l < field r 12 1 → x.toNat < w → row < h → field r 13 1 = 2 → Performed (field r 0 8 +
        16 * ((List.range l).map fun i => max 1 (field r 8 2 / 2 ^ i) * max 1 (field r 10 2 / 2 ^ i)).sum + (row * w + x.toNat) * 16) 16 log px →
      (uFetch via r x y).step s log = .done ((List.range 4).map fun i => blend [(Q.ofInt 1, .val (fmtF32.val (field px (4 * i) 4)))]) s)) ∧
  (∀ (via : Via) d col r s log, recKind r = .raster → recHelper r = false → recX r < field d 8 2 → recY r < field d 10 2 → field d 13 1 = 2 →
    (uImgst via d col r).step s log = (uWrite via (field d 0 8 + (recY r * field d 8 2 + recX r) * 16)
      ((List.range 4).flatMap fun i => leBytes 4 (col.getD i 0).toNat)).step s log) ∧
  (∀ r x rest s, Tab.get [] s.binq r = x :: rest → exec (.binBatch r) s = .next ({ s with binq := Tab.set [] s.binq r rest }.binBatch x)) ∧
  (∀ (s : State) (x : Sent) v, s.viewOf x.batch.view = some v →
    (v.closed = true → s.binBatch x = (s.modView v.id fun v => { v with dropped := v.dropped + x.batch.prims.length }).viewStats v.id) ∧
    (v.closed = false → s.binBatch x = (s.modView v.id fun v => x.prims.foldl View.bin v).viewStats v.id)) ∧
  (∀ (v : View) (p : Prim),
    (culls v.ctl p = true → v.bin p = { v with culled := v.culled + 1 }) ∧
    (culls v.ctl p = false → v.binsz < v.used + (64 + 8 * (v.tilesOf p).length) → v.bin p = { v with dropped := v.dropped + 1, ovf := true }) ∧
    (culls v.ctl p = false → v.used + (64 + 8 * (v.tilesOf p).length) ≤ v.binsz → (v.bin p).used = v.used + 64 + 8 * (v.tilesOf p).length ∧
      (v.bin p).culled = v.culled ∧ (v.bin p).dropped = v.dropped ∧ ∀ t, t ∈ v.tilesOf p → (v.tilesOf p).count t = 1 →
        ∃ z, Tab.find (v.bin p).tiles t = some z ∧ z.prims = ((Tab.find v.tiles t).map (·.prims)).getD [] ++ [p])) ∧
  (∀ ctl (p : Prim),
    ((∃ q ∈ p.verts, ∃ i < 4, qOf (q.getD i 0) = none) → culls ctl p = true) ∧
    ((∃ w ∈ comps p.verts 3, w.pos = false) → culls ctl p = true)) ∧
  (∀ s r id t v z n, s.viewOf id = some v → Tab.find v.tiles t = some z → v.room = r → v.closed = true → z.phase = .opened →
    let p := (t % v.tilesX + 2 * (t / v.tilesX)) % 6
    (∀ e ∈ v.tiles, e.2.phase = .opened → t ≤ e.1 ∨ 32 ≤ (s.pins r (v.post e.1)).length) → (List.range 32).find? (fun n => !(s.pins r p).contains n) = some n →
    let g := if (Tab.get 0 s.gens ((r * 6 + p) * 32 + n) + 1) % 65536 = 0 then 1 else (Tab.get 0 s.gens ((r * 6 + p) * 32 + n) + 1) % 65536
    exec (.tileResolveStart r id t) s = .next ({ s with gens := Tab.set 0 s.gens ((r * 6 + p) * 32 + n) g }.modView id fun v =>
      v.modTile t fun z => { z with phase := .resolving, slot := n, handle := BitVec.ofNat 32 (g * 65536 + r * 4096 + p * 256 + n)
                                    store := List.replicate 1024 (v.empty, v.clear) })) ∧
  (∀ s r id t v z, s.viewOf id = some v → Tab.find v.tiles t = some z → v.room = r → z.phase = .resolving →
    let store := (sortBy (fun x y => keyLt x.key y.key) z.prims).foldl (v.apply t) z.store
    exec (.tileResolved r id t) s = .next (((s.modView id fun v => { v.modTile t (fun z => { z with phase := .resolved, store := store }) with
      nres := v.nres + 1 }).viewStats id).serveTile id t)) ∧
  (∀ (v : View) t (store : List (Nat × Word)) (p : Prim) i, i < store.length →
    let x := t % v.tilesX * 32 + i % 32
    let y := t / v.tilesX * 32 + i / 32
    let old := store.getD i (0, 0)
    (v.apply t store p).length = store.length ∧
    (v.width ≤ x ∨ v.height ≤ y ∨ coverDepth v p x y = none → (v.apply t store p).getD i (0, 0) = old) ∧
    (∀ d, x < v.width → y < v.height → coverDepth v p x y = some d →
      (v.apply t store p).getD i (0, 0) = if depthPasses v.ctl d old.2 then (p.ident, d) else old)) ∧
  (∀ ctl (d old : Word), ctl < 4 →
    (ctl = 2 → depthPasses ctl d old = true) ∧
    (ctl = 1 → depthPasses ctl d old = ((fmtF32.val d.toNat).lt (fmtF32.val old.toNat) || (fmtF32.val d.toNat).eqv (fmtF32.val old.toNat))) ∧
    (ctl = 0 → depthPasses ctl d old = (fmtF32.val d.toNat).lt (fmtF32.val old.toNat))) ∧
  (∀ s r id t v z bins nomat w, s.viewOf id = some v → Tab.find v.tiles t = some z → v.room = r → z.taken = false → z.held = false →
    (z.phase = .resolved ∨ z.phase = .shading) →
    (∀ y ∈ s.views, y.room = r → ∀ e ∈ y.tiles, y.post e.1 = v.post t → ¬(y.id = id ∧ e.1 = t) → e.2.held = false ∧ e.2.log = []) →
    (∀ w log, (classifyRun v t z).step s z.log = .more w log → exec (.classifyTile r id t) s = .next (w.modView id fun v =>
      v.modTile t fun z => { z with log := log })) ∧
    (∀ m ro, (classifyRun v t z).step s z.log = .stop (.miss m) → m.why = .fault ro → exec (.classifyTile r id t) s =
      .next { (s.modView id fun v => v.modTile t fun z => { z with held := true }) with faults := s.faults ++
        [{ asid := m.asid, va := m.va / 4096 * 4096, kind := 4, readOnly := ro, who := .classify r id t }] }) ∧
    ((classifyRun v t z).step s z.log = .done (bins, nomat) w →
    let sent := bins.foldl (fun (a : State) (mat, word, ents, count, flags) =>
      a.sendBin v.suite word (leBytes 8 (word % 4096 * 2 ^ 28 + word / 65536 % 4096 * 2 ^ 16 + 4 * 2 ^ 8 + 2) ++ leBytes 8 v.addr ++
        leBytes 8 ents ++ leBytes 4 count ++ leBytes 4 z.handle.toNat ++ leBytes 4 mat ++ leBytes 4 0 ++ leBytes 4 flags ++ List.replicate 20 0)) w
    exec (.classifyTile r id t) s = .next ((sent.modView id fun v => { v.modTile t (fun z => { z with
      taken := true, count := z.count + bins.length, log := []
      phase := if z.count + bins.length = 0 then .released else .shading }) with
      nomat := v.nomat + nomat }).viewStats id))) ∧
  (∀ (s : State) u word wb,
    let q := word % 4096
    ((s.queue u q).accepts = false ∨ (s.queue u q).kind ≠ 1 → s.sendBin u word wb = s.refuse u 2 (field wb 8 8) q) ∧
    ((s.queue u q).accepts = true → (s.queue u q).kind = 1 →
      let waits : State := s.modSuite u fun x => { x with pushes := x.pushes ++ [(q, wb)] }
      ((s.suite u).pushes.any (fun e => e.1 == q) = true → s.sendBin u word wb = waits) ∧
      ((s.suite u).pushes.any (fun e => e.1 == q) = false → s.sendBin u word wb = (s.enqueue u q wb).getD waits))) ∧
  (∀ s r id t v z, s.viewOf id = some v → Tab.find v.tiles t = some z → v.room = r → z.phase = .released →
    let n := if v.wide then 8 else 4
    let bytes := z.store.flatMap fun (id, d) => leBytes n id ++ leBytes 4 d.toNat
    let at_ := v.vbout + t * 1024 * (n + 4) + z.pos
    let k := min (at_ + (bytes.length - z.pos)) (at_ / 32 * 32 + 32) - at_
    (v.vbout = 0 ∨ bytes.length ≤ z.pos →
      exec (.vboutWriteDone r id t) s = .next ((s.modView id fun v => { v with tiles := Tab.erase v.tiles t }).untrack id)) ∧
    (v.vbout ≠ 0 → z.pos < bytes.length → exec (.vboutWriteDone r id t) s =
      .next ((s.roomWrite r v.asid at_ ((bytes.drop z.pos).take k)).modView id fun v => v.modTile t fun z => { z with pos := z.pos + k }))) ∧
  (∀ (s : State) b view tile,
    (s.viewOf view = none → s.acquire b view tile = some (0xFFFFFFFE, s)) ∧
    (∀ v, s.viewOf view = some v → v.closed = true → Tab.find v.tiles tile = none → s.acquire b view tile = some (0xFFFFFFFE, s)) ∧
    (∀ v z, s.viewOf view = some v → Tab.find v.tiles tile = some z → (z.phase = .resolved ∨ z.phase = .shading) →
      (8 ≤ (s.block b).refs.length → s.acquire b view tile = some (0xFFFFFFFD, s)) ∧
      ((s.block b).refs.length < 8 → s.acquire b view tile = some (z.handle, (s.modTile z.handle TileSt.gain).modBlock b fun x =>
        { x with refs := x.refs ++ [z.handle] })))) ∧
  (∀ s b t id o, (s.team b t).op id = some o → (s.block b).saved = none → o.ecc = false →
    let ends (v : State) (w : Word) : Prop := exec (.longLatencyComplete (.team b t) id) s = .next (v.modTeam b t fun m =>
      let n := m.writeKeyed (o.dests.headD 96 * 16) w
      Team.freed { n with ops := n.ops.filter (·.id != id) })
    (∀ view tile, o.kind = .tileAcq view tile →
      (∀ w v, s.acquire b view tile = some (w, v) → ends v w) ∧
      (s.acquire b view tile = none → (s.block b).drain = true → ends s 0xFFFFFFFF)) ∧
    (∀ addr counts, o.kind = .mdecl addr counts →
      ((s.block b).drain = true → ends s 0xFFFFFFFF) ∧
      (∀ w v, (s.block b).drain = false → s.declare b t addr (BitVec.ofNat 32 counts)
        ((o.args.headD []).flatMap fun w => leBytes 4 w.toNat) = some (w, v) → ends v w)))

/-! ## The engines and the barrier unit (10, 12, 03) -/

/-- R244-R247, R253, R265-R267, R316, R319: an engine job moves its next unit, or ends: its token word is written and its tag clears, or its arrival goes to
its barrier first; a stream job starts and moves tile by tile; a near-memory engine takes its next job in order; the selection
rule. -/
def Obligations.EngineSteps : Prop :=
  (∀ s j (x : Job), s.job j = some x → s.jobRuns j x = true →
    let next (v : State) : Prop := exec (.jobComplete j) s = .next v
    (∀ d, x.kind = .bad d → next (s.endJob j 1 d)) ∧
    (∀ zs want, x.kind = .copy zs want → want ≤ zs.length →
      (sliceAt x.pos zs = none → next (s.endJob j 0 0)) ∧
      (∀ (z : Slice) p, sliceAt x.pos zs = some (z, p) →
        let n := min (z.dst + z.len) ((z.dst + p) / 32 * 32 + 32) - (z.dst + p)
        (∀ bytes v w, s.jobRead x z.srcStash (z.src + p) n = .ok (bytes, v) → v.jobWrite x z.dstStash (z.dst + p) bytes = .ok w →
          next (w.modJob j fun y => { y with pos := x.pos + n })) ∧
        (∀ c d, s.jobRead x z.srcStash (z.src + p) n = .error (.ends c d) → next (s.endJob j c d)) ∧
        (∀ m ro, s.jobRead x z.srcStash (z.src + p) n = .error (.page m) → m.why = .fault ro →
          next { s.modJob j fun x => { x with held := true } with
            faults := s.faults ++ [{ asid := m.asid, va := m.va / 4096 * 4096, kind := 3, readOnly := ro, who := .job j }] }))) ∧
    (∀ dst len pat st, x.kind = .fill dst len pat st →
      let n := min (dst + len) ((dst + x.pos) / 32 * 32 + 32) - (dst + x.pos)
      let bytes := (List.range n).map fun i => BitVec.ofNat 8 (pat.toNat / 256 ^ ((x.pos + i) % 4))
      (len ≤ x.pos → next (s.endJob j 0 0)) ∧
      (∀ w, x.pos < len → s.jobWrite x st (dst + x.pos) bytes = .ok w → next (w.modJob j fun y => { y with pos := x.pos + n }))) ∧
    (∀ a bytes, x.kind = .write a bytes →
      let n := min (a + bytes.length) ((a + x.pos) / 32 * 32 + 32) - (a + x.pos)
      (bytes.length ≤ x.pos → next (s.endJob j 0 0)) ∧
      (∀ w, x.pos < bytes.length → s.jobWrite x false (a + x.pos) ((bytes.drop x.pos).take n) = .ok w →
        next (w.modJob j fun y => { y with pos := x.pos + n }))) ∧
    (∀ a slot old, x.kind = .layout a slot old →
      let u := a + x.buf.length
      let n := min (a + 64) (u / 32 * 32 + 32) - u
      (∀ bs v, x.buf.length < 64 → s.jobRead x false u n = .ok (bs, v) → next (v.modJob j fun x => { x with buf := x.buf ++ bs })) ∧
      (64 ≤ x.buf.length → layoutBad x.buf = none →
        next ((s.modJob j fun x => { x with kind := .layout a slot (some (some (Layout.of x.buf))) }).endJob j 0 0)) ∧
      (∀ o, 64 ≤ x.buf.length → layoutBad x.buf = some o →
        next ((s.modJob j fun x => { x with kind := .layout a slot (some none) }).endJob j 1 o))) ∧
    (∀ r, x.kind = .stream r → r.started = true → r.slot = none → r.last ≤ r.tile → next (s.endJob j 0 0)) ∧
    (∀ sel kind body, x.kind = .near sel kind body true none →
      let own := roomOfCore x.core
      let p := PklCard.of body
      let rooms := s.roomsOf x.suite
      let plan := if kind = 3 then pklPlan own rooms p x.buf else if kind = 4 then pklgPlan own p else selPlan own body
      let made := if kind = 3 then pklCompute rooms.length p x.buf else if kind = 4 then x.buf else selCompute own body x.buf
      (unitAt x.buf.length plan = none → next (s.modJob j fun x => { x with kind := .near sel kind body true (some made), buf := [] })) ∧
      (∀ room a n, unitAt x.buf.length plan = some (room, a, n) →
        (s.suiteOfRoom room ≠ x.suite → next (s.endJob j 2 0x07)) ∧
        (∀ pg w pa, s.suiteOfRoom room = x.suite → s.translate x.core x.asid a .load = (.ok pg, w) → pg.place a = .dev pa →
          (∀ v, s.collectAt (48 + room) (pa / 128) = some (some v) → next v) ∧
          (∀ bs v, s.collectAt (48 + room) (pa / 128) = some none → (s.leaves (48 + room) (pa / 128)).jobRead x false a n = .ok (bs, v) →
            next (v.modJob j fun x => { x with buf := x.buf ++ bs }))))) ∧
    (∀ sel kind body d, x.kind = .near sel kind body true (some d) → kind ≠ 4 →
      let a := if kind = 3 then (PklCard.of body).out else field body 88 8
      let n := min (a + d.length) ((a + x.pos) / 32 * 32 + 32) - (a + x.pos)
      (d.length ≤ x.pos → next (s.endJob j 0 0)) ∧
      (∀ w, x.pos < d.length → s.jobWrite x false (a + x.pos) ((d.drop x.pos).take n) = .ok w →
        next (w.modJob j fun y => { y with pos := x.pos + n }))) ∧
    (∀ sel body d, x.kind = .near sel 4 body true (some d) →
      (pklgAdd (PklCard.of body) d x.pos = none → next (s.endJob j 0 0)) ∧
      (∀ a v pg w pa, pklgAdd (PklCard.of body) d x.pos = some (a, v) → a + 4 ≤ 2 ^ 56 → s.translate x.core x.asid a .store = (.ok pg, w) →
        pg.place a = .dev pa → w.poisoned (pa / 128 * 128) 128 = false →
        next (((w.joinClock x.core).agentWrite engineRank pa (leBytes 4 (AtomOp.addF.new (ofLe (w.devRead pa 4)) v 0)) x.asid).modJob j
          fun y => { y with pos := x.pos + 1 })))) ∧
  (∀ (s : State) j (x : Job) b code detail, s.job j = some x → x.owner = some b → (∀ r, x.kind = .stream r → r.slot = none) →
    let v := s.seeAgents x.core
    (∀ n, x.bar = some n → s.endJob j code detail = ({ v with jobs := Tab.put s.jobs j { x with ended := some (code, detail), arriving := true } }.modBlock b fun y =>
      { y with barOps := y.barOps ++ [(⟨s.tick + 4, .jobArrive n j⟩ : BarMsg)] })) ∧
    (∀ t r k f, x.bar = none → x.waybill = none → (∀ a n l, x.kind ≠ .layout a n l) → (∀ q, x.kind ≠ .stream q) →
      x.toks = [⟨t, some r, k, f⟩] → s.endJob j code detail =
        { v with jobs := Tab.erase s.jobs j, nearQueue := s.nearQueue.filter fun e => e.2.2 != j }.modTeam b t fun m => { m with
          sregs := Tab.set 0 m.sregs r (BitVec.ofNat 32 (0x80000000 + detail * 256 + code))
          tags := m.tags.filter fun e => !(e.1 == 96 + r && e.2 == Tag.token) })) ∧
  (∀ (s : State) j (x : Job) b r slot v code detail, s.job j = some x → x.kind = .stream r → x.owner = some b → r.slot = some slot →
    s.slotDone b r.ring false = .ok v →
    s.giveSlot j = v.modJob j (fun x => { x with kind := .stream { r with slot := none } }) ∧
    s.endJob j code detail = (s.giveSlot j).endJob j code detail) ∧
  (∀ s j (x : Job) b r, s.job j = some x → x.kind = .stream r → x.owner = some b → r.started = false → s.layoutOwed b j r.lslot = false →
    x.held = false → x.ended = none → (s.block b).saved = none → s.jobFollows x = true →
    let lay := if r.lslot < 8 then Tab.get none (s.block b).layouts r.lslot else none
    (∀ o, s.streamBad b r lay = some o → exec (.streamJobStart j) s = .next (s.endJob j 1 o)) ∧
    (∀ l, s.streamBad b r lay = none → lay = some l → exec (.streamJobStart j) s = .next (s.modJob j fun x => { x with kind := .stream { r with
      started := true, lay := some l, tile := r.first, last := if r.count = 0 then l.tiles else min l.tiles (r.first + r.count) } }))) ∧
  (∀ s j (x : Job) b r, s.job j = some x → x.kind = .stream r → x.owner = some b → r.started = true → s.jobRuns j x = true → r.tile < r.last →
    let drain := bit r.ctl 0
    (∀ bytes v, r.slot = none → s.ringBusy b j r.ring = false → s.tilesBusy x.core < 2 →
      (∀ e ∈ s.jobs, e.1 < j → e.2.core = x.core → s.streamReady e.1 e.2 = false) →
      s.stashGet b r.ring 32 = .ok (bytes, v) → bit r.stamp 7 = false →
      let h := RingHdr.of bytes
      let counts (h : RingHdr) : List Byte := [h.wptr, h.rptr, h.free, h.filled, h.held].flatMap fun n => leBytes 4 (n % 2 ^ 32)
      ∀ g, (v.block b).ring r.ring = some g →
      let take (i : Nat) (h' : RingHdr) : Prop := ∀ w, v.stashPut b (r.ring + 8) (counts h') = .ok w → ∀ g', (w.block b).ring r.ring = some g' →
        exec (.streamTile j) s = .next ((w.modBlock b (·.setRing r.ring { g' with work := g'.work + 1 })).modJob j fun x =>
          { x with kind := .stream { r with slot := some (r.ring + 32 + i * h.size), unit := 0 } })
      (drain = false → 0 < h.free → take ((h.wptr + g.work) % h.slots) { h with free := h.free - 1 }) ∧
      (drain = true → 0 < h.filled → take (h.rptr % h.slots) { h with rptr := h.rptr + 1, filled := h.filled - 1 })) ∧
    (∀ slot l, r.slot = some slot → r.lay = some l →
      let units := l.tileUnits (l.coords r.tile)
      (∀ m v, units[r.unit]? = some m → s.moveUnit x l drain slot r.tile m = .ok v →
        exec (.streamTile j) s = .next (v.modJob j fun x => { x with kind := .stream { r with unit := r.unit + 1 } })) ∧
      (∀ v w, units.length ≤ r.unit → bit r.stamp 7 = false →
        (if drain then .ok s else s.zeroRest x l slot r.tile) = Except.ok v → v.slotDone b r.ring (!drain) = .ok w →
        exec (.streamTile j) s = .next (w.modJob j fun x =>
          { x with kind := .stream { r with slot := none, tile := r.tile + 1, unit := 0 } })))) ∧
  (∀ (s : State) (x : Job) l slot t m a o n, l.unitParts (l.coords t) m = [(a, o, n)] →
    (∀ bs v, s.jobRead x false (32 * m) 32 = .ok (bs, v) →
      s.moveUnit x l false slot t m = v.jobWrite x true (slot + o) ((bs.drop (a - 32 * m)).take n)) ∧
    (∀ bs v, s.jobRead x true (slot + o) n = .ok (bs, v) → s.moveUnit x l true slot t m = v.jobWrite x false a bs)) ∧
  (∀ s r sel j rest (x : Job) kind body, s.nearQueue.filter (fun e => e.1 == r && e.2.1 == sel) = (r, sel, j) :: rest → s.job j = some x →
    x.kind = .near sel kind body false none → s.jobRuns j x = true →
    (∀ o, s.nearBad x.suite kind body = some o → exec (.nearMemoryJobStart r sel) s = .next (s.endJob j 1 o)) ∧
    (s.nearBad x.suite kind body = none → exec (.nearMemoryJobStart r sel) s = .next (s.modJob j fun x => { x with kind := .near sel kind body true none }))) ∧
  (∀ (es : List SelEntry) k,
    let m := selectTop es k
    (∀ e ∈ m.taken, e ∈ es ∧ e.key ≠ 0) ∧ m.taken.length = min k (es.filter fun e => e.key != 0).length ∧
    m.taken.Pairwise (fun x y => y.before x = false) ∧
    (∀ e ∈ es, e.key ≠ 0 → ¬e ∈ m.taken → ∀ x ∈ m.taken, e.before x = false))

/-- R91-R99, R104, R251, R302: the barrier unit applies one operation a clock; a completion flips the phase, takes `expect` off and
releases the waiters; a sleeping team wakes. -/
def Obligations.BarrierUnitSteps : Prop :=
  (∀ (x : Block) ms m rest, x.nextBar ms = some (m, rest) → m ∈ ms ∧ rest.length + 1 = ms.length ∧ ∀ q ∈ ms, x.barBefore q m = false) ∧
  (∀ (x : Block) (p q : BarMsg),
    (p.due < q.due → x.barBefore p q = true) ∧
    (∀ t t' n c n' c', p = ⟨q.due, .init t n c⟩ → q.op = .init t' n' c' → (x.barBefore p q = true ↔ (x.team t).slot % 4 < (x.team t').slot % 4)) ∧
    (∀ t n c w, p = ⟨q.due, .arrive t n c w⟩ → ((∃ k, q.op = .seqArrive k) ∨ (∃ k f, q.op = .seqWait k f) ∨ (∃ k j, q.op = .jobArrive k j) ∨
      ∃ k i b' t' o, q.op = .peer k i b' t' o) → x.barBefore p q = true) ∧
    (∀ k, p = ⟨q.due, .seqArrive k⟩ → ((∃ k j, q.op = .jobArrive k j) ∨ ∃ k i b' t' o, q.op = .peer k i b' t' o) → x.barBefore p q = true) ∧
    (∀ k j k' j', p = ⟨q.due, .jobArrive k j⟩ → q.op = .jobArrive k' j' → (x.barBefore p q = true ↔ j < j')) ∧
    (∀ k j, p = ⟨q.due, .jobArrive k j⟩ → (∃ k i b' t' o, q.op = .peer k i b' t' o) → x.barBefore p q = true) ∧
    (∀ k i b' t' o k' i' b'' t'' o', p = ⟨q.due, .peer k i b' t' o⟩ → q.op = .peer k' i' b'' t'' o' → (x.barBefore p q = true ↔ i < i'))) ∧
  (∀ s b due n i b' t' op rest, (s.block b).nextBar (s.block b).barOps = some (⟨due, .peer n i b' t' op⟩, rest) → due ≤ s.tick →
    (∀ addr, (s.block b).saved = some addr → exec (.barrierOpApply b) s =
      .next (((s.modBlock b fun x => { x with barOps := rest }).frameArrive b n addr).doneEl b' t' op 0 0)) ∧
    ((s.block b).saved = none → (s.block b).killed ≠ none → exec (.barrierOpApply b) s =
      .next ((s.modBlock b fun x => { x with barOps := rest, barOwed := true }).doneEl b' t' op 0 0))) ∧
  (∀ s b due o rest, (s.block b).nextBar (s.block b).barOps = some (⟨due, o⟩, rest) → due ≤ s.tick → (s.block b).saved = none → (s.block b).killed = none →
    ((s.block b).barOwed && (s.block b).owesCompletion) = false →
    let x := s.block b
    let v := s.modBlock b fun x => { x with barOps := rest, barOwed := true }
    let next (w : State) : Prop := exec (.barrierOpApply b) s = .next w
    let goes (t : Nat) (w : State) : Prop := ∀ cl, (s.team b t).clause = some cl → ∃ u, exec (.barrierOpApply b) s = .next u ∧ Advanced w u b t cl
    let bar (n : Nat) : Barrier := Tab.get {} x.barriers n
    let setBar (n : Nat) (w : Barrier) : State := v.modBlock b fun x => { x with barriers := Tab.set {} x.barriers n w }
    let armed (n : Nat) (m : Team) : Team := { m with armed := setBit16 m.armed n true, seen := setBit16 m.seen n (bar n).phase }
    let done (m : Team) : Team := { m with stall := none, arrivedAt := none }
    (∀ t n count, o = .init t n count →
      (x.waiters n = [] → x.mtx.waitsOn n = false →
        goes t ((setBar n { (bar n) with valid := true, expect := count, arrived := 0 }).modTeam b t done)) ∧
      (x.waiters n ≠ [] ∨ x.mtx.waitsOn n = true → next (v.barTrap b t .barbusy))) ∧
    (∀ t n count wait, o = .arrive t n count wait →
      let arrived := (setBar n { (bar n) with arrived := min 0xFFFF ((bar n).arrived + count) }).modTeam b t fun m =>
        { armed n m with barSince := m.nextOp }
      ((bar n).valid = false → next (v.barTrap b t .bargone)) ∧
      ((bar n).valid = true → wait = false → goes t (arrived.modTeam b t done)) ∧
      ((bar n).valid = true → wait = true → next (arrived.modTeam b t fun m => { m with stall := some (.barrier n) }))) ∧
    (∀ t n, o = .wait t n →
      let m := if (s.team b t).armed.getLsbD n then s.team b t else armed n (s.team b t)
      ((bar n).valid = false → next (v.barTrap b t .bargone)) ∧
      (n < 16 → (bar n).valid = true → m.seen.getLsbD n = (bar n).phase → next (v.modTeam b t fun _ => { m with stall := some (.barrier n) })) ∧
      (n < 16 → (bar n).valid = true → m.seen.getLsbD n ≠ (bar n).phase →
        goes t (v.modTeam b t fun _ => done { m with armed := setBit16 m.armed n false }))) ∧
    (∀ t n d, o = .test t n d → n < 16 →
      let a := (s.team b t).armed.getLsbD n
      goes t (v.modTeam b t fun m => done { m with sregs := Tab.set 0 m.sregs (d - 96) (BitVec.ofNat 32 (
        (if (bar n).valid then 2 ^ 31 else 0) + (if (bar n).phase then 2 ^ 30 else 0) + (bar n).expect * 65536 + (bar n).arrived +
        (if a then 2 ^ 29 else 0) + (if a && (s.team b t).seen.getLsbD n != (bar n).phase then 2 ^ 28 else 0))) })) ∧
    (∀ t n, o = .inval t n → (bar n).valid = false → goes t (v.modTeam b t done)) ∧
    (∀ t n, o = .inval t n → (bar n).valid = true → x.waiters n = [] → x.mtx.waitsOn n = false → t < x.teams.length →
      goes t ((v.modBlock b fun x => { x with
        barriers := Tab.set {} x.barriers n { (bar n) with valid := false, expect := 0, arrived := 0 }
        teams := x.teams.map fun m => { m with armed := setBit16 m.armed n false }
        mtx := { x.mtx with armed := setBit16 x.mtx.armed n false } }).modTeam b t done)) ∧
    (∀ t n w ws, o = .post t n (w :: ws) → (bar n).valid = true →
      let first := ((Tab.get {} x.votes n).now).getD w
      let y := if (Tab.get {} x.votes n).now = none then v.modBlock b fun x => { x with
        votes := Tab.set {} x.votes n { (Tab.get {} x.votes n) with now := some w }, fmtWord := w } else v
      ((∀ k ∈ w :: ws, k = first) → goes t ((y.modBlock b fun x => { x with
          barriers := Tab.set {} x.barriers n { (bar n) with arrived := min 0xFFFF ((bar n).arrived + 1) } }).modTeam b t fun m =>
        done { armed n m with barSince := m.nextOp })) ∧
      ((∃ k ∈ w :: ws, k ≠ first) → next (y.barTrap b t .fmtdiv))) ∧
    (∀ n i b' t' op, o = .peer n i b' t' op →
      let w := v.meetClocks x.core (s.block b').core
      ((bar n).valid = true → next ((w.modBlock b fun x => { x with
        barriers := Tab.set {} x.barriers n { (bar n) with arrived := min 0xFFFF ((bar n).arrived + 1) } }).doneEl b' t' op 0 0)) ∧
      ((bar n).valid = false → next (w.doneEl b' t' op 0 0))) ∧
    (∀ n j, o = .jobArrive n j →
      ((bar n).valid = true → next ((setBar n { (bar n) with arrived := min 0xFFFF ((bar n).arrived + 1) }).finishJob j false)) ∧
      ((bar n).valid = false → next (v.finishJob j true)))) ∧
  (∀ s b n, (s.block b).killed = none → (s.block b).saved = none →
    let x := s.block b
    let w := Tab.get {} x.barriers n
    let v := s.modBlock b fun x => { x with
      barriers := Tab.set {} x.barriers n { w with phase := !w.phase, arrived := w.arrived - w.expect }
      votes := Tab.set {} x.votes n { now := none, last := (Tab.get {} x.votes n).now }, barOwed := false }
    w.valid = true → w.expect ≤ w.arrived → x.mtx.waitsOn n = false →
    (x.waiters n = [] → exec (.barrierCompletion b n) s = .next v) ∧
    (∀ t cl, x.waiters n = [t] → (s.team b t).clause = some cl → ∃ u, exec (.barrierCompletion b n) s = .next u ∧
      Advanced (v.modTeam b t fun m => { m with armed := setBit16 m.armed n false, stall := none, arrivedAt := none }) u b t cl)) ∧
  (∀ s b t d, (s.team b t).stall = some (.sleep d) → d ≤ s.tick →
    exec (.sleepExpire b t) s = .next (s.modTeam b t fun m => { m with stall := none }))

/-! ## The device in its system (17) -/

/-- R331, R435, R436, R440, R449, R478: what the host reads and writes through its three windows: the registers of the device
page and of a suite page by their access codes; a segment through its bound ASID; a room's memory where its fence lets the host.
A refused segment access adds 1 to `hosterr`; a halt request reaches the teams it names. -/
def Obligations.HostWindowsAndRegisters : Prop :=
  (∀ (s : State) a v, a < 2 ^ 24 → a % 8 = 0 → exec (.registerWrite a v) s = .next (s.regWrite a v) ∧
    ∀ bs : List Byte, bs.length = 8 → ofLe bs = v.toNat → exec (.hostWindowWrite 0 a bs) s = .next (s.regWrite a v)) ∧
  (∀ (s : State) a n, 1 ≤ n → a + n ≤ 2 ^ 24 → a % 8 + n ≤ 8 →
    let bytes := ((leBytes 8 (s.regRead (a / 8 * 8)).toNat).drop (a % 8)).take n
    ((∀ u, s.page0 (a / 8 * 8) ≠ some (some u, 0x10040)) →
      exec (.hostWindowRead 0 a n) s = .next { s with hostReply := .data bytes false }) ∧
    (∀ u, s.page0 (a / 8 * 8) = some (some u, 0x10040) → exec (.hostWindowRead 0 a n) s = .next
      { s.modSuite u fun x => { x with evq := x.evq.drop 1 } with hostReply := .data bytes false })) ∧
  (∀ (s : State) u, u < 8 → exec (.evqPop u) s = .next (s.modSuite u fun x => { x with evq := x.evq.drop 1 })) ∧
  (∀ (s : State) u o v, s.suiteExists u = true → o < 0x100000 →
    let a := 0x800000 + u * 0x100000 + o
    let x := s.suite u
    let holds (w : DWord) (f : Suite → Suite) : Prop := s.regRead a = w ∧ s.regWrite a v = s.modSuite u f
    let page (w : DWord) (f : OstPage → OstPage) : Prop := s.regRead a = w ∧
      s.regWrite a v = if x.ctl.getLsbD 0 then s else s.modSuite u fun x => { x with page := f x.page }
    let shows (w : DWord) : Prop := s.regRead a = w ∧ s.regWrite a v = s
    let fourth (bs : List Byte) (i : Nat) : DWord := BitVec.ofNat 64 (ofLe ((bs.drop (8 * i)).take 8))
    (o = 0 → page x.page.qtable fun p => { p with qtable := v }) ∧
    (o = 8 → page x.page.arena fun p => { p with arena := v }) ∧
    (o = 0x10 → page x.page.arenasz fun p => { p with arenasz := v }) ∧
    (o = 0x18 → page x.page.ktable fun p => { p with ktable := v }) ∧
    (o = 0x20 → page x.page.htable fun p => { p with htable := v }) ∧
    (o = 0x28 → page x.page.frames fun p => { p with frames := v }) ∧
    (o = 0x30 → page x.page.nframes fun p => { p with nframes := v }) ∧
    (o = 0x38 → page x.page.errq fun p => { p with errq := v &&& 0xFFF }) ∧
    (o = 0x40 → page x.page.drainlim fun p => { p with drainlim := v }) ∧
    (o = 0x48 → s.regRead a = (x.ctl &&& 3) ||| (if s.suiteDrained u then 4 else 0)) ∧
    (o = 0x10000 → holds x.segbase fun x => { x with segbase := v &&& 0x00FFFFFE00000000 }) ∧
    (o = 0x10008 → holds x.segasid fun x => { x with segasid := v &&& 0x80001FFF }) ∧
    (o = 0x10010 → holds x.hosterr fun x => { x with hosterr := x.hosterr &&& ~~~(v &&& 0xFFFFFFFF) }) ∧
    (∀ i, i < 4 → o = 0x10018 + 8 * i → shows (match x.mcq with
      | [] => 0
      | r :: _ => fourth r.bytes i)) ∧
    (o = 0x10038 → holds 0 fun x => { x with mcq := x.mcq.drop 1 }) ∧
    (o = 0x10040 → shows (match x.evq with
      | [] => 0
      | w :: _ => BitVec.ofNat 64 (2 ^ 32 + w.toNat))) ∧
    (o = 0x10048 → holds x.evlost fun x => { x with evlost := x.evlost &&& ~~~v }) ∧
    (o = 0x10050 → holds x.trbase fun x => { x with trbase := v &&& 0xFFFFFFFFFFFFF000 }) ∧
    (o = 0x10058 → holds x.trctl fun x => { x with trctl := v &&& 0x8000FFFF00001FFF }) ∧
    (o = 0x10060 → shows x.trhead) ∧
    (o = 0x10068 → holds x.trtail fun x => { x with trtail := v }) ∧
    (o = 0x10070 → holds x.dbgctl fun x => { x with dbgctl := v &&& 1 }) ∧
    (o = 0x10080 → holds x.irqstat fun x => { x with irqstat := x.irqstat &&& ~~~v }) ∧
    (o = 0x10088 → holds x.irqmask fun x => { x with irqmask := v &&& 0x7F }) ∧
    (∀ i, i < 4 → o = 0x10090 + 8 * i → shows (match x.pfq with
      | [] => 0
      | e :: _ => fourth e.bytes i)) ∧
    (o = 0x100B0 → holds 0 fun x => { x with pfq := x.pfq.drop 1 }) ∧
    (o = 0x100B8 → s.regRead a = 0 ∧ s.regWrite a v = s.faultDone u (v.toNat % 2 ^ 32) (v.getLsbD 32)) ∧
    ((0x100C0 ≤ o ∧ o < 0x20000) ∨ 0x28000 ≤ o → shows 0)) ∧
  (∀ (s : State) o v, o < 0x800000 →
    let shows (w : DWord) : Prop := s.regRead o = w ∧ s.regWrite o v = s
    (o = 0 → shows (if s.part.masks = [] then 0x2E19 else 0x12E19)) ∧ (o = 8 → shows s.serial) ∧ (o = 0x10 → shows s.bootstat) ∧
    (o = 0x18 → s.regRead o = s.hostlo ∧
      s.regWrite o v = if s.anyEnabled then s else { s with hostlo := v &&& 0xFFFFFFFFFFFFF000 }) ∧
    (o = 0x20 → s.regRead o = s.hosthi ∧ s.regWrite o v = if s.anyEnabled then s else { s with hosthi := v ||| 0xFFF }) ∧
    (∀ r, r < 8 → o = 0x40 → s.regWrite o v = s ∧ (s.regRead o).toNat / 256 ^ r % 256 =
      s.suiteOfRoom r % 8 + (if r ∈ s.fenceHost then 128 else 0)) ∧
    (∀ r, r < 8 → o = 0x100 + 8 * r → s.regWrite o v = s ∧
      (∀ i, i < 6 → (s.regRead o).toNat / 256 ^ i % 256 = (s.part.mask (6 * r + i)).toNat) ∧
      (s.regRead o).toNat / 2 ^ 48 = s.part.chans r % 65536) ∧
    (∀ i, i < 8 → o = 0x200 + 8 * i → s.regRead o = Tab.get 0 s.rmbreq i ∧
      s.regWrite o v = { s with rmbreq := Tab.set 0 s.rmbreq i v }) ∧
    (o = 0x240 → s.regRead o = 0 ∧ s.regWrite o v = if s.rmbstat.getLsbD 0 then s else { s with rmbstat := 1, rmbDone := none, rmbSent := s.rmbreq }) ∧
    (∀ i, i < 8 → o = 0x280 + 8 * i → shows (Tab.get 0 s.rmbrep i)) ∧
    (o = 0x2C0 → shows s.rmbstat) ∧
    (0x2C8 ≤ o → o % 8 = 0 → shows 0)) ∧
  (∀ (s : State) u o n, s.suiteExists u = true → 1 ≤ n → o + n ≤ 2 ^ 33 →
    let a := u * 2 ^ 33 + o
    let asid := (s.suite u).segasid.toNat % 8192
    let va := (s.suite u).segbase.toNat + o
    let refused (w : State) : State := w.modSuite u fun x => { x with hosterr := BitVec.ofNat 64 (min 0xFFFFFFFF (x.hosterr.toNat + 1)) }
    ((s.suite u).segasid.getLsbD 31 = false ∨ s.suiteOfAsid asid ≠ u →
      exec (.hostWindowRead 1 a n) s = .next { refused s with hostReply := .unsupported } ∧
      ∀ bs : List Byte, bs.length = n → exec (.hostWindowWrite 1 a bs) s = .next (refused s)) ∧
    ((s.suite u).segasid.getLsbD 31 = true → s.suiteOfAsid asid = u → va % 4096 + n ≤ 4096 →
      (∀ r w, s.translate (ostCore u) asid va .load = (r, w) →
        (∀ pg pa, r = .ok pg → pg.p = false → pg.place va = .dev pa →
          exec (.hostWindowRead 1 a n) s = .next { (w.agentRead hostRank asid pa n).2 with
            hostReply := .data (w.devRead pa n) (w.poisoned pa n) }) ∧
        ((∀ pg, r = .ok pg → pg.p = true) → exec (.hostWindowRead 1 a n) s = .next { refused w with hostReply := .unsupported })) ∧
      (∀ r w (bs : List Byte), bs.length = n → s.translate (ostCore u) asid va .store = (r, w) →
        (∀ pg pa, r = .ok pg → pg.p = false → pg.place va = .dev pa →
          exec (.hostWindowWrite 1 a bs) s = .next (w.agentWrite hostRank pa bs asid)) ∧
        ((∀ pg, r = .ok pg → pg.p = true) → exec (.hostWindowWrite 1 a bs) s = .next (refused w))))) ∧
  (∀ (s : State) a n (bs : List Byte), 1 ≤ n → a + n ≤ 2 ^ 38 → bs.length = n →
    ((∀ i, i < n → s.installed (a + i) = true ∧ roomOfPa (a + i) ∈ s.fenceHost) →
      let asid := 1024 * s.suiteOfRoom (roomOfPa a)
      exec (.hostWindowRead 2 a n) s = .next { (s.agentRead hostRank asid a n).2 with hostReply := .data (s.devRead a n) (s.poisoned a n) } ∧
      exec (.hostWindowWrite 2 a bs) s = .next (s.agentWrite hostRank a bs asid)) ∧
    ((∃ i, i < n ∧ ¬(s.installed (a + i) = true ∧ roomOfPa (a + i) ∈ s.fenceHost)) →
      exec (.hostWindowRead 2 a n) s = .next { s with hostReply := .data (List.replicate n 0xFF) false } ∧
      exec (.hostWindowWrite 2 a bs) s = .next s)) ∧
  (∀ (s : State) u v b t, ((b, t) ∈ s.haltNames u v ↔ ∃ x, (b, x) ∈ s.blocks ∧ x.core = v.toNat % 512 ∧ x.resident = v.toNat / 512 % 32 ∧
      x.saved = none ∧ (s.block b).suite = u ∧ (s.block b).killed = none ∧ t < (s.block b).teams.length ∧
      (v.getLsbD 20 = true ∨ t = v.toNat / 16384 % 64)) ∧
    (s.haltNames u v = [(b, t)] →
      let m := s.team b t
      let pending := s.modTeam b t fun m => { m with haltPending := true }
      exec (.haltResume u v) s = .next (s.modTeam b t fun m => { m with halted := false }) ∧
      (m.done = true ∨ m.halted = true → exec (.haltRequest u v) s = .next s) ∧
      (m.done = false → m.halted = false →
        (m.context = .trap → exec (.haltRequest u v) s = .next pending) ∧
        (m.context ≠ .trap → m.clause = none ∨ m.stall ≠ none → exec (.haltRequest u v) s = .next
          ((s.modTeam b t fun m => { m with halted := true, haltPending := false }).raiseCause (s.block b).suite 5)) ∧
        (m.context ≠ .trap → m.clause ≠ none → m.stall = none → exec (.haltRequest u v) s = .next pending))))

/-- R12, R437, R440, R442, R443, R447, R478: the root firmware carries out a suite map request for suites that are disabled and
drained, zeroing the rooms that change hands; a report goes to host memory; the reply raises vector 64. A display head starts one
period after it is enabled, reads its plane records 16,384 ticks ahead, and publishes its next scan-out at each. What the firmware
and the encoder produce is free (log 6). -/
def Obligations.RootMailboxAndDisplayHeads : Prop :=
  (∀ (s : State), s.rmbstat.getLsbD 0 = true →
    let byte (i : Nat) : Nat := (Tab.get 0 s.rmbSent (i / 8)).toNat / 256 ^ (i % 8) % 256
    let want (r : Nat) : Nat := byte (8 + r) % 8
    let host (r : Nat) : Prop := 128 ≤ byte (8 + r)
    let changed (r : Nat) : Prop := r < 8 ∧ (want r ≠ s.suiteOfRoom r ∨ ¬(host r ↔ r ∈ s.fenceHost))
    let fits : Prop := ∀ r, r < 8 → ∃ n, (n = 1 ∨ n = 2 ∨ n = 4 ∨ n = 8) ∧ want r % n = 0 ∧
      ∀ q, q < 8 → (want q = want r ↔ want r ≤ q ∧ q < want r + n)
    let quiet : Prop := ∀ r u, changed r → u = want r ∨ u = s.suiteOfRoom r → (s.suite u).ctl.getLsbD 0 = false ∧ s.suiteDrained u = true
    (s.rmbDone = none → byte 0 = 1 → fits → quiet → ∃ v, exec .suiteMapRequest s = .next v ∧ v.rmbDone = some 0 ∧
      v.rmbstat = s.rmbstat ∧ (∀ r, r < 8 → v.suiteOfRoom r = want r ∧ (r ∈ v.fenceHost ↔ host r)) ∧
      (∀ pa, changed (roomOfPa pa) → Tab.get 0 v.mem pa = 0 ∧ Tab.find v.home (pa / 128) = none) ∧
      (Memory.wf s.mem = true → ∀ pa, ¬changed (roomOfPa pa) → Tab.get 0 v.mem pa = Tab.get 0 s.mem pa) ∧
      (Tab.wf {} s.suites = true → ∀ r u, changed r → u = want r ∨ u = s.suiteOfRoom r → (v.suite u).mcq = [])) ∧
    (s.rmbDone = none → byte 0 = 1 → ¬(fits ∧ quiet) → ∃ st, st ≠ 0 ∧ exec .suiteMapRequest s = .next
      { s with rmbDone := some st, free := s.free + 1 }) ∧
    (s.rmbDone = none → byte 0 = 2 → ∃ st, st ≠ 0 ∧
      let ba := (Tab.get 0 s.rmbSent 5).toNat
      let report := Config.reportBytes { nonce := (List.range 32).map fun i => BitVec.ofNat 8 (byte (8 + i)), serial := s.serial
                                         code := if s.part.masks = [] then 0 else 1, stage := Config.stageDigest, image := Config.imageDigest
                                         fences := Config.fenceDigest s.suitemap s.fenceHost, map := s.suitemap, tick := s.tick }
      (s.hostlo.toNat ≤ ba ∧ ba + report.length ≤ s.hosthi.toNat + 1 → exec .attestationRequest s = .next
        { s with hostMem := writeBytes s.hostMem ba report, rmbDone := some 0 }) ∧
      (ba < s.hostlo.toNat ∨ s.hosthi.toNat + 1 < ba + report.length → exec .attestationRequest s = .next
        { s with free := s.free + 1, rmbDone := some st })) ∧
    (∀ st, s.rmbDone = some st → ∃ rep k, exec .rootMailboxReply s = .next { s with
      rmbrep := rep, free := s.free + k, rmbstat := BitVec.ofNat 64 (2 + 256 * st), rmbDone := none, vectors := s.vectors ++ [64] }) ∧
    (s.rmbDone = none → byte 0 ≠ 1 → byte 0 ≠ 2 → ∃ rep k st, st < 256 ∧ exec .rootMailboxReply s = .next { s with
      rmbrep := rep, free := s.free + k, rmbstat := BitVec.ofNat 64 (2 + 256 * st), rmbDone := none, vectors := s.vectors ++ [64] })) ∧
  (∀ (s : State) r, r < 8 →
    let h := Tab.get {} s.heads r
    let sets (w : Head) : State := { s with heads := Tab.set {} s.heads r w }
    let period := if h.dperiod = 0 then 8437500 else h.dperiod.toNat
    let inside (a n : Nat) : Prop := r * Config.roomBytes ≤ a ∧ a + n ≤ r * Config.roomBytes + s.roomSize r
    let a := h.dplane.toNat
    (∀ v : DWord, h.dctl.getLsbD 0 = false → v.getLsbD 0 = true → (v.toNat / 2 % 4 = 1 → r < 2) →
      exec (.displayEnable r v) s = .next (sets { h with
        dctl := if v.toNat / 2 % 4 = 1 then 3 else 1, dnext := BitVec.ofNat 64 (s.tick + period), planes := none })) ∧
    (h.dctl.getLsbD 0 = true → h.planes = none → h.dnext.toNat ≤ s.tick + 16384 →
      (inside a 128 → let v := (s.agentRead engineRank (1024 * s.suiteOfRoom r) a 128).2
        exec (.planeRead r) s = .next { v with heads := Tab.set {} s.heads r { h with planes := some (s.devRead a 128) } }) ∧
      (¬inside a 128 → exec (.planeRead r) s = .next (sets { h with planes := some (List.replicate 128 0), derr := h.derr ||| 1 }))) ∧
    (∀ recs, h.dctl.getLsbD 0 = true → h.planes = some recs → h.dnext.toNat ≤ s.tick → Tab.wf {} s.heads = true →
      let ps : List (List Byte) := (List.range 4).map fun i => (recs.drop (32 * i)).take 32
      let num (p : List Byte) (o n : Nat) : Nat := ofLe ((p.drop o).take n)
      let width (p : List Byte) : Nat := num p 16 2 * (if num p 20 1 = 0 then 4 else 8)
      let pixels (p : List Byte) : List Byte :=
        if num p 21 1 % 2 = 0 then []
        else if s.planeOut r p then List.replicate (width p * num p 18 2) 0
        else (List.range (num p 18 2)).flatMap fun y => s.devRead (num p 0 8 + num p 8 4 * y) (width p)
      ∃ (late : Bool) (v : State), exec (.scanOut r) s = .next v ∧
        let g := Tab.get {} v.heads r
        g.dnext = BitVec.ofNat 64 (h.dnext.toNat + period) ∧ g.planes = none ∧ g.dctl = h.dctl ∧ g.ectl = h.ectl ∧
        g.image = Config.compose ps (ps.map pixels) (h.dsize.toNat % 16384) (h.dsize.toNat / 65536 % 16384) late ∧
        ((∃ p ∈ ps, s.planeOut r p = true) → g.derr.getLsbD 0 = true) ∧
        ((∀ p ∈ ps, s.planeOut r p = false) → g.derr.getLsbD 0 = h.derr.getLsbD 0) ∧
        g.derr.getLsbD 1 = (h.derr.getLsbD 1 || late) ∧
        (h.dctl.toNat / 2 % 4 ≠ 0 ∨ h.ectl.toNat % 4 = 0 → v.mem = s.mem ∧ g.estat = h.estat) ∧
        (h.dctl.toNat / 2 % 4 = 0 → h.ectl.toNat % 4 ≠ 0 →
          g.estat = h.estat + (if h.waiting.isSome then 1 else 0) ∧
          ((g.waiting = none ∧ g.skipping = false ∧
              (h.skipping = true ∨ h.waiting.isSome = true ∨ h.egop.toNat ≤ h.sinceKey + 1 → g.sinceKey = 0)) ∨
            (g.waiting.isSome = true ∧ g.skipping = (h.skipping || h.waiting.isSome) ∧ v.mem = s.mem)))) ∧
    (∀ u v o, s.suiteExists u = true → s.suiteOfRoom r = u → o < 0x1000 →
      let holds (w : DWord) (f : Head) : Prop := s.regRead (0x820000 + u * 0x100000 + 0x1000 * r + o) = w ∧
        s.regWrite (0x820000 + u * 0x100000 + 0x1000 * r + o) v = sets f
      let large (size : DWord) : Prop := 3840 < size.toNat % 16384 ∨ 2160 < size.toNat / 65536 % 16384
      (o = 0 → v.getLsbD 0 = false ∨ (v.toNat / 2 % 4 = 1 ∧ 2 ≤ r) → holds h.dctl { h with
        dctl := if v.toNat / 2 % 4 = 1 ∧ r < 2 then 2 else 0, dnext := 0, planes := none }) ∧
      (o = 8 → ¬large v → holds h.dsize { h with dsize := v &&& 0x3FFF3FFF }) ∧
      (o = 8 → large v → holds h.dsize { h with dsize := v &&& 0x3FFF3FFF, ectl := h.ectl &&& ~~~3 }) ∧
      (o = 0x10 → holds h.dperiod { h with dperiod := if v.toNat < 8437500 then 8437500 else v }) ∧
      (o = 0x18 → holds h.dnext h) ∧
      (o = 0x20 → holds h.dplane { h with dplane := v }) ∧
      (o = 0x28 → holds h.derr { h with derr := h.derr &&& ~~~(v &&& 3) }) ∧
      (o = 0x100 → ¬large h.dsize → holds h.ectl { h with ectl := v &&& 0x37 }) ∧
      (o = 0x100 → large h.dsize → holds h.ectl { h with ectl := v &&& 0x34 }) ∧
      (o = 0x108 → holds h.erate { h with erate := v }) ∧
      (o = 0x110 → holds h.egop { h with egop := v }) ∧
      (o = 0x128 → h.waiting = none → Tab.wf {} s.heads = true → holds h.eread { h with eread := v })))

/-- R5, R254, R424, R437, R444, R445, R446, R448, R450: a flit that fails is sent again, and the 16th failed resend in a row takes the
port down, which sends what it still holds by the alternate; the tick is corrected toward the master's, and never runs backward; a peer's
put or get is performed once; a reset leaves no block and memory zero and the tick as it was; the boot goes step by step to the status
ready, or stands at the step that failed; the clocks stop at the armed tick, and nothing but a release happens then. -/
def Obligations.LinksTimeAndResets : Prop :=
  (∀ (s : State) p, p < 4 →
    let x := Tab.get {} s.ports p
    let sets (w : Port) : State := { s with ports := Tab.set {} s.ports p w }
    (x.up = true →
      (∀ f : List Byte, f.length = 256 →
        let crc := (f.take 252).foldl (fun c b => (List.range 8).foldl (fun c _ =>
          if c % 2 = 1 then c / 2 ^^^ 0xEDB88320 else c / 2) (c ^^^ b.toNat)) 0xFFFFFFFF ^^^ 0xFFFFFFFF
        let n := Config.flitSeq (ofLe (f.take 8)) % 4096
        let k := ofLe ((f.drop 248).take 4)
        (ofLe (f.drop 252) = crc → ∃ rest, exec (.flitReceive p f) s = .next (sets { x with
            failed := 0, replay := rest, want := if n = x.want then (n + 1) % 4096 else x.want }) ∧
          ((∀ e ∈ x.replay, e.1 ≠ k) → rest = x.replay) ∧
          ((∃ e ∈ x.replay, e.1 = k) → ∃ pre e, x.replay = pre ++ e :: rest ∧ e.1 = k ∧ ∀ d ∈ pre, d.1 ≠ k)) ∧
        (ofLe (f.drop 252) ≠ crc → x.failed < 16 → exec (.flitReceive p f) s = .next (sets { x with failed := x.failed + 1 })) ∧
        (ofLe (f.drop 252) ≠ crc → 16 ≤ x.failed → Tab.wf {} s.ports = true → ∃ v, exec (.flitReceive p f) s = .next v ∧
          (Tab.get {} v.ports p).up = false ∧ v.vectors = s.vectors ++ [65])) ∧
      (x.replay = [] → exec (.portDown p) s = .next { sets { x with up := false } with vectors := s.vectors ++ [65] }) ∧
      (∀ n d f q, x.replay = [(n, d, f)] → p ≠ q → q < 4 → Tab.wf {} s.ports = true →
        Tab.get (0, 1) s.routes d = (p, q) → (Tab.get {} s.ports q).up = true →
        ∃ v, exec (.portDown p) s = .next v ∧ (Tab.get {} v.ports p).up = false ∧ (Tab.get {} v.ports p).replay = [] ∧
          ∃ k, (Tab.get {} v.ports q).replay = (Tab.get {} s.ports q).replay ++ [(k, d, f)])) ∧
    (x.up = false → exec (.linkRestored p) s = .next { sets { x with up := true, failed := 0 } with vectors := s.vectors ++ [65] })) ∧
  (∀ (s : State) (master : DWord), (∀ t, s.lastSync = some t → t + 65536 ≤ s.tick) →
    let corrected (t : Nat) : Prop := exec (.timeSync master) s = .next { s with tick := t, lastSync := some t }
    let holds (n : Nat) : Prop := exec (.timeSync master) s = .next { s with holdFor := n, lastSync := some s.tick }
    let follows : Prop := ∃ d ∈ s.peers, d < s.device ∧ s.portTo d ≠ none
    (¬follows → corrected s.tick) ∧
    (follows → s.tick + 64 < master.toNat → corrected master.toNat) ∧
    (follows → s.tick + 1 < master.toNat → master.toNat ≤ s.tick + 64 → corrected (s.tick + 1)) ∧
    (follows → s.tick ≤ master.toNat → master.toNat ≤ s.tick + 1 → corrected s.tick) ∧
    (follows → master.toNat < s.tick → s.tick ≤ master.toNat + 64 → holds 1) ∧
    (follows → master.toNat + 64 < s.tick → holds (s.tick - master.toNat))) ∧
  (∀ (s : State) (q : FabricReq),
    let next (v : State) : Prop := exec (.fabricRequestReceive q) s = .next v
    let answers (v : State) (r : FabricReply) : State := { v with fabricIn := v.fabricIn ++ [r] }
    let c := ostCore q.suite
    let asid := 1024 * q.suite
    ((∃ r ∈ s.fabricIn, r.src = q.src ∧ r.id = q.id) → next s) ∧
    ((∀ r ∈ s.fabricIn, r.src = q.src → r.id ≠ q.id) →
      (s.suiteExists q.suite = false → next (answers s { src := q.src, id := q.id, code := 5 })) ∧
      (s.suiteExists q.suite = true → q.put = true → ∀ v, s.engWrite c asid q.addr (q.data.take q.len) = .ok v →
        next (answers v { src := q.src, id := q.id })) ∧
      (s.suiteExists q.suite = true → q.put = false → ∀ bytes v, s.engRead c asid q.addr q.len = .ok (.ok bytes, v) →
        next (answers v { src := q.src, id := q.id, data := bytes })) ∧
      (s.suiteExists q.suite = true → q.put = false → ∀ v, s.engRead c asid q.addr q.len = .ok (.poison, v) →
        next (answers v { src := q.src, id := q.id, data := List.replicate q.len 0, poison := true })) ∧
      (s.suiteExists q.suite = true → ∀ m,
        (q.put = true ∧ s.engWrite c asid q.addr (q.data.take q.len) = .error m) ∨ (q.put = false ∧ s.engRead c asid q.addr q.len = .error m) →
        (m.why = .fatal → next (answers s { src := q.src, id := q.id, code := 2, detail := TrapCode.pagefatal.num })) ∧
        (∀ ro, m.why = .fault ro → ∃ v, next v ∧ v.fabricIn = s.fabricIn ∧ v.mem = s.mem)))) ∧
  (∀ (s : State), ∀ i ∈ [Instr.functionLevelReset, .hotReset, .coldReset], ∃ v, exec i s = .next v ∧
    v.blocks = [] ∧ v.mem = [] ∧ v.jobs = [] ∧ v.suites = [] ∧ v.roots = [] ∧ v.launches = [] ∧ v.heads = [] ∧ v.home = [] ∧ v.cores = [] ∧
    v.postTlb = [] ∧ v.poison = [] ∧ v.focus = none ∧ v.suitemap = [0, 1, 2, 3, 4, 5, 6, 7] ∧ v.fenceHost = [] ∧
    v.hostlo = 0 ∧ v.hosthi = 0xFFF ∧ v.rmbstat = 0 ∧ v.thermal = false ∧ v.clockOff = false ∧ v.armed = none ∧
    v.tick = s.tick ∧ v.serial = s.serial ∧ v.hostMem = s.hostMem ∧ (i = .functionLevelReset → v.ports = s.ports ∧ v.bootstat = 5) ∧
    (i ≠ .functionLevelReset → v.ports = [] ∧ v.bootstat = 0) ∧ (i = .coldReset → v.corrected = [])) ∧
  (∀ (s : State), s.agenda = [] → s.focus = none → s.thermal = false → s.clockOff = false → s.armed = none → s.holdFor = 0 →
    s.bootstat.toNat < 6 →
    let st := s.bootstat.toNat
    ((∀ ch, s.bootFault ≠ some (st, ch)) → ∃ v, step s = .next v ∧ v.tick = s.tick + 1 ∧ v.bootstat = BitVec.ofNat 64 (st + 1) ∧
      (st = 2 → v.sectorMode = true) ∧ (st = 3 → v.sectorMode = false) ∧ (st = 5 → v.suitemap = [0, 1, 2, 3, 4, 5, 6, 7])) ∧
    (∀ ch, s.bootFault = some (st, ch) → st ≠ 0 → ∃ v, step s = .next v ∧ v.tick = s.tick + 1 ∧
      v.bootstat = BitVec.ofNat 64 (128 + st + (if st = 3 then ch % 32 * 256 else 0)))) ∧
  (∀ (s : State),
    exec (.thermalOrPowerLimit true) s = .next { s with throttled := true, vectors := s.vectors ++ [66] } ∧
    exec (.thermalOrPowerLimit false) s = .next { s with throttled := false } ∧
    (s.thermal = false → exec .thermalShutdown s = .next { s with thermal := true, vectors := s.vectors ++ [67] }) ∧
    (∀ t, s.armed = some t → t ≤ s.tick → exec .clockStop s = .next { s with clockOff := true, armed := none }) ∧
    (∀ t : DWord, s.clockOff = true → exec (.clockRelease t) s = .next { s with clockOff := false, tick := max s.tick t.toNat }) ∧
    (∀ t n, s.armed = some t → s.tick ≤ t → t ≤ s.tick + (n - s.holdFor) →
      (s.elapse n).tick = t ∧ (s.elapse n).clockOff = true ∧ (s.elapse n).armed = none) ∧
    (∀ n, (∀ t, s.armed = some t → s.tick + (n - s.holdFor) < t) → (s.elapse n).tick = s.tick + (n - s.holdFor) ∧
      (s.elapse n).holdFor = s.holdFor - n ∧ (s.elapse n).clockOff = s.clockOff) ∧
    (s.agenda = [] → s.thermal = false → s.clockOff = true → step s = .fault .clockStopped) ∧
    (s.agenda = [] → s.thermal = true → step s = .fault .deviceStopped))

/-! ## Clauses, steps, encodings, reset, invariants (00, 02, 03) -/

/-- R34-R39, R43, R58, R59, R74, R75, R413, R415: a team issues from its open entry of largest priority, lowest PC; each word is
checked before any takes effect, and a failed check traps; else the clause starts with its guard's lanes, or ends at once without
words. A delayed trap is taken before the next instruction. A flag tag is `HAZARD`, a token tag stalls a read. A trap in trap context
kills the block. The sequencer starts its clauses likewise. -/
def Obligations.ClausesStart : Prop :=
  (∀ es : List Entry, (issueEntry es = none ↔ ∀ e ∈ es, e.held ≠ none) ∧
    ∀ e, issueEntry es = some e → e ∈ es ∧ e.held = none ∧ ∀ f ∈ es, f.held = none → f.prio < e.prio ∨ (f.prio = e.prio ∧ e.pc ≤ f.pc)) ∧
  (∀ cls setA regs (w : Word) (rest : List Word),
    let misplaced (i : Instr) : Prop := (w.getLsbD 31 = true ∧ rest = []) ∨
      (i.ends = true ∧ (if w.getLsbD 31 then 1 else 0) < rest.length) ∨ (i.track = .a ∧ setA = 15)
    (∀ r, decodeWord cls w (rest.headD 0) = .illegal r → checkWord cls setA regs w rest = some .illegal) ∧
    (∀ i, decodeWord cls w (rest.headD 0) = .instr i →
      (i.inWindow regs = false → checkWord cls setA regs w rest = some .regwin) ∧
      (i.inWindow regs = true → misplaced i → checkWord cls setA regs w rest = some .clause) ∧
      (i.inWindow regs = true → ¬misplaced i → checkWord cls setA regs w rest = none)) ∧
    (∀ ws n c, checkWords 16 0 cls setA regs ws = some (n, c) → n < ws.length ∧ checkWord cls setA regs (ws.getD n 0) (ws.drop (n + 1)) = some c)) ∧
  (∀ (s : State) b t, (s.team b t).idle = true → (s.block b).runs t = true → s.heldUp b t = false →
    (s.ranksFirst b t = false → exec (.clauseIssue (.team b t)) s = .fault .notEnabled) ∧
    (s.ranksFirst b t = true ↔ ∀ b' t', (b', t') ≠ (b, t) → (∃ x, (b', x) ∈ s.blocks ∧ x.saved = none ∧ t' < x.teams.length ∧
      x.core = (s.block b).core ∧ (x.team t').slot % 4 = (s.team b t).slot % 4) → s.teamReady b' t' = true →
      ((s.block b').frameCrit = true → (s.block b).frameCrit = true) ∧
      ((s.block b').frameCrit = (s.block b).frameCrit → (s.team b t).lastIssue ≤ (s.team b' t').lastIssue ∧
        ((s.team b t).lastIssue = (s.team b' t').lastIssue → (s.team b t).slot ≤ (s.team b' t').slot)))) ∧
  (∀ (s : State) b t e, (s.team b t).idle = true → (s.block b).runs t = true → s.heldUp b t = false → s.ranksFirst b t = true →
    s.focus = none → issueEntry (s.team b t).frontier = some e →
    let x := s.block b
    let m := s.team b t
    let fetched := s.fetchClause x.core x.asid e.pc
    let next (u : State) : Prop := exec (.clauseIssue (.team b t)) s = .next u
    let hit := e.mask &&& m.openTx
    let trapped (w : State) (cl : Clause) (lanes : Half) (code pc addr : Nat) : Prop :=
      let v := w.modTeam b t (noted code pc addr pc)
      (hit ≠ 0 → next (w.modTeam b t fun n => n.abortLanes hit 4 code)) ∧
      (hit = 0 → m.context ≠ .trap → ∀ q u, MarkedAt v b x.trapvec q u → next (u.modTeam b t (enters x.trapvec q cl lanes))) ∧
      (hit = 0 → m.context ≠ .trap → ∀ va u, v.marked x.core x.asid x.trapvec = (.fault va, u) →
        next (u.modTeam b t fun n => { enters x.trapvec 0 cl lanes n with vecUnread := true })) ∧
      (hit = 0 → m.context = .trap → next (w.killBlock b pc))
    (∀ va w, fetched = (.fault va, w) → m.delayed = [] → next (w.pageFault b
      { asid := x.asid, va := va / 4096 * 4096, kind := 2, readOnly := false, who := .block b, t := t, pc := e.pc, addr := va })) ∧
    (∀ va w, fetched = (.fatal va, w) → trapped w e.bare e.mask 0x12 e.pc va) ∧
    (∀ va w, fetched = (.prot va, w) → trapped w e.bare e.mask 0x07 e.pc va) ∧
    (∀ f w, fetched = (.ok f, w) → (∀ o ∈ m.ops, ∀ k, o.flag = some k → k < 12 → f.header.getLsbD (13 + k) = false) →
      let h := f.header.toNat
      let cls := h / 2 ^ 25 % 8
      let setA := h / 512 % 16
      let setB := h / 32 % 16
      let act : Half := if f.header.getLsbD 4 then e.mask &&& m.p (h / 2 % 8) else e.mask
      let lanes : Half := if act = 0 then e.mask else act
      let body := e.pc + 4 + (if f.header.getLsbD 0 then 4 else 0)
      let prio := match f.marker with
        | some k => if m.vecUnread then k.toNat % 4096 else e.prio
        | none => e.prio
      let cl : Clause := { addr := e.pc, body := body, cls := cls, setA := setA, setB := setB, mask := e.mask, prio := prio, act := act
                           pc := body, words := f.words }
      let reserved := (12 ≤ setA ∧ setA ≤ 14) ∨ (12 ≤ setB ∧ setB ≤ 14) ∨ (f.header.getLsbD 4 = false ∧ h / 2 % 8 ≠ 0)
      let v := w.modTeam b t fun m => { m with
        tags := m.tags.filter fun g => match g.2 with
          | .flag k => !(decide (k < 12) && h.testBit (13 + k))
          | .token => true
        frontier := if m.vecUnread then [{ e with prio := prio }] else m.frontier
        vecUnread := false
        clause := some cl }
      let quiet := ∀ k, f.marker = some k → k.getLsbD 12 = false
      (m.vecUnread = true → f.marker = none → next (w.killBlock b m.trappc.toNat)) ∧
      ((m.vecUnread = true → f.marker ≠ none) →
      (cls = 3 → trapped w cl lanes 0x01 e.pc 0) ∧
      (cls ≠ 3 → reserved → trapped w cl lanes 0x02 e.pc 0) ∧
      (cls ≠ 3 → ¬reserved → ∀ n c, checkWords 16 0 cls setA x.regs f.words = some (n, c) →
        trapped w { cl with pc := body + 4 * n, words := f.words.drop n } lanes c.num (body + 4 * n) 0) ∧
      (cls ≠ 3 → ¬reserved → checkWords 16 0 cls setA x.regs f.words = none → quiet → f.words ≠ [] →
        next { v with focus := some (.team b t) }) ∧
      (cls ≠ 3 → ¬reserved → quiet → f.words = [] → m.haltPending = false → e.mask &&& ~~~m.retired ≠ 0 →
        ∃ u, next u ∧ Advanced v u b t cl)))) ∧
  (∀ (s : State) b t cl d rest, (s.team b t).delayed = d :: rest → (s.team b t).clause = some cl → (s.team b t).halted = false →
    (s.block b).runs t = true →
    let w := s.modTeam b t fun m => { m with delayed := rest, stall := none }
    let code := d.code.num + (if d.code = .refused then 0 else 256) + (if d.mstream then 512 else 0)
    let v := w.modTeam b t (noted code d.pc d.addr cl.pc)
    let entered (q : Nat) := enters (s.block b).trapvec q cl (if cl.act = 0 then cl.mask else cl.act)
    ((s.team b t).context ≠ .trap → s.focus ≠ some (.team b t) →
      (∀ q u, MarkedAt v b (s.block b).trapvec q u → exec (.delayedTrapDelivery b t) s = .next (u.modTeam b t (entered q))) ∧
      (∀ va u, v.marked (s.block b).core (s.block b).asid (s.block b).trapvec = (.fault va, u) →
        exec (.delayedTrapDelivery b t) s = .next (u.modTeam b t fun n => { entered 0 n with vecUnread := true }))) ∧
    ((s.team b t).context = .trap → exec (.delayedTrapDelivery b t) s = .next (w.killBlock b d.pc))) ∧
  (∀ cls w lit i s b t cl, cls ≠ 3 → decodeWord cls w lit = .instr i → Executes s b t cl →
    let tagged (r : Req) : List Tag := (Req.bytes r).filterMap fun k => (s.team b t).tag k
    let hazard := ∃ r ∈ i.shape.reqs, ∃ g ∈ tagged r, (∃ k, g = .flag k) ∨ r.role = .dst
    (hazard → Traps i s b t cl 0x03 0 cl.pc) ∧
    (¬hazard → (∃ r ∈ i.shape.reqs, tagged r ≠ []) → Waits i s b t)) ∧
  (∀ (s : State) b, (s.block b).seqIdle = true → ∀ f w, s.fetchClause (s.block b).core (s.block b).asid (s.block b).mtx.pc = (.ok f, w) →
    (∀ o ∈ (s.block b).mtx.ops, ∀ k, o.flag = some k → f.header.getLsbD (13 + k) = false) →
    let h := f.header.toNat
    let setA := h / 512 % 16
    let setB := h / 32 % 16
    let pc := (s.block b).mtx.pc
    let body := pc + 4 + (if f.header.getLsbD 0 then 4 else 0)
    let reserved := (12 ≤ setA ∧ setA ≤ 14) ∨ (12 ≤ setB ∧ setB ≤ 14) ∨ h / 2 % 16 ≠ 0
    let quiet := ∀ k, f.marker = some k → k.getLsbD 12 = false
    let v := w.modMtx b fun m => { m with tags := m.tags.filter fun g => !(decide (g.2.1 < 12) && h.testBit (13 + g.2.1)) }
    let next (u : State) : Prop := exec (.clauseIssue (.seq b)) s = .next u
    (h / 2 ^ 25 % 8 ≠ 3 → next (w.seqTrap b .illegal pc 0)) ∧
    (h / 2 ^ 25 % 8 = 3 → reserved → next (w.seqTrap b .clause pc 0)) ∧
    (h / 2 ^ 25 % 8 = 3 → ¬reserved → ∀ n c, checkWords 16 0 3 setA (s.block b).regs f.words = some (n, c) →
      next (w.seqTrap b c (body + 4 * n) 0)) ∧
    (h / 2 ^ 25 % 8 = 3 → ¬reserved → checkWords 16 0 3 setA (s.block b).regs f.words = none → quiet →
      (f.words = [] → next (v.modMtx b fun m => { m with pc := body })) ∧
      (f.words ≠ [] → next { v.modMtx b fun m => { m with clause := some { addr := pc, body := body, cls := 3, setA := setA, setB := setB, mask := 1, prio := 0, act := 1, pc := body, words := f.words } } with focus := some (.seq b) })))

/-- R38, R41, R43: where the next word of the clause in focus decodes to a well-formed instruction that passes its checks, a step is
that instruction's effect, for a team and for the sequencer; with an agenda, a step is what it names, after the ticks it names. -/
def Obligations.StepRunsTheDecodedInstruction : Prop :=
  (∀ (s : State) b t cl w r i, s.agenda = [] → s.thermal = false → s.clockOff = false → s.focus = some (.team b t) →
    (s.team b t).clause = some cl → cl.words = w :: r → decodeWord cl.cls w (r.headD 0) = .instr i →
    checkWord cl.cls cl.setA (s.block b).regs w r = none → (s.block b).runs t = true → (s.team b t).done = false →
    (s.team b t).halted = false → (s.team b t).stall = none → (s.team b t).delayed = [] → s.heldUp b t = false →
    s.ranksFirst b t = true → step s = exec i s) ∧
  (∀ (s : State) b cl w r i, s.agenda = [] → s.thermal = false → s.clockOff = false → s.focus = some (.seq b) →
    (s.block b).mtx.clause = some cl → cl.words = w :: r → decodeWord 3 w (r.headD 0) = .instr i →
    (s.block b).mtx.qstat.getLsbD 31 = true → (s.block b).mtx.held = false → (s.block b).mtx.stall = none →
    (s.block b).killed = none → (s.block b).saved = none → (s.block b).saving = none → step s = exec i s) ∧
  (∀ (s : State) n i r, s.agenda = ⟨n, .dev i⟩ :: r → s.thermal = false → s.clockOff = false →
    let v := { s with agenda := r }.elapse n
    v.clockOff = false → step s = exec i v)

/-- R44-R49, R68: words written out from the encodings, each with the class of its header, and the instruction it stands for. -/
def Obligations.EncodingWords : Prop :=
  ∀ e ∈ ([
    (0, 0x02050661, 0, .iadd (.v 5) (.v 6) (.reg (.s 1))),
    (0, 0x82050600, 0xFFFFFFFF, .iadd (.v 5) (.v 6) (.lit 0xFFFFFFFF)),
    (0, 0x20020708, 0, .icmpEq 2 (.v 7) (.reg (.v 8))),
    (0, 0x70040331, 0, .cvt (.v 4) (.reg (.v 3)) 3 1),
    (0, 0x4B017F61, 0, .ffma (.v 1) (.s 31) (.reg (.s 1))),
    (1, 0x0090FFFE, 0, .bra true 1 (.near 0xFFFE)),
    (1, 0x12036200, 0, .barrive 3 (.reg 2)),
    (1, 0x06000000, 0, .exit),
    (2, 0x04086400, 0, .ldgB32 (.v 8) (.s 4) (.reg (.v 0))),
    (2, 0x8B0A6000, 0x10, .stgB64 (.v 10) (.s 0) (.lit 0x10 0)),
    (2, 0x34030107, 0, .fence 3 1 7),
    (3, 0x08018203, 0, .mma 1 true 2 false 3),
    (3, 0x05020310, 0, .mload 2 (.q 3) .packed),
    (4, 0x02606461, 0, .copy (.s 0) (.s 4) (.reg (.s 1))),
    (4, 0x0D006112, 0, .stampEv 2 (.reg (.s 1))),
    (5, 0x80626101, 0x40, .qpop true (.s 2) (.s 1) (.lit 0x40)),
    (6, 0x18040861, 0, .tex (.v 4) (.v 8) (.s 1)),
    (7, 0x00650003, 0, .srd (.s 5) 3),
    (7, 0x03620001, 0, .tickC (.s 2))
    ] : List (Nat × Word × Word × Instr)),
  decodeWord e.1 e.2.1 e.2.2.1 = .instr e.2.2.2

/-- R44-R51: for every well-formed instruction word, at every value of its operands, the decoder reads back what the encoder
writes. -/
def Obligations.DecodeEncodeRoundTrip : Prop :=
  ∀ (i : Instr) cls w rest, classOf i = some cls → i.WellFormed = true → encode i = w :: rest →
    decodeWord cls w (rest.headD 0) = .instr i ∧ rest.length = (if w.getLsbD 31 then 1 else 0)

/-- R22, R331, R436, R442, R448, R478: what reset leaves: no block, one suite per room, the registers at the values their tables
give, the boot at its start; the tick at 0 and memory at 0, in its canonical form, are the model's choice (log 3, log 4). -/
def Obligations.ResetState : Prop :=
  let s := State.reset
  s.blocks = [] ∧ s.jobs = [] ∧ s.roots = [] ∧ s.focus = none ∧ s.tick = 0 ∧ Memory.wf s.mem = true ∧ Memory.wf s.hostMem = true ∧
  (∀ pa, Tab.get 0 s.mem pa = 0) ∧ (∀ r, r < 8 → s.suiteOfRoom r = r ∧ s.suiteExists r = true) ∧ s.bootstat = 0 ∧ s.fenceHost = [] ∧
  s.hostlo = 0 ∧ s.hosthi = 0xFFF ∧ s.rmbstat = 0 ∧ (∀ i, Tab.get 0 s.rmbreq i = 0 ∧ Tab.get 0 s.rmbrep i = 0) ∧
  (∀ u, (s.suite u).page.drainlim = 1350000 ∧ (s.suite u).page.qtable = 0 ∧ (s.suite u).page.htable = 0 ∧ (s.suite u).ctl = 0 ∧
    (s.suite u).segbase = 0 ∧ (s.suite u).segasid = 0 ∧ (s.suite u).hosterr = 0 ∧ (s.suite u).evq = [] ∧ (s.suite u).mcq = [] ∧
    (s.suite u).trctl = 0 ∧ (s.suite u).trhead = 0 ∧ (s.suite u).irqstat = 0 ∧ (s.suite u).irqmask = 0 ∧ (s.suite u).dbgctl = 0 ∧
    (s.suite u).pfq = [] ∧ (s.suite u).pfout = []) ∧
  (∀ r, (s.head r).dctl = 0 ∧ (s.head r).dperiod = 0 ∧ (s.head r).dnext = 0 ∧ (s.head r).ectl = 0)

/-- R2, R22, R445: whatever a step does, device memory and host memory keep their one canonical form, so that equal contents are
equal data, and the tick never runs backward. -/
def Obligations.StepKeepsMemoryFormAndTime : Prop :=
  ∀ s u : State, Memory.wf s.mem = true → Memory.wf s.hostMem = true → step s = .next u →
    Memory.wf u.mem = true ∧ Memory.wf u.hostMem = true ∧ s.tick ≤ u.tick

end
end

