-- ==== Sys2Proof/Laws/State.lean ====
section
/-! SUPPORT. What the named updates of a state, a block and a team leave alone, field by field: each holds by unfolding
one record update, so that no later proof has to. -/
namespace Sys2Proof.Machine
open Sys2Proof


/-! ### `State.setBlock` -/

@[simp] theorem State.setBlock_tick (s : State) (b : Nat) (y : Block) : (s.setBlock b y).tick = s.tick := rfl
@[simp] theorem State.setBlock_ptsTime (s : State) (b : Nat) (y : Block) : (s.setBlock b y).ptsTime = s.ptsTime := rfl
@[simp] theorem State.setBlock_mem (s : State) (b : Nat) (y : Block) : (s.setBlock b y).mem = s.mem := rfl
@[simp] theorem State.setBlock_hostMem (s : State) (b : Nat) (y : Block) : (s.setBlock b y).hostMem = s.hostMem := rfl
@[simp] theorem State.setBlock_poison (s : State) (b : Nat) (y : Block) : (s.setBlock b y).poison = s.poison := rfl
@[simp] theorem State.setBlock_home (s : State) (b : Nat) (y : Block) : (s.setBlock b y).home = s.home := rfl
@[simp] theorem State.setBlock_replies (s : State) (b : Nat) (y : Block) : (s.setBlock b y).replies = s.replies := rfl
@[simp] theorem State.setBlock_cores (s : State) (b : Nat) (y : Block) : (s.setBlock b y).cores = s.cores := rfl
@[simp] theorem State.setBlock_postTlb (s : State) (b : Nat) (y : Block) : (s.setBlock b y).postTlb = s.postTlb := rfl
@[simp] theorem State.setBlock_roots (s : State) (b : Nat) (y : Block) : (s.setBlock b y).roots = s.roots := rfl
@[simp] theorem State.setBlock_hostlo (s : State) (b : Nat) (y : Block) : (s.setBlock b y).hostlo = s.hostlo := rfl
@[simp] theorem State.setBlock_hosthi (s : State) (b : Nat) (y : Block) : (s.setBlock b y).hosthi = s.hosthi := rfl
@[simp] theorem State.setBlock_suitemap (s : State) (b : Nat) (y : Block) : (s.setBlock b y).suitemap = s.suitemap := rfl
@[simp] theorem State.setBlock_faults (s : State) (b : Nat) (y : Block) : (s.setBlock b y).faults = s.faults := rfl
@[simp] theorem State.setBlock_nextBlock (s : State) (b : Nat) (y : Block) : (s.setBlock b y).nextBlock = s.nextBlock := rfl
@[simp] theorem State.setBlock_jobs (s : State) (b : Nat) (y : Block) : (s.setBlock b y).jobs = s.jobs := rfl
@[simp] theorem State.setBlock_nextJob (s : State) (b : Nat) (y : Block) : (s.setBlock b y).nextJob = s.nextJob := rfl
@[simp] theorem State.setBlock_suites (s : State) (b : Nat) (y : Block) : (s.setBlock b y).suites = s.suites := rfl
@[simp] theorem State.setBlock_launches (s : State) (b : Nat) (y : Block) : (s.setBlock b y).launches = s.launches := rfl
@[simp] theorem State.setBlock_nextLaunch (s : State) (b : Nat) (y : Block) : (s.setBlock b y).nextLaunch = s.nextLaunch := rfl
@[simp] theorem State.setBlock_nearQueue (s : State) (b : Nat) (y : Block) : (s.setBlock b y).nearQueue = s.nearQueue := rfl
@[simp] theorem State.setBlock_lastCore (s : State) (b : Nat) (y : Block) : (s.setBlock b y).lastCore = s.lastCore := rfl
@[simp] theorem State.setBlock_part (s : State) (b : Nat) (y : Block) : (s.setBlock b y).part = s.part := rfl
@[simp] theorem State.setBlock_serial (s : State) (b : Nat) (y : Block) : (s.setBlock b y).serial = s.serial := rfl
@[simp] theorem State.setBlock_bootstat (s : State) (b : Nat) (y : Block) : (s.setBlock b y).bootstat = s.bootstat := rfl
@[simp] theorem State.setBlock_fenceHost (s : State) (b : Nat) (y : Block) : (s.setBlock b y).fenceHost = s.fenceHost := rfl
@[simp] theorem State.setBlock_rmbreq (s : State) (b : Nat) (y : Block) : (s.setBlock b y).rmbreq = s.rmbreq := rfl
@[simp] theorem State.setBlock_rmbrep (s : State) (b : Nat) (y : Block) : (s.setBlock b y).rmbrep = s.rmbrep := rfl
@[simp] theorem State.setBlock_rmbstat (s : State) (b : Nat) (y : Block) : (s.setBlock b y).rmbstat = s.rmbstat := rfl
@[simp] theorem State.setBlock_vectors (s : State) (b : Nat) (y : Block) : (s.setBlock b y).vectors = s.vectors := rfl
@[simp] theorem State.setBlock_sysrec (s : State) (b : Nat) (y : Block) : (s.setBlock b y).sysrec = s.sysrec := rfl
@[simp] theorem State.setBlock_sysrecN (s : State) (b : Nat) (y : Block) : (s.setBlock b y).sysrecN = s.sysrecN := rfl
@[simp] theorem State.setBlock_corrected (s : State) (b : Nat) (y : Block) : (s.setBlock b y).corrected = s.corrected := rfl
@[simp] theorem State.setBlock_sectorMode (s : State) (b : Nat) (y : Block) : (s.setBlock b y).sectorMode = s.sectorMode := rfl
@[simp] theorem State.setBlock_throttled (s : State) (b : Nat) (y : Block) : (s.setBlock b y).throttled = s.throttled := rfl
@[simp] theorem State.setBlock_clockOff (s : State) (b : Nat) (y : Block) : (s.setBlock b y).clockOff = s.clockOff := rfl
@[simp] theorem State.setBlock_thermal (s : State) (b : Nat) (y : Block) : (s.setBlock b y).thermal = s.thermal := rfl
@[simp] theorem State.setBlock_armed (s : State) (b : Nat) (y : Block) : (s.setBlock b y).armed = s.armed := rfl
@[simp] theorem State.setBlock_device (s : State) (b : Nat) (y : Block) : (s.setBlock b y).device = s.device := rfl
@[simp] theorem State.setBlock_peers (s : State) (b : Nat) (y : Block) : (s.setBlock b y).peers = s.peers := rfl
@[simp] theorem State.setBlock_ports (s : State) (b : Nat) (y : Block) : (s.setBlock b y).ports = s.ports := rfl
@[simp] theorem State.setBlock_routes (s : State) (b : Nat) (y : Block) : (s.setBlock b y).routes = s.routes := rfl
@[simp] theorem State.setBlock_invSeqs (s : State) (b : Nat) (y : Block) : (s.setBlock b y).invSeqs = s.invSeqs := rfl
@[simp] theorem State.setBlock_invReplies (s : State) (b : Nat) (y : Block) : (s.setBlock b y).invReplies = s.invReplies := rfl
@[simp] theorem State.setBlock_views (s : State) (b : Nat) (y : Block) : (s.setBlock b y).views = s.views := rfl
@[simp] theorem State.setBlock_nextView (s : State) (b : Nat) (y : Block) : (s.setBlock b y).nextView = s.nextView := rfl
@[simp] theorem State.setBlock_gens (s : State) (b : Nat) (y : Block) : (s.setBlock b y).gens = s.gens := rfl
@[simp] theorem State.setBlock_binq (s : State) (b : Nat) (y : Block) : (s.setBlock b y).binq = s.binq := rfl
@[simp] theorem State.setBlock_fabricOut (s : State) (b : Nat) (y : Block) : (s.setBlock b y).fabricOut = s.fabricOut := rfl
@[simp] theorem State.setBlock_fabricIn (s : State) (b : Nat) (y : Block) : (s.setBlock b y).fabricIn = s.fabricIn := rfl
@[simp] theorem State.setBlock_hostReply (s : State) (b : Nat) (y : Block) : (s.setBlock b y).hostReply = s.hostReply := rfl
@[simp] theorem State.setBlock_rmbDone (s : State) (b : Nat) (y : Block) : (s.setBlock b y).rmbDone = s.rmbDone := rfl
@[simp] theorem State.setBlock_lastSync (s : State) (b : Nat) (y : Block) : (s.setBlock b y).lastSync = s.lastSync := rfl
@[simp] theorem State.setBlock_sent (s : State) (b : Nat) (y : Block) : (s.setBlock b y).sent = s.sent := rfl
@[simp] theorem State.setBlock_heads (s : State) (b : Nat) (y : Block) : (s.setBlock b y).heads = s.heads := rfl
@[simp] theorem State.setBlock_focus (s : State) (b : Nat) (y : Block) : (s.setBlock b y).focus = s.focus := rfl
@[simp] theorem State.setBlock_agenda (s : State) (b : Nat) (y : Block) : (s.setBlock b y).agenda = s.agenda := rfl
@[simp] theorem State.setBlock_free (s : State) (b : Nat) (y : Block) : (s.setBlock b y).free = s.free := rfl
@[simp] theorem State.setBlock_agentPts (s : State) (b : Nat) (y : Block) : (s.setBlock b y).agentPts = s.agentPts := rfl
@[simp] theorem State.setBlock_engColl (s : State) (b : Nat) (y : Block) : (s.setBlock b y).engColl = s.engColl := rfl
@[simp] theorem State.setBlock_atomicRouting (s : State) (b : Nat) (y : Block) : (s.setBlock b y).atomicRouting = s.atomicRouting := rfl
@[simp] theorem State.setBlock_bootFault (s : State) (b : Nat) (y : Block) : (s.setBlock b y).bootFault = s.bootFault := rfl
@[simp] theorem State.setBlock_svcQueues (s : State) (b : Nat) (y : Block) : (s.setBlock b y).svcQueues = s.svcQueues := rfl
@[simp] theorem State.setBlock_holdFor (s : State) (b : Nat) (y : Block) : (s.setBlock b y).holdFor = s.holdFor := rfl
@[simp] theorem State.setBlock_rmbSent (s : State) (b : Nat) (y : Block) : (s.setBlock b y).rmbSent = s.rmbSent := rfl

/-! ### `State.modBlock` -/

@[simp] theorem State.modBlock_tick (s : State) (b : Nat) (f : Block → Block) : (s.modBlock b f).tick = s.tick := rfl
@[simp] theorem State.modBlock_ptsTime (s : State) (b : Nat) (f : Block → Block) : (s.modBlock b f).ptsTime = s.ptsTime := rfl
@[simp] theorem State.modBlock_mem (s : State) (b : Nat) (f : Block → Block) : (s.modBlock b f).mem = s.mem := rfl
@[simp] theorem State.modBlock_hostMem (s : State) (b : Nat) (f : Block → Block) : (s.modBlock b f).hostMem = s.hostMem := rfl
@[simp] theorem State.modBlock_poison (s : State) (b : Nat) (f : Block → Block) : (s.modBlock b f).poison = s.poison := rfl
@[simp] theorem State.modBlock_home (s : State) (b : Nat) (f : Block → Block) : (s.modBlock b f).home = s.home := rfl
@[simp] theorem State.modBlock_replies (s : State) (b : Nat) (f : Block → Block) : (s.modBlock b f).replies = s.replies := rfl
@[simp] theorem State.modBlock_cores (s : State) (b : Nat) (f : Block → Block) : (s.modBlock b f).cores = s.cores := rfl
@[simp] theorem State.modBlock_postTlb (s : State) (b : Nat) (f : Block → Block) : (s.modBlock b f).postTlb = s.postTlb := rfl
@[simp] theorem State.modBlock_roots (s : State) (b : Nat) (f : Block → Block) : (s.modBlock b f).roots = s.roots := rfl
@[simp] theorem State.modBlock_hostlo (s : State) (b : Nat) (f : Block → Block) : (s.modBlock b f).hostlo = s.hostlo := rfl
@[simp] theorem State.modBlock_hosthi (s : State) (b : Nat) (f : Block → Block) : (s.modBlock b f).hosthi = s.hosthi := rfl
@[simp] theorem State.modBlock_suitemap (s : State) (b : Nat) (f : Block → Block) : (s.modBlock b f).suitemap = s.suitemap := rfl
@[simp] theorem State.modBlock_faults (s : State) (b : Nat) (f : Block → Block) : (s.modBlock b f).faults = s.faults := rfl
@[simp] theorem State.modBlock_nextBlock (s : State) (b : Nat) (f : Block → Block) : (s.modBlock b f).nextBlock = s.nextBlock := rfl
@[simp] theorem State.modBlock_jobs (s : State) (b : Nat) (f : Block → Block) : (s.modBlock b f).jobs = s.jobs := rfl
@[simp] theorem State.modBlock_nextJob (s : State) (b : Nat) (f : Block → Block) : (s.modBlock b f).nextJob = s.nextJob := rfl
@[simp] theorem State.modBlock_suites (s : State) (b : Nat) (f : Block → Block) : (s.modBlock b f).suites = s.suites := rfl
@[simp] theorem State.modBlock_launches (s : State) (b : Nat) (f : Block → Block) : (s.modBlock b f).launches = s.launches := rfl
@[simp] theorem State.modBlock_nextLaunch (s : State) (b : Nat) (f : Block → Block) : (s.modBlock b f).nextLaunch = s.nextLaunch := rfl
@[simp] theorem State.modBlock_nearQueue (s : State) (b : Nat) (f : Block → Block) : (s.modBlock b f).nearQueue = s.nearQueue := rfl
@[simp] theorem State.modBlock_lastCore (s : State) (b : Nat) (f : Block → Block) : (s.modBlock b f).lastCore = s.lastCore := rfl
@[simp] theorem State.modBlock_part (s : State) (b : Nat) (f : Block → Block) : (s.modBlock b f).part = s.part := rfl
@[simp] theorem State.modBlock_serial (s : State) (b : Nat) (f : Block → Block) : (s.modBlock b f).serial = s.serial := rfl
@[simp] theorem State.modBlock_bootstat (s : State) (b : Nat) (f : Block → Block) : (s.modBlock b f).bootstat = s.bootstat := rfl
@[simp] theorem State.modBlock_fenceHost (s : State) (b : Nat) (f : Block → Block) : (s.modBlock b f).fenceHost = s.fenceHost := rfl
@[simp] theorem State.modBlock_rmbreq (s : State) (b : Nat) (f : Block → Block) : (s.modBlock b f).rmbreq = s.rmbreq := rfl
@[simp] theorem State.modBlock_rmbrep (s : State) (b : Nat) (f : Block → Block) : (s.modBlock b f).rmbrep = s.rmbrep := rfl
@[simp] theorem State.modBlock_rmbstat (s : State) (b : Nat) (f : Block → Block) : (s.modBlock b f).rmbstat = s.rmbstat := rfl
@[simp] theorem State.modBlock_vectors (s : State) (b : Nat) (f : Block → Block) : (s.modBlock b f).vectors = s.vectors := rfl
@[simp] theorem State.modBlock_sysrec (s : State) (b : Nat) (f : Block → Block) : (s.modBlock b f).sysrec = s.sysrec := rfl
@[simp] theorem State.modBlock_sysrecN (s : State) (b : Nat) (f : Block → Block) : (s.modBlock b f).sysrecN = s.sysrecN := rfl
@[simp] theorem State.modBlock_corrected (s : State) (b : Nat) (f : Block → Block) : (s.modBlock b f).corrected = s.corrected := rfl
@[simp] theorem State.modBlock_sectorMode (s : State) (b : Nat) (f : Block → Block) : (s.modBlock b f).sectorMode = s.sectorMode := rfl
@[simp] theorem State.modBlock_throttled (s : State) (b : Nat) (f : Block → Block) : (s.modBlock b f).throttled = s.throttled := rfl
@[simp] theorem State.modBlock_clockOff (s : State) (b : Nat) (f : Block → Block) : (s.modBlock b f).clockOff = s.clockOff := rfl
@[simp] theorem State.modBlock_thermal (s : State) (b : Nat) (f : Block → Block) : (s.modBlock b f).thermal = s.thermal := rfl
@[simp] theorem State.modBlock_armed (s : State) (b : Nat) (f : Block → Block) : (s.modBlock b f).armed = s.armed := rfl
@[simp] theorem State.modBlock_device (s : State) (b : Nat) (f : Block → Block) : (s.modBlock b f).device = s.device := rfl
@[simp] theorem State.modBlock_peers (s : State) (b : Nat) (f : Block → Block) : (s.modBlock b f).peers = s.peers := rfl
@[simp] theorem State.modBlock_ports (s : State) (b : Nat) (f : Block → Block) : (s.modBlock b f).ports = s.ports := rfl
@[simp] theorem State.modBlock_routes (s : State) (b : Nat) (f : Block → Block) : (s.modBlock b f).routes = s.routes := rfl
@[simp] theorem State.modBlock_invSeqs (s : State) (b : Nat) (f : Block → Block) : (s.modBlock b f).invSeqs = s.invSeqs := rfl
@[simp] theorem State.modBlock_invReplies (s : State) (b : Nat) (f : Block → Block) : (s.modBlock b f).invReplies = s.invReplies := rfl
@[simp] theorem State.modBlock_views (s : State) (b : Nat) (f : Block → Block) : (s.modBlock b f).views = s.views := rfl
@[simp] theorem State.modBlock_nextView (s : State) (b : Nat) (f : Block → Block) : (s.modBlock b f).nextView = s.nextView := rfl
@[simp] theorem State.modBlock_gens (s : State) (b : Nat) (f : Block → Block) : (s.modBlock b f).gens = s.gens := rfl
@[simp] theorem State.modBlock_binq (s : State) (b : Nat) (f : Block → Block) : (s.modBlock b f).binq = s.binq := rfl
@[simp] theorem State.modBlock_fabricOut (s : State) (b : Nat) (f : Block → Block) : (s.modBlock b f).fabricOut = s.fabricOut := rfl
@[simp] theorem State.modBlock_fabricIn (s : State) (b : Nat) (f : Block → Block) : (s.modBlock b f).fabricIn = s.fabricIn := rfl
@[simp] theorem State.modBlock_hostReply (s : State) (b : Nat) (f : Block → Block) : (s.modBlock b f).hostReply = s.hostReply := rfl
@[simp] theorem State.modBlock_rmbDone (s : State) (b : Nat) (f : Block → Block) : (s.modBlock b f).rmbDone = s.rmbDone := rfl
@[simp] theorem State.modBlock_lastSync (s : State) (b : Nat) (f : Block → Block) : (s.modBlock b f).lastSync = s.lastSync := rfl
@[simp] theorem State.modBlock_sent (s : State) (b : Nat) (f : Block → Block) : (s.modBlock b f).sent = s.sent := rfl
@[simp] theorem State.modBlock_heads (s : State) (b : Nat) (f : Block → Block) : (s.modBlock b f).heads = s.heads := rfl
@[simp] theorem State.modBlock_focus (s : State) (b : Nat) (f : Block → Block) : (s.modBlock b f).focus = s.focus := rfl
@[simp] theorem State.modBlock_agenda (s : State) (b : Nat) (f : Block → Block) : (s.modBlock b f).agenda = s.agenda := rfl
@[simp] theorem State.modBlock_free (s : State) (b : Nat) (f : Block → Block) : (s.modBlock b f).free = s.free := rfl
@[simp] theorem State.modBlock_agentPts (s : State) (b : Nat) (f : Block → Block) : (s.modBlock b f).agentPts = s.agentPts := rfl
@[simp] theorem State.modBlock_engColl (s : State) (b : Nat) (f : Block → Block) : (s.modBlock b f).engColl = s.engColl := rfl
@[simp] theorem State.modBlock_atomicRouting (s : State) (b : Nat) (f : Block → Block) : (s.modBlock b f).atomicRouting = s.atomicRouting := rfl
@[simp] theorem State.modBlock_bootFault (s : State) (b : Nat) (f : Block → Block) : (s.modBlock b f).bootFault = s.bootFault := rfl
@[simp] theorem State.modBlock_svcQueues (s : State) (b : Nat) (f : Block → Block) : (s.modBlock b f).svcQueues = s.svcQueues := rfl
@[simp] theorem State.modBlock_holdFor (s : State) (b : Nat) (f : Block → Block) : (s.modBlock b f).holdFor = s.holdFor := rfl
@[simp] theorem State.modBlock_rmbSent (s : State) (b : Nat) (f : Block → Block) : (s.modBlock b f).rmbSent = s.rmbSent := rfl

/-! ### `State.modTeam` -/

@[simp] theorem State.modTeam_tick (s : State) (b t : Nat) (f : Team → Team) : (s.modTeam b t f).tick = s.tick := rfl
@[simp] theorem State.modTeam_ptsTime (s : State) (b t : Nat) (f : Team → Team) : (s.modTeam b t f).ptsTime = s.ptsTime := rfl
@[simp] theorem State.modTeam_mem (s : State) (b t : Nat) (f : Team → Team) : (s.modTeam b t f).mem = s.mem := rfl
@[simp] theorem State.modTeam_hostMem (s : State) (b t : Nat) (f : Team → Team) : (s.modTeam b t f).hostMem = s.hostMem := rfl
@[simp] theorem State.modTeam_poison (s : State) (b t : Nat) (f : Team → Team) : (s.modTeam b t f).poison = s.poison := rfl
@[simp] theorem State.modTeam_home (s : State) (b t : Nat) (f : Team → Team) : (s.modTeam b t f).home = s.home := rfl
@[simp] theorem State.modTeam_replies (s : State) (b t : Nat) (f : Team → Team) : (s.modTeam b t f).replies = s.replies := rfl
@[simp] theorem State.modTeam_cores (s : State) (b t : Nat) (f : Team → Team) : (s.modTeam b t f).cores = s.cores := rfl
@[simp] theorem State.modTeam_postTlb (s : State) (b t : Nat) (f : Team → Team) : (s.modTeam b t f).postTlb = s.postTlb := rfl
@[simp] theorem State.modTeam_roots (s : State) (b t : Nat) (f : Team → Team) : (s.modTeam b t f).roots = s.roots := rfl
@[simp] theorem State.modTeam_hostlo (s : State) (b t : Nat) (f : Team → Team) : (s.modTeam b t f).hostlo = s.hostlo := rfl
@[simp] theorem State.modTeam_hosthi (s : State) (b t : Nat) (f : Team → Team) : (s.modTeam b t f).hosthi = s.hosthi := rfl
@[simp] theorem State.modTeam_suitemap (s : State) (b t : Nat) (f : Team → Team) : (s.modTeam b t f).suitemap = s.suitemap := rfl
@[simp] theorem State.modTeam_faults (s : State) (b t : Nat) (f : Team → Team) : (s.modTeam b t f).faults = s.faults := rfl
@[simp] theorem State.modTeam_nextBlock (s : State) (b t : Nat) (f : Team → Team) : (s.modTeam b t f).nextBlock = s.nextBlock := rfl
@[simp] theorem State.modTeam_jobs (s : State) (b t : Nat) (f : Team → Team) : (s.modTeam b t f).jobs = s.jobs := rfl
@[simp] theorem State.modTeam_nextJob (s : State) (b t : Nat) (f : Team → Team) : (s.modTeam b t f).nextJob = s.nextJob := rfl
@[simp] theorem State.modTeam_suites (s : State) (b t : Nat) (f : Team → Team) : (s.modTeam b t f).suites = s.suites := rfl
@[simp] theorem State.modTeam_launches (s : State) (b t : Nat) (f : Team → Team) : (s.modTeam b t f).launches = s.launches := rfl
@[simp] theorem State.modTeam_nextLaunch (s : State) (b t : Nat) (f : Team → Team) : (s.modTeam b t f).nextLaunch = s.nextLaunch := rfl
@[simp] theorem State.modTeam_nearQueue (s : State) (b t : Nat) (f : Team → Team) : (s.modTeam b t f).nearQueue = s.nearQueue := rfl
@[simp] theorem State.modTeam_lastCore (s : State) (b t : Nat) (f : Team → Team) : (s.modTeam b t f).lastCore = s.lastCore := rfl
@[simp] theorem State.modTeam_part (s : State) (b t : Nat) (f : Team → Team) : (s.modTeam b t f).part = s.part := rfl
@[simp] theorem State.modTeam_serial (s : State) (b t : Nat) (f : Team → Team) : (s.modTeam b t f).serial = s.serial := rfl
@[simp] theorem State.modTeam_bootstat (s : State) (b t : Nat) (f : Team → Team) : (s.modTeam b t f).bootstat = s.bootstat := rfl
@[simp] theorem State.modTeam_fenceHost (s : State) (b t : Nat) (f : Team → Team) : (s.modTeam b t f).fenceHost = s.fenceHost := rfl
@[simp] theorem State.modTeam_rmbreq (s : State) (b t : Nat) (f : Team → Team) : (s.modTeam b t f).rmbreq = s.rmbreq := rfl
@[simp] theorem State.modTeam_rmbrep (s : State) (b t : Nat) (f : Team → Team) : (s.modTeam b t f).rmbrep = s.rmbrep := rfl
@[simp] theorem State.modTeam_rmbstat (s : State) (b t : Nat) (f : Team → Team) : (s.modTeam b t f).rmbstat = s.rmbstat := rfl
@[simp] theorem State.modTeam_vectors (s : State) (b t : Nat) (f : Team → Team) : (s.modTeam b t f).vectors = s.vectors := rfl
@[simp] theorem State.modTeam_sysrec (s : State) (b t : Nat) (f : Team → Team) : (s.modTeam b t f).sysrec = s.sysrec := rfl
@[simp] theorem State.modTeam_sysrecN (s : State) (b t : Nat) (f : Team → Team) : (s.modTeam b t f).sysrecN = s.sysrecN := rfl
@[simp] theorem State.modTeam_corrected (s : State) (b t : Nat) (f : Team → Team) : (s.modTeam b t f).corrected = s.corrected := rfl
@[simp] theorem State.modTeam_sectorMode (s : State) (b t : Nat) (f : Team → Team) : (s.modTeam b t f).sectorMode = s.sectorMode := rfl
@[simp] theorem State.modTeam_throttled (s : State) (b t : Nat) (f : Team → Team) : (s.modTeam b t f).throttled = s.throttled := rfl
@[simp] theorem State.modTeam_clockOff (s : State) (b t : Nat) (f : Team → Team) : (s.modTeam b t f).clockOff = s.clockOff := rfl
@[simp] theorem State.modTeam_thermal (s : State) (b t : Nat) (f : Team → Team) : (s.modTeam b t f).thermal = s.thermal := rfl
@[simp] theorem State.modTeam_armed (s : State) (b t : Nat) (f : Team → Team) : (s.modTeam b t f).armed = s.armed := rfl
@[simp] theorem State.modTeam_device (s : State) (b t : Nat) (f : Team → Team) : (s.modTeam b t f).device = s.device := rfl
@[simp] theorem State.modTeam_peers (s : State) (b t : Nat) (f : Team → Team) : (s.modTeam b t f).peers = s.peers := rfl
@[simp] theorem State.modTeam_ports (s : State) (b t : Nat) (f : Team → Team) : (s.modTeam b t f).ports = s.ports := rfl
@[simp] theorem State.modTeam_routes (s : State) (b t : Nat) (f : Team → Team) : (s.modTeam b t f).routes = s.routes := rfl
@[simp] theorem State.modTeam_invSeqs (s : State) (b t : Nat) (f : Team → Team) : (s.modTeam b t f).invSeqs = s.invSeqs := rfl
@[simp] theorem State.modTeam_invReplies (s : State) (b t : Nat) (f : Team → Team) : (s.modTeam b t f).invReplies = s.invReplies := rfl
@[simp] theorem State.modTeam_views (s : State) (b t : Nat) (f : Team → Team) : (s.modTeam b t f).views = s.views := rfl
@[simp] theorem State.modTeam_nextView (s : State) (b t : Nat) (f : Team → Team) : (s.modTeam b t f).nextView = s.nextView := rfl
@[simp] theorem State.modTeam_gens (s : State) (b t : Nat) (f : Team → Team) : (s.modTeam b t f).gens = s.gens := rfl
@[simp] theorem State.modTeam_binq (s : State) (b t : Nat) (f : Team → Team) : (s.modTeam b t f).binq = s.binq := rfl
@[simp] theorem State.modTeam_fabricOut (s : State) (b t : Nat) (f : Team → Team) : (s.modTeam b t f).fabricOut = s.fabricOut := rfl
@[simp] theorem State.modTeam_fabricIn (s : State) (b t : Nat) (f : Team → Team) : (s.modTeam b t f).fabricIn = s.fabricIn := rfl
@[simp] theorem State.modTeam_hostReply (s : State) (b t : Nat) (f : Team → Team) : (s.modTeam b t f).hostReply = s.hostReply := rfl
@[simp] theorem State.modTeam_rmbDone (s : State) (b t : Nat) (f : Team → Team) : (s.modTeam b t f).rmbDone = s.rmbDone := rfl
@[simp] theorem State.modTeam_lastSync (s : State) (b t : Nat) (f : Team → Team) : (s.modTeam b t f).lastSync = s.lastSync := rfl
@[simp] theorem State.modTeam_sent (s : State) (b t : Nat) (f : Team → Team) : (s.modTeam b t f).sent = s.sent := rfl
@[simp] theorem State.modTeam_heads (s : State) (b t : Nat) (f : Team → Team) : (s.modTeam b t f).heads = s.heads := rfl
@[simp] theorem State.modTeam_focus (s : State) (b t : Nat) (f : Team → Team) : (s.modTeam b t f).focus = s.focus := rfl
@[simp] theorem State.modTeam_agenda (s : State) (b t : Nat) (f : Team → Team) : (s.modTeam b t f).agenda = s.agenda := rfl
@[simp] theorem State.modTeam_free (s : State) (b t : Nat) (f : Team → Team) : (s.modTeam b t f).free = s.free := rfl
@[simp] theorem State.modTeam_agentPts (s : State) (b t : Nat) (f : Team → Team) : (s.modTeam b t f).agentPts = s.agentPts := rfl
@[simp] theorem State.modTeam_engColl (s : State) (b t : Nat) (f : Team → Team) : (s.modTeam b t f).engColl = s.engColl := rfl
@[simp] theorem State.modTeam_atomicRouting (s : State) (b t : Nat) (f : Team → Team) : (s.modTeam b t f).atomicRouting = s.atomicRouting := rfl
@[simp] theorem State.modTeam_bootFault (s : State) (b t : Nat) (f : Team → Team) : (s.modTeam b t f).bootFault = s.bootFault := rfl
@[simp] theorem State.modTeam_svcQueues (s : State) (b t : Nat) (f : Team → Team) : (s.modTeam b t f).svcQueues = s.svcQueues := rfl
@[simp] theorem State.modTeam_holdFor (s : State) (b t : Nat) (f : Team → Team) : (s.modTeam b t f).holdFor = s.holdFor := rfl
@[simp] theorem State.modTeam_rmbSent (s : State) (b t : Nat) (f : Team → Team) : (s.modTeam b t f).rmbSent = s.rmbSent := rfl

/-! ### `State.modCore` -/

@[simp] theorem State.modCore_tick (s : State) (c : Nat) (f : Core → Core) : (s.modCore c f).tick = s.tick := rfl
@[simp] theorem State.modCore_ptsTime (s : State) (c : Nat) (f : Core → Core) : (s.modCore c f).ptsTime = s.ptsTime := rfl
@[simp] theorem State.modCore_mem (s : State) (c : Nat) (f : Core → Core) : (s.modCore c f).mem = s.mem := rfl
@[simp] theorem State.modCore_hostMem (s : State) (c : Nat) (f : Core → Core) : (s.modCore c f).hostMem = s.hostMem := rfl
@[simp] theorem State.modCore_poison (s : State) (c : Nat) (f : Core → Core) : (s.modCore c f).poison = s.poison := rfl
@[simp] theorem State.modCore_home (s : State) (c : Nat) (f : Core → Core) : (s.modCore c f).home = s.home := rfl
@[simp] theorem State.modCore_replies (s : State) (c : Nat) (f : Core → Core) : (s.modCore c f).replies = s.replies := rfl
@[simp] theorem State.modCore_postTlb (s : State) (c : Nat) (f : Core → Core) : (s.modCore c f).postTlb = s.postTlb := rfl
@[simp] theorem State.modCore_roots (s : State) (c : Nat) (f : Core → Core) : (s.modCore c f).roots = s.roots := rfl
@[simp] theorem State.modCore_hostlo (s : State) (c : Nat) (f : Core → Core) : (s.modCore c f).hostlo = s.hostlo := rfl
@[simp] theorem State.modCore_hosthi (s : State) (c : Nat) (f : Core → Core) : (s.modCore c f).hosthi = s.hosthi := rfl
@[simp] theorem State.modCore_suitemap (s : State) (c : Nat) (f : Core → Core) : (s.modCore c f).suitemap = s.suitemap := rfl
@[simp] theorem State.modCore_blocks (s : State) (c : Nat) (f : Core → Core) : (s.modCore c f).blocks = s.blocks := rfl
@[simp] theorem State.modCore_faults (s : State) (c : Nat) (f : Core → Core) : (s.modCore c f).faults = s.faults := rfl
@[simp] theorem State.modCore_nextBlock (s : State) (c : Nat) (f : Core → Core) : (s.modCore c f).nextBlock = s.nextBlock := rfl
@[simp] theorem State.modCore_jobs (s : State) (c : Nat) (f : Core → Core) : (s.modCore c f).jobs = s.jobs := rfl
@[simp] theorem State.modCore_nextJob (s : State) (c : Nat) (f : Core → Core) : (s.modCore c f).nextJob = s.nextJob := rfl
@[simp] theorem State.modCore_suites (s : State) (c : Nat) (f : Core → Core) : (s.modCore c f).suites = s.suites := rfl
@[simp] theorem State.modCore_launches (s : State) (c : Nat) (f : Core → Core) : (s.modCore c f).launches = s.launches := rfl
@[simp] theorem State.modCore_nextLaunch (s : State) (c : Nat) (f : Core → Core) : (s.modCore c f).nextLaunch = s.nextLaunch := rfl
@[simp] theorem State.modCore_nearQueue (s : State) (c : Nat) (f : Core → Core) : (s.modCore c f).nearQueue = s.nearQueue := rfl
@[simp] theorem State.modCore_lastCore (s : State) (c : Nat) (f : Core → Core) : (s.modCore c f).lastCore = s.lastCore := rfl
@[simp] theorem State.modCore_part (s : State) (c : Nat) (f : Core → Core) : (s.modCore c f).part = s.part := rfl
@[simp] theorem State.modCore_serial (s : State) (c : Nat) (f : Core → Core) : (s.modCore c f).serial = s.serial := rfl
@[simp] theorem State.modCore_bootstat (s : State) (c : Nat) (f : Core → Core) : (s.modCore c f).bootstat = s.bootstat := rfl
@[simp] theorem State.modCore_fenceHost (s : State) (c : Nat) (f : Core → Core) : (s.modCore c f).fenceHost = s.fenceHost := rfl
@[simp] theorem State.modCore_rmbreq (s : State) (c : Nat) (f : Core → Core) : (s.modCore c f).rmbreq = s.rmbreq := rfl
@[simp] theorem State.modCore_rmbrep (s : State) (c : Nat) (f : Core → Core) : (s.modCore c f).rmbrep = s.rmbrep := rfl
@[simp] theorem State.modCore_rmbstat (s : State) (c : Nat) (f : Core → Core) : (s.modCore c f).rmbstat = s.rmbstat := rfl
@[simp] theorem State.modCore_vectors (s : State) (c : Nat) (f : Core → Core) : (s.modCore c f).vectors = s.vectors := rfl
@[simp] theorem State.modCore_sysrec (s : State) (c : Nat) (f : Core → Core) : (s.modCore c f).sysrec = s.sysrec := rfl
@[simp] theorem State.modCore_sysrecN (s : State) (c : Nat) (f : Core → Core) : (s.modCore c f).sysrecN = s.sysrecN := rfl
@[simp] theorem State.modCore_corrected (s : State) (c : Nat) (f : Core → Core) : (s.modCore c f).corrected = s.corrected := rfl
@[simp] theorem State.modCore_sectorMode (s : State) (c : Nat) (f : Core → Core) : (s.modCore c f).sectorMode = s.sectorMode := rfl
@[simp] theorem State.modCore_throttled (s : State) (c : Nat) (f : Core → Core) : (s.modCore c f).throttled = s.throttled := rfl
@[simp] theorem State.modCore_clockOff (s : State) (c : Nat) (f : Core → Core) : (s.modCore c f).clockOff = s.clockOff := rfl
@[simp] theorem State.modCore_thermal (s : State) (c : Nat) (f : Core → Core) : (s.modCore c f).thermal = s.thermal := rfl
@[simp] theorem State.modCore_armed (s : State) (c : Nat) (f : Core → Core) : (s.modCore c f).armed = s.armed := rfl
@[simp] theorem State.modCore_device (s : State) (c : Nat) (f : Core → Core) : (s.modCore c f).device = s.device := rfl
@[simp] theorem State.modCore_peers (s : State) (c : Nat) (f : Core → Core) : (s.modCore c f).peers = s.peers := rfl
@[simp] theorem State.modCore_ports (s : State) (c : Nat) (f : Core → Core) : (s.modCore c f).ports = s.ports := rfl
@[simp] theorem State.modCore_routes (s : State) (c : Nat) (f : Core → Core) : (s.modCore c f).routes = s.routes := rfl
@[simp] theorem State.modCore_invSeqs (s : State) (c : Nat) (f : Core → Core) : (s.modCore c f).invSeqs = s.invSeqs := rfl
@[simp] theorem State.modCore_invReplies (s : State) (c : Nat) (f : Core → Core) : (s.modCore c f).invReplies = s.invReplies := rfl
@[simp] theorem State.modCore_views (s : State) (c : Nat) (f : Core → Core) : (s.modCore c f).views = s.views := rfl
@[simp] theorem State.modCore_nextView (s : State) (c : Nat) (f : Core → Core) : (s.modCore c f).nextView = s.nextView := rfl
@[simp] theorem State.modCore_gens (s : State) (c : Nat) (f : Core → Core) : (s.modCore c f).gens = s.gens := rfl
@[simp] theorem State.modCore_binq (s : State) (c : Nat) (f : Core → Core) : (s.modCore c f).binq = s.binq := rfl
@[simp] theorem State.modCore_fabricOut (s : State) (c : Nat) (f : Core → Core) : (s.modCore c f).fabricOut = s.fabricOut := rfl
@[simp] theorem State.modCore_fabricIn (s : State) (c : Nat) (f : Core → Core) : (s.modCore c f).fabricIn = s.fabricIn := rfl
@[simp] theorem State.modCore_hostReply (s : State) (c : Nat) (f : Core → Core) : (s.modCore c f).hostReply = s.hostReply := rfl
@[simp] theorem State.modCore_rmbDone (s : State) (c : Nat) (f : Core → Core) : (s.modCore c f).rmbDone = s.rmbDone := rfl
@[simp] theorem State.modCore_lastSync (s : State) (c : Nat) (f : Core → Core) : (s.modCore c f).lastSync = s.lastSync := rfl
@[simp] theorem State.modCore_sent (s : State) (c : Nat) (f : Core → Core) : (s.modCore c f).sent = s.sent := rfl
@[simp] theorem State.modCore_heads (s : State) (c : Nat) (f : Core → Core) : (s.modCore c f).heads = s.heads := rfl
@[simp] theorem State.modCore_focus (s : State) (c : Nat) (f : Core → Core) : (s.modCore c f).focus = s.focus := rfl
@[simp] theorem State.modCore_agenda (s : State) (c : Nat) (f : Core → Core) : (s.modCore c f).agenda = s.agenda := rfl
@[simp] theorem State.modCore_free (s : State) (c : Nat) (f : Core → Core) : (s.modCore c f).free = s.free := rfl
@[simp] theorem State.modCore_agentPts (s : State) (c : Nat) (f : Core → Core) : (s.modCore c f).agentPts = s.agentPts := rfl
@[simp] theorem State.modCore_engColl (s : State) (c : Nat) (f : Core → Core) : (s.modCore c f).engColl = s.engColl := rfl
@[simp] theorem State.modCore_atomicRouting (s : State) (c : Nat) (f : Core → Core) : (s.modCore c f).atomicRouting = s.atomicRouting := rfl
@[simp] theorem State.modCore_bootFault (s : State) (c : Nat) (f : Core → Core) : (s.modCore c f).bootFault = s.bootFault := rfl
@[simp] theorem State.modCore_svcQueues (s : State) (c : Nat) (f : Core → Core) : (s.modCore c f).svcQueues = s.svcQueues := rfl
@[simp] theorem State.modCore_holdFor (s : State) (c : Nat) (f : Core → Core) : (s.modCore c f).holdFor = s.holdFor := rfl
@[simp] theorem State.modCore_rmbSent (s : State) (c : Nat) (f : Core → Core) : (s.modCore c f).rmbSent = s.rmbSent := rfl

/-! ### `State.setHomeLine` -/

@[simp] theorem State.setHomeLine_tick (s : State) (l : Nat) (h : HomeLine) : (s.setHomeLine l h).tick = s.tick := rfl
@[simp] theorem State.setHomeLine_ptsTime (s : State) (l : Nat) (h : HomeLine) : (s.setHomeLine l h).ptsTime = s.ptsTime := rfl
@[simp] theorem State.setHomeLine_mem (s : State) (l : Nat) (h : HomeLine) : (s.setHomeLine l h).mem = s.mem := rfl
@[simp] theorem State.setHomeLine_hostMem (s : State) (l : Nat) (h : HomeLine) : (s.setHomeLine l h).hostMem = s.hostMem := rfl
@[simp] theorem State.setHomeLine_poison (s : State) (l : Nat) (h : HomeLine) : (s.setHomeLine l h).poison = s.poison := rfl
@[simp] theorem State.setHomeLine_replies (s : State) (l : Nat) (h : HomeLine) : (s.setHomeLine l h).replies = s.replies := rfl
@[simp] theorem State.setHomeLine_cores (s : State) (l : Nat) (h : HomeLine) : (s.setHomeLine l h).cores = s.cores := rfl
@[simp] theorem State.setHomeLine_postTlb (s : State) (l : Nat) (h : HomeLine) : (s.setHomeLine l h).postTlb = s.postTlb := rfl
@[simp] theorem State.setHomeLine_roots (s : State) (l : Nat) (h : HomeLine) : (s.setHomeLine l h).roots = s.roots := rfl
@[simp] theorem State.setHomeLine_hostlo (s : State) (l : Nat) (h : HomeLine) : (s.setHomeLine l h).hostlo = s.hostlo := rfl
@[simp] theorem State.setHomeLine_hosthi (s : State) (l : Nat) (h : HomeLine) : (s.setHomeLine l h).hosthi = s.hosthi := rfl
@[simp] theorem State.setHomeLine_suitemap (s : State) (l : Nat) (h : HomeLine) : (s.setHomeLine l h).suitemap = s.suitemap := rfl
@[simp] theorem State.setHomeLine_blocks (s : State) (l : Nat) (h : HomeLine) : (s.setHomeLine l h).blocks = s.blocks := rfl
@[simp] theorem State.setHomeLine_faults (s : State) (l : Nat) (h : HomeLine) : (s.setHomeLine l h).faults = s.faults := rfl
@[simp] theorem State.setHomeLine_nextBlock (s : State) (l : Nat) (h : HomeLine) : (s.setHomeLine l h).nextBlock = s.nextBlock := rfl
@[simp] theorem State.setHomeLine_jobs (s : State) (l : Nat) (h : HomeLine) : (s.setHomeLine l h).jobs = s.jobs := rfl
@[simp] theorem State.setHomeLine_nextJob (s : State) (l : Nat) (h : HomeLine) : (s.setHomeLine l h).nextJob = s.nextJob := rfl
@[simp] theorem State.setHomeLine_suites (s : State) (l : Nat) (h : HomeLine) : (s.setHomeLine l h).suites = s.suites := rfl
@[simp] theorem State.setHomeLine_launches (s : State) (l : Nat) (h : HomeLine) : (s.setHomeLine l h).launches = s.launches := rfl
@[simp] theorem State.setHomeLine_nextLaunch (s : State) (l : Nat) (h : HomeLine) : (s.setHomeLine l h).nextLaunch = s.nextLaunch := rfl
@[simp] theorem State.setHomeLine_nearQueue (s : State) (l : Nat) (h : HomeLine) : (s.setHomeLine l h).nearQueue = s.nearQueue := rfl
@[simp] theorem State.setHomeLine_lastCore (s : State) (l : Nat) (h : HomeLine) : (s.setHomeLine l h).lastCore = s.lastCore := rfl
@[simp] theorem State.setHomeLine_part (s : State) (l : Nat) (h : HomeLine) : (s.setHomeLine l h).part = s.part := rfl
@[simp] theorem State.setHomeLine_serial (s : State) (l : Nat) (h : HomeLine) : (s.setHomeLine l h).serial = s.serial := rfl
@[simp] theorem State.setHomeLine_bootstat (s : State) (l : Nat) (h : HomeLine) : (s.setHomeLine l h).bootstat = s.bootstat := rfl
@[simp] theorem State.setHomeLine_fenceHost (s : State) (l : Nat) (h : HomeLine) : (s.setHomeLine l h).fenceHost = s.fenceHost := rfl
@[simp] theorem State.setHomeLine_rmbreq (s : State) (l : Nat) (h : HomeLine) : (s.setHomeLine l h).rmbreq = s.rmbreq := rfl
@[simp] theorem State.setHomeLine_rmbrep (s : State) (l : Nat) (h : HomeLine) : (s.setHomeLine l h).rmbrep = s.rmbrep := rfl
@[simp] theorem State.setHomeLine_rmbstat (s : State) (l : Nat) (h : HomeLine) : (s.setHomeLine l h).rmbstat = s.rmbstat := rfl
@[simp] theorem State.setHomeLine_vectors (s : State) (l : Nat) (h : HomeLine) : (s.setHomeLine l h).vectors = s.vectors := rfl
@[simp] theorem State.setHomeLine_sysrec (s : State) (l : Nat) (h : HomeLine) : (s.setHomeLine l h).sysrec = s.sysrec := rfl
@[simp] theorem State.setHomeLine_sysrecN (s : State) (l : Nat) (h : HomeLine) : (s.setHomeLine l h).sysrecN = s.sysrecN := rfl
@[simp] theorem State.setHomeLine_corrected (s : State) (l : Nat) (h : HomeLine) : (s.setHomeLine l h).corrected = s.corrected := rfl
@[simp] theorem State.setHomeLine_sectorMode (s : State) (l : Nat) (h : HomeLine) : (s.setHomeLine l h).sectorMode = s.sectorMode := rfl
@[simp] theorem State.setHomeLine_throttled (s : State) (l : Nat) (h : HomeLine) : (s.setHomeLine l h).throttled = s.throttled := rfl
@[simp] theorem State.setHomeLine_clockOff (s : State) (l : Nat) (h : HomeLine) : (s.setHomeLine l h).clockOff = s.clockOff := rfl
@[simp] theorem State.setHomeLine_thermal (s : State) (l : Nat) (h : HomeLine) : (s.setHomeLine l h).thermal = s.thermal := rfl
@[simp] theorem State.setHomeLine_armed (s : State) (l : Nat) (h : HomeLine) : (s.setHomeLine l h).armed = s.armed := rfl
@[simp] theorem State.setHomeLine_device (s : State) (l : Nat) (h : HomeLine) : (s.setHomeLine l h).device = s.device := rfl
@[simp] theorem State.setHomeLine_peers (s : State) (l : Nat) (h : HomeLine) : (s.setHomeLine l h).peers = s.peers := rfl
@[simp] theorem State.setHomeLine_ports (s : State) (l : Nat) (h : HomeLine) : (s.setHomeLine l h).ports = s.ports := rfl
@[simp] theorem State.setHomeLine_routes (s : State) (l : Nat) (h : HomeLine) : (s.setHomeLine l h).routes = s.routes := rfl
@[simp] theorem State.setHomeLine_invSeqs (s : State) (l : Nat) (h : HomeLine) : (s.setHomeLine l h).invSeqs = s.invSeqs := rfl
@[simp] theorem State.setHomeLine_invReplies (s : State) (l : Nat) (h : HomeLine) : (s.setHomeLine l h).invReplies = s.invReplies := rfl
@[simp] theorem State.setHomeLine_views (s : State) (l : Nat) (h : HomeLine) : (s.setHomeLine l h).views = s.views := rfl
@[simp] theorem State.setHomeLine_nextView (s : State) (l : Nat) (h : HomeLine) : (s.setHomeLine l h).nextView = s.nextView := rfl
@[simp] theorem State.setHomeLine_gens (s : State) (l : Nat) (h : HomeLine) : (s.setHomeLine l h).gens = s.gens := rfl
@[simp] theorem State.setHomeLine_binq (s : State) (l : Nat) (h : HomeLine) : (s.setHomeLine l h).binq = s.binq := rfl
@[simp] theorem State.setHomeLine_fabricOut (s : State) (l : Nat) (h : HomeLine) : (s.setHomeLine l h).fabricOut = s.fabricOut := rfl
@[simp] theorem State.setHomeLine_fabricIn (s : State) (l : Nat) (h : HomeLine) : (s.setHomeLine l h).fabricIn = s.fabricIn := rfl
@[simp] theorem State.setHomeLine_hostReply (s : State) (l : Nat) (h : HomeLine) : (s.setHomeLine l h).hostReply = s.hostReply := rfl
@[simp] theorem State.setHomeLine_rmbDone (s : State) (l : Nat) (h : HomeLine) : (s.setHomeLine l h).rmbDone = s.rmbDone := rfl
@[simp] theorem State.setHomeLine_lastSync (s : State) (l : Nat) (h : HomeLine) : (s.setHomeLine l h).lastSync = s.lastSync := rfl
@[simp] theorem State.setHomeLine_sent (s : State) (l : Nat) (h : HomeLine) : (s.setHomeLine l h).sent = s.sent := rfl
@[simp] theorem State.setHomeLine_heads (s : State) (l : Nat) (h : HomeLine) : (s.setHomeLine l h).heads = s.heads := rfl
@[simp] theorem State.setHomeLine_focus (s : State) (l : Nat) (h : HomeLine) : (s.setHomeLine l h).focus = s.focus := rfl
@[simp] theorem State.setHomeLine_agenda (s : State) (l : Nat) (h : HomeLine) : (s.setHomeLine l h).agenda = s.agenda := rfl
@[simp] theorem State.setHomeLine_free (s : State) (l : Nat) (h : HomeLine) : (s.setHomeLine l h).free = s.free := rfl
@[simp] theorem State.setHomeLine_agentPts (s : State) (l : Nat) (h : HomeLine) : (s.setHomeLine l h).agentPts = s.agentPts := rfl
@[simp] theorem State.setHomeLine_engColl (s : State) (l : Nat) (h : HomeLine) : (s.setHomeLine l h).engColl = s.engColl := rfl
@[simp] theorem State.setHomeLine_atomicRouting (s : State) (l : Nat) (h : HomeLine) : (s.setHomeLine l h).atomicRouting = s.atomicRouting := rfl
@[simp] theorem State.setHomeLine_bootFault (s : State) (l : Nat) (h : HomeLine) : (s.setHomeLine l h).bootFault = s.bootFault := rfl
@[simp] theorem State.setHomeLine_svcQueues (s : State) (l : Nat) (h : HomeLine) : (s.setHomeLine l h).svcQueues = s.svcQueues := rfl
@[simp] theorem State.setHomeLine_holdFor (s : State) (l : Nat) (h : HomeLine) : (s.setHomeLine l h).holdFor = s.holdFor := rfl
@[simp] theorem State.setHomeLine_rmbSent (s : State) (l : Nat) (h : HomeLine) : (s.setHomeLine l h).rmbSent = s.rmbSent := rfl

/-! ### `Block.modTeam` -/

@[simp] theorem Block.modTeam_asid (x : Block) (t : Nat) (f : Team → Team) : (x.modTeam t f).asid = x.asid := rfl
@[simp] theorem Block.modTeam_suite (x : Block) (t : Nat) (f : Team → Team) : (x.modTeam t f).suite = x.suite := rfl
@[simp] theorem Block.modTeam_core (x : Block) (t : Nat) (f : Team → Team) : (x.modTeam t f).core = x.core := rfl
@[simp] theorem Block.modTeam_resident (x : Block) (t : Nat) (f : Team → Team) : (x.modTeam t f).resident = x.resident := rfl
@[simp] theorem Block.modTeam_service (x : Block) (t : Nat) (f : Team → Team) : (x.modTeam t f).service = x.service := rfl
@[simp] theorem Block.modTeam_regs (x : Block) (t : Nat) (f : Team → Team) : (x.modTeam t f).regs = x.regs := rfl
@[simp] theorem Block.modTeam_stashSize (x : Block) (t : Nat) (f : Team → Team) : (x.modTeam t f).stashSize = x.stashSize := rfl
@[simp] theorem Block.modTeam_lpsize (x : Block) (t : Nat) (f : Team → Team) : (x.modTeam t f).lpsize = x.lpsize := rfl
@[simp] theorem Block.modTeam_lpbase (x : Block) (t : Nat) (f : Team → Team) : (x.modTeam t f).lpbase = x.lpbase := rfl
@[simp] theorem Block.modTeam_trapvec (x : Block) (t : Nat) (f : Team → Team) : (x.modTeam t f).trapvec = x.trapvec := rfl
@[simp] theorem Block.modTeam_stashhash (x : Block) (t : Nat) (f : Team → Team) : (x.modTeam t f).stashhash = x.stashhash := rfl
@[simp] theorem Block.modTeam_bindex (x : Block) (t : Nat) (f : Team → Team) : (x.modTeam t f).bindex = x.bindex := rfl
@[simp] theorem Block.modTeam_stash (x : Block) (t : Nat) (f : Team → Team) : (x.modTeam t f).stash = x.stash := rfl
@[simp] theorem Block.modTeam_barriers (x : Block) (t : Nat) (f : Team → Team) : (x.modTeam t f).barriers = x.barriers := rfl
@[simp] theorem Block.modTeam_barOps (x : Block) (t : Nat) (f : Team → Team) : (x.modTeam t f).barOps = x.barOps := rfl
@[simp] theorem Block.modTeam_codebooks (x : Block) (t : Nat) (f : Team → Team) : (x.modTeam t f).codebooks = x.codebooks := rfl
@[simp] theorem Block.modTeam_maps (x : Block) (t : Nat) (f : Team → Team) : (x.modTeam t f).maps = x.maps := rfl
@[simp] theorem Block.modTeam_banks (x : Block) (t : Nat) (f : Team → Team) : (x.modTeam t f).banks = x.banks := rfl
@[simp] theorem Block.modTeam_watch0 (x : Block) (t : Nat) (f : Team → Team) : (x.modTeam t f).watch0 = x.watch0 := rfl
@[simp] theorem Block.modTeam_watch1 (x : Block) (t : Nat) (f : Team → Team) : (x.modTeam t f).watch1 = x.watch1 := rfl
@[simp] theorem Block.modTeam_watchctl (x : Block) (t : Nat) (f : Team → Team) : (x.modTeam t f).watchctl = x.watchctl := rfl
@[simp] theorem Block.modTeam_drain (x : Block) (t : Nat) (f : Team → Team) : (x.modTeam t f).drain = x.drain := rfl
@[simp] theorem Block.modTeam_mstat (x : Block) (t : Nat) (f : Team → Team) : (x.modTeam t f).mstat = x.mstat := rfl
@[simp] theorem Block.modTeam_hitch (x : Block) (t : Nat) (f : Team → Team) : (x.modTeam t f).hitch = x.hitch := rfl
@[simp] theorem Block.modTeam_windows (x : Block) (t : Nat) (f : Team → Team) : (x.modTeam t f).windows = x.windows := rfl
@[simp] theorem Block.modTeam_barOwed (x : Block) (t : Nat) (f : Team → Team) : (x.modTeam t f).barOwed = x.barOwed := rfl
@[simp] theorem Block.modTeam_votes (x : Block) (t : Nat) (f : Team → Team) : (x.modTeam t f).votes = x.votes := rfl
@[simp] theorem Block.modTeam_fmtWord (x : Block) (t : Nat) (f : Team → Team) : (x.modTeam t f).fmtWord = x.fmtWord := rfl
@[simp] theorem Block.modTeam_fork (x : Block) (t : Nat) (f : Team → Team) : (x.modTeam t f).fork = x.fork := rfl
@[simp] theorem Block.modTeam_forkRun (x : Block) (t : Nat) (f : Team → Team) : (x.modTeam t f).forkRun = x.forkRun := rfl
@[simp] theorem Block.modTeam_forkImage (x : Block) (t : Nat) (f : Team → Team) : (x.modTeam t f).forkImage = x.forkImage := rfl
@[simp] theorem Block.modTeam_mtx (x : Block) (t : Nat) (f : Team → Team) : (x.modTeam t f).mtx = x.mtx := rfl
@[simp] theorem Block.modTeam_chans (x : Block) (t : Nat) (f : Team → Team) : (x.modTeam t f).chans = x.chans := rfl
@[simp] theorem Block.modTeam_layouts (x : Block) (t : Nat) (f : Team → Team) : (x.modTeam t f).layouts = x.layouts := rfl
@[simp] theorem Block.modTeam_rings (x : Block) (t : Nat) (f : Team → Team) : (x.modTeam t f).rings = x.rings := rfl
@[simp] theorem Block.modTeam_stamps (x : Block) (t : Nat) (f : Team → Team) : (x.modTeam t f).stamps = x.stamps := rfl
@[simp] theorem Block.modTeam_launch (x : Block) (t : Nat) (f : Team → Team) : (x.modTeam t f).launch = x.launch := rfl
@[simp] theorem Block.modTeam_blocks (x : Block) (t : Nat) (f : Team → Team) : (x.modTeam t f).blocks = x.blocks := rfl
@[simp] theorem Block.modTeam_kernel (x : Block) (t : Nat) (f : Team → Team) : (x.modTeam t f).kernel = x.kernel := rfl
@[simp] theorem Block.modTeam_frameCrit (x : Block) (t : Nat) (f : Team → Team) : (x.modTeam t f).frameCrit = x.frameCrit := rfl
@[simp] theorem Block.modTeam_meshCheck (x : Block) (t : Nat) (f : Team → Team) : (x.modTeam t f).meshCheck = x.meshCheck := rfl
@[simp] theorem Block.modTeam_lrec (x : Block) (t : Nat) (f : Team → Team) : (x.modTeam t f).lrec = x.lrec := rfl
@[simp] theorem Block.modTeam_refs (x : Block) (t : Nat) (f : Team → Team) : (x.modTeam t f).refs = x.refs := rfl
@[simp] theorem Block.modTeam_usesMtx (x : Block) (t : Nat) (f : Team → Team) : (x.modTeam t f).usesMtx = x.usesMtx := rfl
@[simp] theorem Block.modTeam_faulted (x : Block) (t : Nat) (f : Team → Team) : (x.modTeam t f).faulted = x.faulted := rfl
@[simp] theorem Block.modTeam_declined (x : Block) (t : Nat) (f : Team → Team) : (x.modTeam t f).declined = x.declined := rfl
@[simp] theorem Block.modTeam_frameNo (x : Block) (t : Nat) (f : Team → Team) : (x.modTeam t f).frameNo = x.frameNo := rfl
@[simp] theorem Block.modTeam_saving (x : Block) (t : Nat) (f : Team → Team) : (x.modTeam t f).saving = x.saving := rfl
@[simp] theorem Block.modTeam_saved (x : Block) (t : Nat) (f : Team → Team) : (x.modTeam t f).saved = x.saved := rfl
@[simp] theorem Block.modTeam_frameAsid (x : Block) (t : Nat) (f : Team → Team) : (x.modTeam t f).frameAsid = x.frameAsid := rfl
@[simp] theorem Block.modTeam_forced (x : Block) (t : Nat) (f : Team → Team) : (x.modTeam t f).forced = x.forced := rfl
@[simp] theorem Block.modTeam_savedAt (x : Block) (t : Nat) (f : Team → Team) : (x.modTeam t f).savedAt = x.savedAt := rfl
@[simp] theorem Block.modTeam_parked (x : Block) (t : Nat) (f : Team → Team) : (x.modTeam t f).parked = x.parked := rfl
@[simp] theorem Block.modTeam_killed (x : Block) (t : Nat) (f : Team → Team) : (x.modTeam t f).killed = x.killed := rfl
@[simp] theorem Block.modTeam_persistent (x : Block) (t : Nat) (f : Team → Team) : (x.modTeam t f).persistent = x.persistent := rfl

/-! ### `Team.setV` -/

@[simp] theorem Team.setV_slot (m : Team) (r l : Nat) (w : Word) : (m.setV r l w).slot = m.slot := rfl
@[simp] theorem Team.setV_sregs (m : Team) (r l : Nat) (w : Word) : (m.setV r l w).sregs = m.sregs := rfl
@[simp] theorem Team.setV_preds (m : Team) (r l : Nat) (w : Word) : (m.setV r l w).preds = m.preds := rfl
@[simp] theorem Team.setV_joins (m : Team) (r l : Nat) (w : Word) : (m.setV r l w).joins = m.joins := rfl
@[simp] theorem Team.setV_frontier (m : Team) (r l : Nat) (w : Word) : (m.setV r l w).frontier = m.frontier := rfl
@[simp] theorem Team.setV_kept (m : Team) (r l : Nat) (w : Word) : (m.setV r l w).kept = m.kept := rfl
@[simp] theorem Team.setV_clause (m : Team) (r l : Nat) (w : Word) : (m.setV r l w).clause = m.clause := rfl
@[simp] theorem Team.setV_retired (m : Team) (r l : Nat) (w : Word) : (m.setV r l w).retired = m.retired := rfl
@[simp] theorem Team.setV_done (m : Team) (r l : Nat) (w : Word) : (m.setV r l w).done = m.done := rfl
@[simp] theorem Team.setV_tags (m : Team) (r l : Nat) (w : Word) : (m.setV r l w).tags = m.tags := rfl
@[simp] theorem Team.setV_ops (m : Team) (r l : Nat) (w : Word) : (m.setV r l w).ops = m.ops := rfl
@[simp] theorem Team.setV_nextOp (m : Team) (r l : Nat) (w : Word) : (m.setV r l w).nextOp = m.nextOp := rfl
@[simp] theorem Team.setV_fmode (m : Team) (r l : Nat) (w : Word) : (m.setV r l w).fmode = m.fmode := rfl
@[simp] theorem Team.setV_rng (m : Team) (r l : Nat) (w : Word) : (m.setV r l w).rng = m.rng := rfl
@[simp] theorem Team.setV_depth (m : Team) (r l : Nat) (w : Word) : (m.setV r l w).depth = m.depth := rfl
@[simp] theorem Team.setV_lpTouched (m : Team) (r l : Nat) (w : Word) : (m.setV r l w).lpTouched = m.lpTouched := rfl
@[simp] theorem Team.setV_lpData (m : Team) (r l : Nat) (w : Word) : (m.setV r l w).lpData = m.lpData := rfl
@[simp] theorem Team.setV_lanePages (m : Team) (r l : Nat) (w : Word) : (m.setV r l w).lanePages = m.lanePages := rfl
@[simp] theorem Team.setV_armed (m : Team) (r l : Nat) (w : Word) : (m.setV r l w).armed = m.armed := rfl
@[simp] theorem Team.setV_seen (m : Team) (r l : Nat) (w : Word) : (m.setV r l w).seen = m.seen := rfl
@[simp] theorem Team.setV_arrivedAt (m : Team) (r l : Nat) (w : Word) : (m.setV r l w).arrivedAt = m.arrivedAt := rfl
@[simp] theorem Team.setV_context (m : Team) (r l : Nat) (w : Word) : (m.setV r l w).context = m.context := rfl
@[simp] theorem Team.setV_recorded (m : Team) (r l : Nat) (w : Word) : (m.setV r l w).recorded = m.recorded := rfl
@[simp] theorem Team.setV_trapcode (m : Team) (r l : Nat) (w : Word) : (m.setV r l w).trapcode = m.trapcode := rfl
@[simp] theorem Team.setV_trappc (m : Team) (r l : Nat) (w : Word) : (m.setV r l w).trappc = m.trappc := rfl
@[simp] theorem Team.setV_trapaddr (m : Team) (r l : Nat) (w : Word) : (m.setV r l w).trapaddr = m.trapaddr := rfl
@[simp] theorem Team.setV_trapresume (m : Team) (r l : Nat) (w : Word) : (m.setV r l w).trapresume = m.trapresume := rfl
@[simp] theorem Team.setV_rejoinlost (m : Team) (r l : Nat) (w : Word) : (m.setV r l w).rejoinlost = m.rejoinlost := rfl
@[simp] theorem Team.setV_vblayout (m : Team) (r l : Nat) (w : Word) : (m.setV r l w).vblayout = m.vblayout := rfl
@[simp] theorem Team.setV_view (m : Team) (r l : Nat) (w : Word) : (m.setV r l w).view = m.view := rfl
@[simp] theorem Team.setV_stall (m : Team) (r l : Nat) (w : Word) : (m.setV r l w).stall = m.stall := rfl
@[simp] theorem Team.setV_haltPending (m : Team) (r l : Nat) (w : Word) : (m.setV r l w).haltPending = m.haltPending := rfl
@[simp] theorem Team.setV_halted (m : Team) (r l : Nat) (w : Word) : (m.setV r l w).halted = m.halted := rfl
@[simp] theorem Team.setV_delayed (m : Team) (r l : Nat) (w : Word) : (m.setV r l w).delayed = m.delayed := rfl
@[simp] theorem Team.setV_txs (m : Team) (r l : Nat) (w : Word) : (m.setV r l w).txs = m.txs := rfl
@[simp] theorem Team.setV_txstat (m : Team) (r l : Nat) (w : Word) : (m.setV r l w).txstat = m.txstat := rfl
@[simp] theorem Team.setV_lastIssue (m : Team) (r l : Nat) (w : Word) : (m.setV r l w).lastIssue = m.lastIssue := rfl
@[simp] theorem Team.setV_count (m : Team) (r l : Nat) (w : Word) : (m.setV r l w).count = m.count := rfl
@[simp] theorem Team.setV_prev (m : Team) (r l : Nat) (w : Word) : (m.setV r l w).prev = m.prev := rfl
@[simp] theorem Team.setV_jobs (m : Team) (r l : Nat) (w : Word) : (m.setV r l w).jobs = m.jobs := rfl
@[simp] theorem Team.setV_joined (m : Team) (r l : Nat) (w : Word) : (m.setV r l w).joined = m.joined := rfl
@[simp] theorem Team.setV_barSince (m : Team) (r l : Nat) (w : Word) : (m.setV r l w).barSince = m.barSince := rfl
@[simp] theorem Team.setV_batch (m : Team) (r l : Nat) (w : Word) : (m.setV r l w).batch = m.batch := rfl
@[simp] theorem Team.setV_opened (m : Team) (r l : Nat) (w : Word) : (m.setV r l w).opened = m.opened := rfl
@[simp] theorem Team.setV_counted (m : Team) (r l : Nat) (w : Word) : (m.setV r l w).counted = m.counted := rfl
@[simp] theorem Team.setV_waitedFrom (m : Team) (r l : Nat) (w : Word) : (m.setV r l w).waitedFrom = m.waitedFrom := rfl
@[simp] theorem Team.setV_vecUnread (m : Team) (r l : Nat) (w : Word) : (m.setV r l w).vecUnread = m.vecUnread := rfl

/-! ### `Team.setS` -/

@[simp] theorem Team.setS_slot (m : Team) (r : Nat) (w : Word) : (m.setS r w).slot = m.slot := rfl
@[simp] theorem Team.setS_vregs (m : Team) (r : Nat) (w : Word) : (m.setS r w).vregs = m.vregs := rfl
@[simp] theorem Team.setS_preds (m : Team) (r : Nat) (w : Word) : (m.setS r w).preds = m.preds := rfl
@[simp] theorem Team.setS_joins (m : Team) (r : Nat) (w : Word) : (m.setS r w).joins = m.joins := rfl
@[simp] theorem Team.setS_frontier (m : Team) (r : Nat) (w : Word) : (m.setS r w).frontier = m.frontier := rfl
@[simp] theorem Team.setS_kept (m : Team) (r : Nat) (w : Word) : (m.setS r w).kept = m.kept := rfl
@[simp] theorem Team.setS_clause (m : Team) (r : Nat) (w : Word) : (m.setS r w).clause = m.clause := rfl
@[simp] theorem Team.setS_retired (m : Team) (r : Nat) (w : Word) : (m.setS r w).retired = m.retired := rfl
@[simp] theorem Team.setS_done (m : Team) (r : Nat) (w : Word) : (m.setS r w).done = m.done := rfl
@[simp] theorem Team.setS_tags (m : Team) (r : Nat) (w : Word) : (m.setS r w).tags = m.tags := rfl
@[simp] theorem Team.setS_ops (m : Team) (r : Nat) (w : Word) : (m.setS r w).ops = m.ops := rfl
@[simp] theorem Team.setS_nextOp (m : Team) (r : Nat) (w : Word) : (m.setS r w).nextOp = m.nextOp := rfl
@[simp] theorem Team.setS_fmode (m : Team) (r : Nat) (w : Word) : (m.setS r w).fmode = m.fmode := rfl
@[simp] theorem Team.setS_rng (m : Team) (r : Nat) (w : Word) : (m.setS r w).rng = m.rng := rfl
@[simp] theorem Team.setS_depth (m : Team) (r : Nat) (w : Word) : (m.setS r w).depth = m.depth := rfl
@[simp] theorem Team.setS_lpTouched (m : Team) (r : Nat) (w : Word) : (m.setS r w).lpTouched = m.lpTouched := rfl
@[simp] theorem Team.setS_lpData (m : Team) (r : Nat) (w : Word) : (m.setS r w).lpData = m.lpData := rfl
@[simp] theorem Team.setS_lanePages (m : Team) (r : Nat) (w : Word) : (m.setS r w).lanePages = m.lanePages := rfl
@[simp] theorem Team.setS_armed (m : Team) (r : Nat) (w : Word) : (m.setS r w).armed = m.armed := rfl
@[simp] theorem Team.setS_seen (m : Team) (r : Nat) (w : Word) : (m.setS r w).seen = m.seen := rfl
@[simp] theorem Team.setS_arrivedAt (m : Team) (r : Nat) (w : Word) : (m.setS r w).arrivedAt = m.arrivedAt := rfl
@[simp] theorem Team.setS_context (m : Team) (r : Nat) (w : Word) : (m.setS r w).context = m.context := rfl
@[simp] theorem Team.setS_recorded (m : Team) (r : Nat) (w : Word) : (m.setS r w).recorded = m.recorded := rfl
@[simp] theorem Team.setS_trapcode (m : Team) (r : Nat) (w : Word) : (m.setS r w).trapcode = m.trapcode := rfl
@[simp] theorem Team.setS_trappc (m : Team) (r : Nat) (w : Word) : (m.setS r w).trappc = m.trappc := rfl
@[simp] theorem Team.setS_trapaddr (m : Team) (r : Nat) (w : Word) : (m.setS r w).trapaddr = m.trapaddr := rfl
@[simp] theorem Team.setS_trapresume (m : Team) (r : Nat) (w : Word) : (m.setS r w).trapresume = m.trapresume := rfl
@[simp] theorem Team.setS_rejoinlost (m : Team) (r : Nat) (w : Word) : (m.setS r w).rejoinlost = m.rejoinlost := rfl
@[simp] theorem Team.setS_vblayout (m : Team) (r : Nat) (w : Word) : (m.setS r w).vblayout = m.vblayout := rfl
@[simp] theorem Team.setS_view (m : Team) (r : Nat) (w : Word) : (m.setS r w).view = m.view := rfl
@[simp] theorem Team.setS_stall (m : Team) (r : Nat) (w : Word) : (m.setS r w).stall = m.stall := rfl
@[simp] theorem Team.setS_haltPending (m : Team) (r : Nat) (w : Word) : (m.setS r w).haltPending = m.haltPending := rfl
@[simp] theorem Team.setS_halted (m : Team) (r : Nat) (w : Word) : (m.setS r w).halted = m.halted := rfl
@[simp] theorem Team.setS_delayed (m : Team) (r : Nat) (w : Word) : (m.setS r w).delayed = m.delayed := rfl
@[simp] theorem Team.setS_txs (m : Team) (r : Nat) (w : Word) : (m.setS r w).txs = m.txs := rfl
@[simp] theorem Team.setS_txstat (m : Team) (r : Nat) (w : Word) : (m.setS r w).txstat = m.txstat := rfl
@[simp] theorem Team.setS_lastIssue (m : Team) (r : Nat) (w : Word) : (m.setS r w).lastIssue = m.lastIssue := rfl
@[simp] theorem Team.setS_count (m : Team) (r : Nat) (w : Word) : (m.setS r w).count = m.count := rfl
@[simp] theorem Team.setS_prev (m : Team) (r : Nat) (w : Word) : (m.setS r w).prev = m.prev := rfl
@[simp] theorem Team.setS_jobs (m : Team) (r : Nat) (w : Word) : (m.setS r w).jobs = m.jobs := rfl
@[simp] theorem Team.setS_joined (m : Team) (r : Nat) (w : Word) : (m.setS r w).joined = m.joined := rfl
@[simp] theorem Team.setS_barSince (m : Team) (r : Nat) (w : Word) : (m.setS r w).barSince = m.barSince := rfl
@[simp] theorem Team.setS_batch (m : Team) (r : Nat) (w : Word) : (m.setS r w).batch = m.batch := rfl
@[simp] theorem Team.setS_opened (m : Team) (r : Nat) (w : Word) : (m.setS r w).opened = m.opened := rfl
@[simp] theorem Team.setS_counted (m : Team) (r : Nat) (w : Word) : (m.setS r w).counted = m.counted := rfl
@[simp] theorem Team.setS_waitedFrom (m : Team) (r : Nat) (w : Word) : (m.setS r w).waitedFrom = m.waitedFrom := rfl
@[simp] theorem Team.setS_vecUnread (m : Team) (r : Nat) (w : Word) : (m.setS r w).vecUnread = m.vecUnread := rfl

/-! ### `Team.setP` -/

@[simp] theorem Team.setP_slot (m : Team) (n : Nat) (p : Half) : (m.setP n p).slot = m.slot := rfl
@[simp] theorem Team.setP_sregs (m : Team) (n : Nat) (p : Half) : (m.setP n p).sregs = m.sregs := rfl
@[simp] theorem Team.setP_vregs (m : Team) (n : Nat) (p : Half) : (m.setP n p).vregs = m.vregs := rfl
@[simp] theorem Team.setP_joins (m : Team) (n : Nat) (p : Half) : (m.setP n p).joins = m.joins := rfl
@[simp] theorem Team.setP_frontier (m : Team) (n : Nat) (p : Half) : (m.setP n p).frontier = m.frontier := rfl
@[simp] theorem Team.setP_kept (m : Team) (n : Nat) (p : Half) : (m.setP n p).kept = m.kept := rfl
@[simp] theorem Team.setP_clause (m : Team) (n : Nat) (p : Half) : (m.setP n p).clause = m.clause := rfl
@[simp] theorem Team.setP_retired (m : Team) (n : Nat) (p : Half) : (m.setP n p).retired = m.retired := rfl
@[simp] theorem Team.setP_done (m : Team) (n : Nat) (p : Half) : (m.setP n p).done = m.done := rfl
@[simp] theorem Team.setP_tags (m : Team) (n : Nat) (p : Half) : (m.setP n p).tags = m.tags := rfl
@[simp] theorem Team.setP_ops (m : Team) (n : Nat) (p : Half) : (m.setP n p).ops = m.ops := rfl
@[simp] theorem Team.setP_nextOp (m : Team) (n : Nat) (p : Half) : (m.setP n p).nextOp = m.nextOp := rfl
@[simp] theorem Team.setP_fmode (m : Team) (n : Nat) (p : Half) : (m.setP n p).fmode = m.fmode := rfl
@[simp] theorem Team.setP_rng (m : Team) (n : Nat) (p : Half) : (m.setP n p).rng = m.rng := rfl
@[simp] theorem Team.setP_depth (m : Team) (n : Nat) (p : Half) : (m.setP n p).depth = m.depth := rfl
@[simp] theorem Team.setP_lpTouched (m : Team) (n : Nat) (p : Half) : (m.setP n p).lpTouched = m.lpTouched := rfl
@[simp] theorem Team.setP_lpData (m : Team) (n : Nat) (p : Half) : (m.setP n p).lpData = m.lpData := rfl
@[simp] theorem Team.setP_lanePages (m : Team) (n : Nat) (p : Half) : (m.setP n p).lanePages = m.lanePages := rfl
@[simp] theorem Team.setP_armed (m : Team) (n : Nat) (p : Half) : (m.setP n p).armed = m.armed := rfl
@[simp] theorem Team.setP_seen (m : Team) (n : Nat) (p : Half) : (m.setP n p).seen = m.seen := rfl
@[simp] theorem Team.setP_arrivedAt (m : Team) (n : Nat) (p : Half) : (m.setP n p).arrivedAt = m.arrivedAt := rfl
@[simp] theorem Team.setP_context (m : Team) (n : Nat) (p : Half) : (m.setP n p).context = m.context := rfl
@[simp] theorem Team.setP_recorded (m : Team) (n : Nat) (p : Half) : (m.setP n p).recorded = m.recorded := rfl
@[simp] theorem Team.setP_trapcode (m : Team) (n : Nat) (p : Half) : (m.setP n p).trapcode = m.trapcode := rfl
@[simp] theorem Team.setP_trappc (m : Team) (n : Nat) (p : Half) : (m.setP n p).trappc = m.trappc := rfl
@[simp] theorem Team.setP_trapaddr (m : Team) (n : Nat) (p : Half) : (m.setP n p).trapaddr = m.trapaddr := rfl
@[simp] theorem Team.setP_trapresume (m : Team) (n : Nat) (p : Half) : (m.setP n p).trapresume = m.trapresume := rfl
@[simp] theorem Team.setP_rejoinlost (m : Team) (n : Nat) (p : Half) : (m.setP n p).rejoinlost = m.rejoinlost := rfl
@[simp] theorem Team.setP_vblayout (m : Team) (n : Nat) (p : Half) : (m.setP n p).vblayout = m.vblayout := rfl
@[simp] theorem Team.setP_view (m : Team) (n : Nat) (p : Half) : (m.setP n p).view = m.view := rfl
@[simp] theorem Team.setP_stall (m : Team) (n : Nat) (p : Half) : (m.setP n p).stall = m.stall := rfl
@[simp] theorem Team.setP_haltPending (m : Team) (n : Nat) (p : Half) : (m.setP n p).haltPending = m.haltPending := rfl
@[simp] theorem Team.setP_halted (m : Team) (n : Nat) (p : Half) : (m.setP n p).halted = m.halted := rfl
@[simp] theorem Team.setP_delayed (m : Team) (n : Nat) (p : Half) : (m.setP n p).delayed = m.delayed := rfl
@[simp] theorem Team.setP_txs (m : Team) (n : Nat) (p : Half) : (m.setP n p).txs = m.txs := rfl
@[simp] theorem Team.setP_txstat (m : Team) (n : Nat) (p : Half) : (m.setP n p).txstat = m.txstat := rfl
@[simp] theorem Team.setP_lastIssue (m : Team) (n : Nat) (p : Half) : (m.setP n p).lastIssue = m.lastIssue := rfl
@[simp] theorem Team.setP_count (m : Team) (n : Nat) (p : Half) : (m.setP n p).count = m.count := rfl
@[simp] theorem Team.setP_prev (m : Team) (n : Nat) (p : Half) : (m.setP n p).prev = m.prev := rfl
@[simp] theorem Team.setP_jobs (m : Team) (n : Nat) (p : Half) : (m.setP n p).jobs = m.jobs := rfl
@[simp] theorem Team.setP_joined (m : Team) (n : Nat) (p : Half) : (m.setP n p).joined = m.joined := rfl
@[simp] theorem Team.setP_barSince (m : Team) (n : Nat) (p : Half) : (m.setP n p).barSince = m.barSince := rfl
@[simp] theorem Team.setP_batch (m : Team) (n : Nat) (p : Half) : (m.setP n p).batch = m.batch := rfl
@[simp] theorem Team.setP_opened (m : Team) (n : Nat) (p : Half) : (m.setP n p).opened = m.opened := rfl
@[simp] theorem Team.setP_counted (m : Team) (n : Nat) (p : Half) : (m.setP n p).counted = m.counted := rfl
@[simp] theorem Team.setP_waitedFrom (m : Team) (n : Nat) (p : Half) : (m.setP n p).waitedFrom = m.waitedFrom := rfl
@[simp] theorem Team.setP_vecUnread (m : Team) (n : Nat) (p : Half) : (m.setP n p).vecUnread = m.vecUnread := rfl

/-! ### `Team.setTags` -/

@[simp] theorem Team.setTags_slot (m : Team) (ks : List Nat) (g : Tag) : (m.setTags ks g).slot = m.slot := rfl
@[simp] theorem Team.setTags_sregs (m : Team) (ks : List Nat) (g : Tag) : (m.setTags ks g).sregs = m.sregs := rfl
@[simp] theorem Team.setTags_vregs (m : Team) (ks : List Nat) (g : Tag) : (m.setTags ks g).vregs = m.vregs := rfl
@[simp] theorem Team.setTags_preds (m : Team) (ks : List Nat) (g : Tag) : (m.setTags ks g).preds = m.preds := rfl
@[simp] theorem Team.setTags_joins (m : Team) (ks : List Nat) (g : Tag) : (m.setTags ks g).joins = m.joins := rfl
@[simp] theorem Team.setTags_frontier (m : Team) (ks : List Nat) (g : Tag) : (m.setTags ks g).frontier = m.frontier := rfl
@[simp] theorem Team.setTags_kept (m : Team) (ks : List Nat) (g : Tag) : (m.setTags ks g).kept = m.kept := rfl
@[simp] theorem Team.setTags_clause (m : Team) (ks : List Nat) (g : Tag) : (m.setTags ks g).clause = m.clause := rfl
@[simp] theorem Team.setTags_retired (m : Team) (ks : List Nat) (g : Tag) : (m.setTags ks g).retired = m.retired := rfl
@[simp] theorem Team.setTags_done (m : Team) (ks : List Nat) (g : Tag) : (m.setTags ks g).done = m.done := rfl
@[simp] theorem Team.setTags_ops (m : Team) (ks : List Nat) (g : Tag) : (m.setTags ks g).ops = m.ops := rfl
@[simp] theorem Team.setTags_nextOp (m : Team) (ks : List Nat) (g : Tag) : (m.setTags ks g).nextOp = m.nextOp := rfl
@[simp] theorem Team.setTags_fmode (m : Team) (ks : List Nat) (g : Tag) : (m.setTags ks g).fmode = m.fmode := rfl
@[simp] theorem Team.setTags_rng (m : Team) (ks : List Nat) (g : Tag) : (m.setTags ks g).rng = m.rng := rfl
@[simp] theorem Team.setTags_depth (m : Team) (ks : List Nat) (g : Tag) : (m.setTags ks g).depth = m.depth := rfl
@[simp] theorem Team.setTags_lpTouched (m : Team) (ks : List Nat) (g : Tag) : (m.setTags ks g).lpTouched = m.lpTouched := rfl
@[simp] theorem Team.setTags_lpData (m : Team) (ks : List Nat) (g : Tag) : (m.setTags ks g).lpData = m.lpData := rfl
@[simp] theorem Team.setTags_lanePages (m : Team) (ks : List Nat) (g : Tag) : (m.setTags ks g).lanePages = m.lanePages := rfl
@[simp] theorem Team.setTags_armed (m : Team) (ks : List Nat) (g : Tag) : (m.setTags ks g).armed = m.armed := rfl
@[simp] theorem Team.setTags_seen (m : Team) (ks : List Nat) (g : Tag) : (m.setTags ks g).seen = m.seen := rfl
@[simp] theorem Team.setTags_arrivedAt (m : Team) (ks : List Nat) (g : Tag) : (m.setTags ks g).arrivedAt = m.arrivedAt := rfl
@[simp] theorem Team.setTags_context (m : Team) (ks : List Nat) (g : Tag) : (m.setTags ks g).context = m.context := rfl
@[simp] theorem Team.setTags_recorded (m : Team) (ks : List Nat) (g : Tag) : (m.setTags ks g).recorded = m.recorded := rfl
@[simp] theorem Team.setTags_trapcode (m : Team) (ks : List Nat) (g : Tag) : (m.setTags ks g).trapcode = m.trapcode := rfl
@[simp] theorem Team.setTags_trappc (m : Team) (ks : List Nat) (g : Tag) : (m.setTags ks g).trappc = m.trappc := rfl
@[simp] theorem Team.setTags_trapaddr (m : Team) (ks : List Nat) (g : Tag) : (m.setTags ks g).trapaddr = m.trapaddr := rfl
@[simp] theorem Team.setTags_trapresume (m : Team) (ks : List Nat) (g : Tag) : (m.setTags ks g).trapresume = m.trapresume := rfl
@[simp] theorem Team.setTags_rejoinlost (m : Team) (ks : List Nat) (g : Tag) : (m.setTags ks g).rejoinlost = m.rejoinlost := rfl
@[simp] theorem Team.setTags_vblayout (m : Team) (ks : List Nat) (g : Tag) : (m.setTags ks g).vblayout = m.vblayout := rfl
@[simp] theorem Team.setTags_view (m : Team) (ks : List Nat) (g : Tag) : (m.setTags ks g).view = m.view := rfl
@[simp] theorem Team.setTags_stall (m : Team) (ks : List Nat) (g : Tag) : (m.setTags ks g).stall = m.stall := rfl
@[simp] theorem Team.setTags_haltPending (m : Team) (ks : List Nat) (g : Tag) : (m.setTags ks g).haltPending = m.haltPending := rfl
@[simp] theorem Team.setTags_halted (m : Team) (ks : List Nat) (g : Tag) : (m.setTags ks g).halted = m.halted := rfl
@[simp] theorem Team.setTags_delayed (m : Team) (ks : List Nat) (g : Tag) : (m.setTags ks g).delayed = m.delayed := rfl
@[simp] theorem Team.setTags_txs (m : Team) (ks : List Nat) (g : Tag) : (m.setTags ks g).txs = m.txs := rfl
@[simp] theorem Team.setTags_txstat (m : Team) (ks : List Nat) (g : Tag) : (m.setTags ks g).txstat = m.txstat := rfl
@[simp] theorem Team.setTags_lastIssue (m : Team) (ks : List Nat) (g : Tag) : (m.setTags ks g).lastIssue = m.lastIssue := rfl
@[simp] theorem Team.setTags_count (m : Team) (ks : List Nat) (g : Tag) : (m.setTags ks g).count = m.count := rfl
@[simp] theorem Team.setTags_prev (m : Team) (ks : List Nat) (g : Tag) : (m.setTags ks g).prev = m.prev := rfl
@[simp] theorem Team.setTags_jobs (m : Team) (ks : List Nat) (g : Tag) : (m.setTags ks g).jobs = m.jobs := rfl
@[simp] theorem Team.setTags_joined (m : Team) (ks : List Nat) (g : Tag) : (m.setTags ks g).joined = m.joined := rfl
@[simp] theorem Team.setTags_barSince (m : Team) (ks : List Nat) (g : Tag) : (m.setTags ks g).barSince = m.barSince := rfl
@[simp] theorem Team.setTags_batch (m : Team) (ks : List Nat) (g : Tag) : (m.setTags ks g).batch = m.batch := rfl
@[simp] theorem Team.setTags_opened (m : Team) (ks : List Nat) (g : Tag) : (m.setTags ks g).opened = m.opened := rfl
@[simp] theorem Team.setTags_counted (m : Team) (ks : List Nat) (g : Tag) : (m.setTags ks g).counted = m.counted := rfl
@[simp] theorem Team.setTags_waitedFrom (m : Team) (ks : List Nat) (g : Tag) : (m.setTags ks g).waitedFrom = m.waitedFrom := rfl
@[simp] theorem Team.setTags_vecUnread (m : Team) (ks : List Nat) (g : Tag) : (m.setTags ks g).vecUnread = m.vecUnread := rfl

/-! ### `Team.begin` -/

@[simp] theorem Team.begin_slot (m : Team) (n : Nat) : (m.begin n).slot = m.slot := rfl
@[simp] theorem Team.begin_stall (m : Team) (n : Nat) : (m.begin n).stall = none := rfl
@[simp] theorem Team.begin_lastIssue (m : Team) (n : Nat) : (m.begin n).lastIssue = n := rfl
@[simp] theorem Team.begin_waitedFrom (m : Team) (n : Nat) : (m.begin n).waitedFrom = m.lastIssue := rfl
@[simp] theorem Team.begin_sregs (m : Team) (n : Nat) : (m.begin n).sregs = m.sregs := rfl
@[simp] theorem Team.begin_vregs (m : Team) (n : Nat) : (m.begin n).vregs = m.vregs := rfl
@[simp] theorem Team.begin_preds (m : Team) (n : Nat) : (m.begin n).preds = m.preds := rfl
@[simp] theorem Team.begin_joins (m : Team) (n : Nat) : (m.begin n).joins = m.joins := rfl
@[simp] theorem Team.begin_frontier (m : Team) (n : Nat) : (m.begin n).frontier = m.frontier := rfl
@[simp] theorem Team.begin_kept (m : Team) (n : Nat) : (m.begin n).kept = m.kept := rfl
@[simp] theorem Team.begin_clause (m : Team) (n : Nat) : (m.begin n).clause = m.clause := rfl
@[simp] theorem Team.begin_retired (m : Team) (n : Nat) : (m.begin n).retired = m.retired := rfl
@[simp] theorem Team.begin_done (m : Team) (n : Nat) : (m.begin n).done = m.done := rfl
@[simp] theorem Team.begin_tags (m : Team) (n : Nat) : (m.begin n).tags = m.tags := rfl
@[simp] theorem Team.begin_ops (m : Team) (n : Nat) : (m.begin n).ops = m.ops := rfl
@[simp] theorem Team.begin_nextOp (m : Team) (n : Nat) : (m.begin n).nextOp = m.nextOp := rfl
@[simp] theorem Team.begin_fmode (m : Team) (n : Nat) : (m.begin n).fmode = m.fmode := rfl
@[simp] theorem Team.begin_rng (m : Team) (n : Nat) : (m.begin n).rng = m.rng := rfl
@[simp] theorem Team.begin_depth (m : Team) (n : Nat) : (m.begin n).depth = m.depth := rfl
@[simp] theorem Team.begin_lpTouched (m : Team) (n : Nat) : (m.begin n).lpTouched = m.lpTouched := rfl
@[simp] theorem Team.begin_lpData (m : Team) (n : Nat) : (m.begin n).lpData = m.lpData := rfl
@[simp] theorem Team.begin_lanePages (m : Team) (n : Nat) : (m.begin n).lanePages = m.lanePages := rfl
@[simp] theorem Team.begin_armed (m : Team) (n : Nat) : (m.begin n).armed = m.armed := rfl
@[simp] theorem Team.begin_seen (m : Team) (n : Nat) : (m.begin n).seen = m.seen := rfl
@[simp] theorem Team.begin_arrivedAt (m : Team) (n : Nat) : (m.begin n).arrivedAt = m.arrivedAt := rfl
@[simp] theorem Team.begin_context (m : Team) (n : Nat) : (m.begin n).context = m.context := rfl
@[simp] theorem Team.begin_recorded (m : Team) (n : Nat) : (m.begin n).recorded = m.recorded := rfl
@[simp] theorem Team.begin_trapcode (m : Team) (n : Nat) : (m.begin n).trapcode = m.trapcode := rfl
@[simp] theorem Team.begin_trappc (m : Team) (n : Nat) : (m.begin n).trappc = m.trappc := rfl
@[simp] theorem Team.begin_trapaddr (m : Team) (n : Nat) : (m.begin n).trapaddr = m.trapaddr := rfl
@[simp] theorem Team.begin_trapresume (m : Team) (n : Nat) : (m.begin n).trapresume = m.trapresume := rfl
@[simp] theorem Team.begin_rejoinlost (m : Team) (n : Nat) : (m.begin n).rejoinlost = m.rejoinlost := rfl
@[simp] theorem Team.begin_vblayout (m : Team) (n : Nat) : (m.begin n).vblayout = m.vblayout := rfl
@[simp] theorem Team.begin_view (m : Team) (n : Nat) : (m.begin n).view = m.view := rfl
@[simp] theorem Team.begin_haltPending (m : Team) (n : Nat) : (m.begin n).haltPending = m.haltPending := rfl
@[simp] theorem Team.begin_halted (m : Team) (n : Nat) : (m.begin n).halted = m.halted := rfl
@[simp] theorem Team.begin_delayed (m : Team) (n : Nat) : (m.begin n).delayed = m.delayed := rfl
@[simp] theorem Team.begin_txs (m : Team) (n : Nat) : (m.begin n).txs = m.txs := rfl
@[simp] theorem Team.begin_txstat (m : Team) (n : Nat) : (m.begin n).txstat = m.txstat := rfl
@[simp] theorem Team.begin_count (m : Team) (n : Nat) : (m.begin n).count = m.count := rfl
@[simp] theorem Team.begin_prev (m : Team) (n : Nat) : (m.begin n).prev = m.prev := rfl
@[simp] theorem Team.begin_jobs (m : Team) (n : Nat) : (m.begin n).jobs = m.jobs := rfl
@[simp] theorem Team.begin_joined (m : Team) (n : Nat) : (m.begin n).joined = m.joined := rfl
@[simp] theorem Team.begin_barSince (m : Team) (n : Nat) : (m.begin n).barSince = m.barSince := rfl
@[simp] theorem Team.begin_batch (m : Team) (n : Nat) : (m.begin n).batch = m.batch := rfl
@[simp] theorem Team.begin_opened (m : Team) (n : Nat) : (m.begin n).opened = m.opened := rfl
@[simp] theorem Team.begin_counted (m : Team) (n : Nat) : (m.begin n).counted = m.counted := rfl
@[simp] theorem Team.begin_vecUnread (m : Team) (n : Nat) : (m.begin n).vecUnread = m.vecUnread := rfl

end Sys2Proof.Machine
end

