-- ==== Sys2Proof/Laws/Tab.lean ====
section
/-! SUPPORT. Tables: reading what was written, leaving every other key alone, keeping the canonical form; and the same for
the bytes of a memory. -/
namespace Sys2Proof.Tab
variable {α : Type}

theorem get_put_same (d : α) (t : Tab α) (k : Nat) (x : α) : get d (put t k x) k = x := by
  induction t with
  | nil => simp [put, get]
  | cons e r ih =>
    obtain ⟨i, y⟩ := e
    simp only [put]
    split
    · simp [get]
    · split
      · simp [get]
      · simp only [get, if_neg ‹¬i = k›, if_neg ‹¬k < i›]; exact ih

theorem get_put_other (d : α) (t : Tab α) {k j : Nat} (h : j ≠ k) (x : α) : get d (put t k x) j = get d t j := by
  induction t with
  | nil => simp only [put, get]; split <;> [omega; (split <;> rfl)]
  | cons e r ih =>
    obtain ⟨i, y⟩ := e
    simp only [put]
    split
    · simp only [get, if_neg (Ne.symm h)]
      split
      · rw [if_neg (by omega), if_pos (by omega)]
      · rfl
    · split
      · rename_i hik; subst hik
        simp only [get, if_neg (Ne.symm h)]
      · simp only [get, ih]

/-- A value below every key of a canonical table is not listed. -/
theorem get_below [DecidableEq α] (d : α) : ∀ (t : Tab α) (lo k : Nat), wfFrom d lo t = true → k < lo → get d t k = d
  | [], _, _, _, _ => rfl
  | (i, y) :: r, lo, k, h, hk => by
    simp only [wfFrom, Bool.and_eq_true, decide_eq_true_eq] at h
    simp only [get]
    rw [if_neg (by omega), if_pos (by omega)]

theorem wfFrom_mono [DecidableEq α] (d : α) : ∀ (t : Tab α) (lo lo' : Nat), lo' ≤ lo → wfFrom d lo t = true → wfFrom d lo' t = true
  | [], _, _, _, _ => rfl
  | (i, y) :: r, lo, lo', hl, h => by
    simp only [wfFrom, Bool.and_eq_true, decide_eq_true_eq] at h ⊢
    exact ⟨⟨by omega, h.1.2⟩, h.2⟩

theorem wfFrom_set [DecidableEq α] (d : α) (k : Nat) (x : α) :
    ∀ (t : Tab α) (lo : Nat), lo ≤ k → wfFrom d lo t = true → wfFrom d lo (set d t k x) = true
  | [], lo, hl, _ => by
    simp only [set]
    split
    · rfl
    · rename_i hx
      simp only [wfFrom, Bool.and_eq_true, decide_eq_true_eq]
      exact ⟨⟨hl, hx⟩, trivial⟩
  | (i, y) :: r, lo, hl, h => by
    simp only [wfFrom, Bool.and_eq_true, decide_eq_true_eq] at h
    simp only [set]
    split
    · split
      · simp only [wfFrom, Bool.and_eq_true, decide_eq_true_eq]; exact h
      · rename_i hk hx
        simp only [wfFrom, Bool.and_eq_true, decide_eq_true_eq]
        exact ⟨⟨hl, hx⟩, ⟨⟨by omega, h.1.2⟩, h.2⟩⟩
    · split
      · rename_i hik; subst hik
        split
        · exact wfFrom_mono d r _ _ (by omega) h.2
        · rename_i hx
          simp only [wfFrom, Bool.and_eq_true, decide_eq_true_eq]
          exact ⟨⟨hl, hx⟩, h.2⟩
      · simp only [wfFrom, Bool.and_eq_true, decide_eq_true_eq]
        exact ⟨h.1, wfFrom_set d k x r (i + 1) (by omega) h.2⟩

/-- Writing one entry keeps the canonical form. -/
theorem wf_set [DecidableEq α] (d : α) (t : Tab α) (k : Nat) (x : α) (h : wf d t = true) : wf d (set d t k x) = true :=
  wfFrom_set d k x t 0 (Nat.zero_le k) h

theorem get_set_sameFrom [DecidableEq α] (d : α) (k : Nat) (x : α) :
    ∀ (t : Tab α) (lo : Nat), wfFrom d lo t = true → get d (set d t k x) k = x
  | [], _, _ => by
    simp only [set]
    split
    · rename_i hx; subst hx; rfl
    · simp [get]
  | (i, y) :: r, lo, h => by
    simp only [wfFrom, Bool.and_eq_true, decide_eq_true_eq] at h
    simp only [set]
    split
    · rename_i hk
      split
      · rename_i hx; subst hx
        simp only [get]; rw [if_neg (by omega), if_pos hk]
      · simp [get]
    · split
      · rename_i hik; subst hik
        split
        · rename_i hx; subst hx; exact get_below x r _ _ h.2 (by omega)
        · simp [get]
      · simp only [get, if_neg ‹¬i = k›, if_neg ‹¬k < i›]
        exact get_set_sameFrom d k x r (i + 1) h.2

/-- What was written is read. -/
theorem get_set_same [DecidableEq α] (d : α) (t : Tab α) (k : Nat) (x : α) (h : wf d t = true) : get d (set d t k x) k = x :=
  get_set_sameFrom d k x t 0 h

theorem get_set_otherFrom [DecidableEq α] (d : α) (k j : Nat) (x : α) (hj : j ≠ k) :
    ∀ (t : Tab α) (lo : Nat), wfFrom d lo t = true → get d (set d t k x) j = get d t j
  | [], _, _ => by
    simp only [set]
    split
    · rfl
    · simp only [get]; split <;> [omega; (split <;> rfl)]
  | (i, y) :: r, lo, h => by
    simp only [wfFrom, Bool.and_eq_true, decide_eq_true_eq] at h
    simp only [set]
    split
    · split
      · rfl
      · simp only [get, if_neg (Ne.symm hj)]
        split
        · rw [if_neg (by omega), if_pos (by omega)]
        · rfl
    · split
      · rename_i hik; subst hik
        split
        · simp only [get, if_neg (Ne.symm hj)]
          split
          · exact get_below d r _ _ h.2 (by omega)
          · rfl
        · simp only [get, if_neg (Ne.symm hj)]
      · simp only [get]
        split
        · rfl
        · split
          · rfl
          · exact get_set_otherFrom d k j x hj r (i + 1) h.2

/-- A write leaves every other key alone. -/
theorem get_set_other [DecidableEq α] (d : α) (t : Tab α) {k j : Nat} (x : α) (hj : j ≠ k) (h : wf d t = true) :
    get d (set d t k x) j = get d t j :=
  get_set_otherFrom d k j x hj t 0 h

/-- Filtering keeps the canonical form. -/
theorem wfFrom_filter [DecidableEq α] (d : α) (p : Nat × α → Bool) :
    ∀ (t : Tab α) (lo : Nat), wfFrom d lo t = true → wfFrom d lo (t.filter p) = true
  | [], _, _ => rfl
  | e :: r, lo, h => by
    obtain ⟨i, y⟩ := e
    simp only [wfFrom, Bool.and_eq_true, decide_eq_true_eq] at h
    rw [List.filter_cons]
    split
    · simp only [wfFrom, Bool.and_eq_true, decide_eq_true_eq]
      exact ⟨h.1, wfFrom_filter d p r _ h.2⟩
    · exact wfFrom_mono d _ _ _ (by omega) (wfFrom_filter d p r _ h.2)

theorem wf_filter [DecidableEq α] (d : α) (p : Nat × α → Bool) (t : Tab α) (h : wf d t = true) : wf d (t.filter p) = true :=
  wfFrom_filter d p t 0 h

end Sys2Proof.Tab

namespace Sys2Proof.Machine
open Sys2Proof

/-- Storing bytes keeps a memory's canonical form. -/
theorem writeBytes_wf (bs : List Byte) : ∀ (t : Tab Byte) (a : Nat), Memory.wf t = true → Memory.wf (writeBytes t a bs) = true := by
  induction bs with
  | nil => intro t a h; exact h
  | cons x r ih => intro t a h; exact ih _ _ (Tab.wf_set 0 t a x h)

/-- Removing entries keeps it. -/
theorem filter_wf (p : Host.Cell → Bool) (t : List Host.Cell) (h : Memory.wf t = true) : Memory.wf (t.filter p) = true :=
  Tab.wf_filter 0 p t h

/-- A byte stored is the byte at its place; every other byte is as before. -/
theorem get_writeBytes (bs : List Byte) : ∀ (t : Tab Byte) (a j : Nat), Memory.wf t = true →
    Tab.get 0 (writeBytes t a bs) j = if a ≤ j ∧ j < a + bs.length then bs.getD (j - a) 0 else Tab.get 0 t j := by
  induction bs with
  | nil => intro t a j _; simp only [writeBytes, List.length_nil]; rw [if_neg (by omega)]
  | cons x r ih =>
    intro t a j h
    simp only [writeBytes]
    rw [ih _ _ _ (Tab.wf_set 0 t a x h)]
    by_cases hj : j = a
    · subst hj
      rw [if_neg (by omega), if_pos (by simp)]
      rw [Tab.get_set_same 0 t j x h]; simp
    · rw [Tab.get_set_other 0 t x hj h]
      simp only [List.length_cons]
      by_cases hc : a + 1 ≤ j ∧ j < a + 1 + r.length
      · rw [if_pos hc, if_pos (by omega)]
        have : j - a = (j - (a + 1)) + 1 := by omega
        rw [this]; rfl
      · rw [if_neg hc, if_neg (by omega)]

theorem takeBytes_eq (n : Nat) : ∀ (a : Nat) (t : Tab Byte), Tab.wfFrom 0 a t = true →
    takeBytes n a t = (List.range n).map fun i => Tab.get 0 t (a + i) := by
  induction n with
  | zero => intros; rfl
  | succ n ih =>
    intro a t h
    rw [List.range_succ_eq_map, List.map_cons, List.map_map]
    match t, h with
    | [], h =>
      simp only [takeBytes, ih (a + 1) [] rfl]
      congr 1
    | (k, x) :: r, h =>
      simp only [Tab.wfFrom, Bool.and_eq_true, decide_eq_true_eq] at h
      simp only [takeBytes]
      split
      · rename_i hk; subst hk
        rw [ih _ _ h.2]
        congr 1
        · simp [Tab.get]
        · apply List.map_congr_left
          intro i _
          simp only [Function.comp, Tab.get]
          rw [if_neg (by omega), if_neg (by omega)]
          congr 1; omega
      · rw [ih (a + 1) ((k, x) :: r) (by
          simp only [Tab.wfFrom, Bool.and_eq_true, decide_eq_true_eq]; exact ⟨⟨by omega, h.1.2⟩, h.2⟩)]
        congr 1
        · simp only [Tab.get]; rw [if_neg (by omega), if_pos (by omega)]
        · apply List.map_congr_left
          intro i _
          simp only [Function.comp]
          congr 1; omega

theorem dropBelow (a : Nat) : ∀ (t : Tab Byte) (lo : Nat), Tab.wfFrom 0 lo t = true →
    Tab.wfFrom 0 a (t.dropWhile fun e => decide (e.1 < a)) = true ∧
      ∀ j, a ≤ j → Tab.get 0 (t.dropWhile fun e => decide (e.1 < a)) j = Tab.get 0 t j
  | [], _, _ => ⟨rfl, fun _ _ => rfl⟩
  | (k, x) :: r, lo, h => by
    simp only [Tab.wfFrom, Bool.and_eq_true, decide_eq_true_eq] at h
    by_cases hk : k < a
    · have hd : List.dropWhile (fun e : Nat × Byte => decide (e.1 < a)) ((k, x) :: r) = r.dropWhile fun e => decide (e.1 < a) := by
        simp [hk]
      rw [hd]
      have ⟨h1, h2⟩ := dropBelow a r (k + 1) h.2
      refine ⟨h1, fun j hj => ?_⟩
      rw [h2 j hj]; simp only [Tab.get]; rw [if_neg (by omega), if_neg (by omega)]
    · have hd : List.dropWhile (fun e : Nat × Byte => decide (e.1 < a)) ((k, x) :: r) = (k, x) :: r := by
        simp [hk]
      rw [hd]
      refine ⟨?_, fun _ _ => rfl⟩
      simp only [Tab.wfFrom, Bool.and_eq_true, decide_eq_true_eq]
      exact ⟨⟨by omega, h.1.2⟩, h.2⟩

/-- Bytes read are the bytes that stand there, one by one. -/
theorem readBytes_eq (t : Tab Byte) (a n : Nat) (h : Memory.wf t = true) :
    readBytes t a n = (List.range n).map fun i => Tab.get 0 t (a + i) := by
  have ⟨h1, h2⟩ := dropBelow a t 0 h
  rw [readBytes, takeBytes_eq n a _ h1]
  apply List.map_congr_left
  intro i _
  exact h2 _ (by omega)

/-- Bytes read after they were stored are the bytes stored. -/
theorem readBytes_writeBytes (t : Tab Byte) (a : Nat) (bs : List Byte) (h : Memory.wf t = true) :
    readBytes (writeBytes t a bs) a bs.length = bs := by
  rw [readBytes_eq _ _ _ (writeBytes_wf bs t a h)]
  apply List.ext_getElem (by simp)
  intro i h1 h2
  simp only [List.getElem_map, List.getElem_range, get_writeBytes bs t a _ h]
  rw [if_pos (by omega)]
  simp [List.getD_eq_getElem?_getD, List.getElem?_eq_getElem h2]

end Sys2Proof.Machine
end

