-- ==== Sys2Proof/Laws/Issue.lean ====
section
/-! SUPPORT. Blocks and teams by number; what issuing one word does: a meaning that runs to its end, one that traps, one that
waits; a step of the device. -/
namespace Sys2Proof.Machine
open Sys2Proof
open Sys2Proof.Claim

/-! ## Blocks and teams -/

@[simp] theorem State.block_setBlock_same (s : State) (b : Nat) (x : Block) : (s.setBlock b x).block b = x :=
  Tab.get_put_same _ _ _ _
theorem State.block_setBlock_other (s : State) {b c : Nat} (x : Block) (h : c ≠ b) : (s.setBlock b x).block c = s.block c :=
  Tab.get_put_other _ _ h _
@[simp] theorem State.block_modBlock_same (s : State) (b : Nat) (f : Block → Block) : (s.modBlock b f).block b = f (s.block b) :=
  State.block_setBlock_same _ _ _
theorem State.block_modBlock_other (s : State) {b c : Nat} (f : Block → Block) (h : c ≠ b) :
    (s.modBlock b f).block c = s.block c :=
  State.block_setBlock_other _ _ h

theorem Block.team_modTeam_same (x : Block) (t : Nat) (f : Team → Team) (h : t < x.teams.length) :
    (x.modTeam t f).team t = f (x.team t) := by
  simp [Block.team, Block.modTeam, setAt, List.getD_eq_getElem?_getD, h]
theorem Block.team_modTeam_other (x : Block) {t u : Nat} (f : Team → Team) (h : u ≠ t) :
    (x.modTeam t f).team u = x.team u := by
  simp [Block.team, Block.modTeam, setAt, List.getD_eq_getElem?_getD, Ne.symm h]
@[simp] theorem Block.teams_length_modTeam (x : Block) (t : Nat) (f : Team → Team) :
    (x.modTeam t f).teams.length = x.teams.length := by
  simp [Block.modTeam, setAt]

/-- A team that runs a clause is one of its block's. -/
theorem State.team_lt (s : State) {b t : Nat} {cl : Clause} (h : (s.team b t).clause = some cl) :
    t < (s.block b).teams.length := by
  by_contra hc
  simp [State.team, Block.team, List.getD_eq_getElem?_getD, List.getElem?_eq_none (Nat.le_of_not_lt hc)] at h

theorem State.team_modTeam_same (s : State) {b t : Nat} (f : Team → Team) (h : t < (s.block b).teams.length) :
    (s.modTeam b t f).team b t = f (s.team b t) := by
  simp [State.team, State.modTeam, Block.team_modTeam_same _ _ _ h]
theorem State.team_modTeam_other (s : State) {b t c u : Nat} (f : Team → Team) (h : ¬(c = b ∧ u = t)) :
    (s.modTeam b t f).team c u = s.team c u := by
  by_cases hc : c = b
  · subst hc
    simp only [State.team, State.modTeam, State.block_modBlock_same]
    exact Block.team_modTeam_other _ _ fun hu => h ⟨rfl, hu⟩
  · simp only [State.team, State.modTeam, State.block_modBlock_other _ _ hc]

@[simp] theorem State.block_modTeam_teams (s : State) (b t c : Nat) (f : Team → Team) :
    ((s.modTeam b t f).block c).teams.length = (s.block c).teams.length := by
  by_cases hc : c = b
  · subst hc; simp [State.modTeam]
  · simp [State.modTeam, State.block_modBlock_other _ _ hc]

theorem State.setBlock_setBlock (s : State) (b : Nat) (x y : Block) : (s.setBlock b x).setBlock b y = s.setBlock b y := by
  simp only [State.setBlock]
  congr 1
  generalize s.blocks = l
  induction l with
  | nil => simp [Tab.put]
  | cons e r ih =>
    obtain ⟨i, z⟩ := e
    simp only [Tab.put]
    split
    · simp [Tab.put]
    · split
      · simp [Tab.put]
      · simp only [Tab.put, if_neg ‹¬b < i›, if_neg ‹¬i = b›, ih]

theorem State.modBlock_modBlock (s : State) (b : Nat) (f g : Block → Block) :
    (s.modBlock b f).modBlock b g = s.modBlock b (g ∘ f) := by
  simp [State.modBlock, State.setBlock_setBlock]

/-- Two updates of one team are one. -/
theorem State.modTeam_modTeam (s : State) (b t : Nat) (f g : Team → Team) :
    (s.modTeam b t f).modTeam b t g = s.modTeam b t fun m => g (f m) := by
  simp only [State.modTeam, State.modBlock_modBlock]
  simp only [State.modBlock, Function.comp]
  congr 1
  simp only [Block.modTeam, setAt, List.set_set]
  congr 1
  by_cases h : t < (s.block b).teams.length
  · have := Block.team_modTeam_same (s.block b) t f h
    simp only [Block.modTeam, setAt] at this
    rw [this]
  · rw [List.set_eq_of_length_le (Nat.le_of_not_lt h), List.set_eq_of_length_le (Nat.le_of_not_lt h)]

/-! ## Tags -/

theorem untagged_check {m : Team} {i : Info} (h : Untagged m i.shape) : m.checkTags i = .free := by
  have hr : ∀ r ∈ i.shape.reqs, m.checkReq r = .free := by
    intro r hr
    have hn := h r hr
    simp only [Team.checkReq]
    rw [if_neg, if_neg]
    · simp only [List.any_eq_true, not_exists, not_and]
      intro k hk; simp [hn k hk]
    · simp only [List.any_eq_true, not_exists, not_and]
      intro k hk; simp [hn k hk]
  simp only [Team.checkTags]
  rw [if_neg, if_neg]
  · simp only [List.any_eq_true, not_exists, not_and]
    intro r h1; rw [hr r h1]; decide
  · simp only [List.any_eq_true, not_exists, not_and]
    intro r h1; rw [hr r h1]; decide

/-! ## One word -/

/-- What the meaning sees. -/
def State.seen (s : State) (i : Info) (b t : Nat) (cl : Clause) : Issue := (begun s b t).issueOf i b t cl

theorem begun_team (s : State) {b t : Nat} {cl : Clause} (h : (s.team b t).clause = some cl) :
    (begun s b t).team b t = (s.team b t).begin s.tick :=
  s.team_modTeam_same _ (s.team_lt h)

theorem run_ok {α β : Type} {x : M α} {f : α → M β} {s s' : State} {a : α} (h : x s = .ok (a, s')) :
    (x >>= f) s = f a s' := by
  show (do let y ← x s; f y.1 y.2) = _
  rw [h]; rfl

theorem run_error {α β : Type} {x : M α} {f : α → M β} {s : State} {e : Stop} (h : x s = .error e) :
    (x >>= f) s = .error e := by
  show (do let y ← x s; f y.1 y.2) = _
  rw [h]; rfl

theorem tagGuard_free {k : Issue} (s : State) (h : k.tm.checkTags k.info = .free) : tagGuard k s = .ok ((), s) := by
  simp [tagGuard, h, pure, StateT.pure, Except.pure]

/-- A word whose meaning runs to its end: the team goes on to the next word, unless it waits or changed its context. -/
theorem issue_done {i : Info} {body : Issue → M Unit} {s s' : State} {b t : Nat} {cl : Clause}
    (h : Executes s b t cl) (hu : Untagged (s.team b t) i.shape)
    (hb : body (s.seen i b t cl) (begun s b t) = .ok ((), s')) :
    issue i body s = if (s'.team b t).parked || (s'.team b t).context != (s.team b t).context then .next s' else .next (s'.finish b t) := by
  have ht := begun_team s h.clause
  have htx : ((begun s b t).team b t).openTx = (s.team b t).openTx := by rw [ht]; rfl
  simp only [issue, h.focus]
  rw [show (s.modTeam b t (·.begin s.tick)) = begun s b t from rfl]
  have hcl : ((begun s b t).team b t).clause = some cl := by rw [ht]; exact h.clause
  rw [issueLoop]
  simp only [hcl, htx, h.plain]
  have hz : ¬((if i.tx = true then (0 : Half) else 0) != 0) = true := by split <;> decide
  rw [if_neg hz, if_neg h.lanes]
  have hg : tagGuard ((begun s b t).issueOf i b t cl) (begun s b t) = .ok ((), begun s b t) := by
    apply tagGuard_free
    apply untagged_check
    simp only [State.issueOf, ht]
    exact hu
  rw [run_ok hg, show body ((begun s b t).issueOf i b t cl) (begun s b t) = .ok ((), s') from hb]
  simp only [ht, Team.begin_context]

/-- A word whose meaning runs to its end and leaves the team's wait and context alone. -/
theorem issue_next {i : Info} {body : Issue → M Unit} {s s' : State} {b t : Nat} {cl : Clause}
    (h : Executes s b t cl) (hu : Untagged (s.team b t) i.shape)
    (hb : body (s.seen i b t cl) (begun s b t) = .ok ((), s'))
    (hs : (s'.team b t).stall = none) (hc : (s'.team b t).context = (s.team b t).context) :
    issue i body s = .next (s'.finish b t) := by
  rw [issue_done h hu hb]
  simp [Team.parked, hs, hc]

/-- A word whose meaning updates its own team. -/
theorem issue_mod {i : Info} {body : Issue → M Unit} {s : State} {b t : Nat} {cl : Clause} {f : Team → Team}
    (h : Executes s b t cl) (hu : Untagged (s.team b t) i.shape)
    (hb : body (s.seen i b t cl) (begun s b t) = .ok ((), (begun s b t).modTeam b t f))
    (hs : ∀ m : Team, m.stall = none → (f m).stall = none) (hc : ∀ m : Team, (f m).context = m.context) :
    issue i body s = .next (((begun s b t).modTeam b t f).finish b t) := by
  have hl : t < ((begun s b t).block b).teams.length := by
    simp only [begun, State.block_modTeam_teams]; exact s.team_lt h.clause
  apply issue_next h hu hb
  · rw [State.team_modTeam_same _ _ hl]; apply hs; rw [begun_team s h.clause]; rfl
  · rw [State.team_modTeam_same _ _ hl, hc, begun_team s h.clause]; rfl

/-- A word whose meaning traps: the trap is taken. -/
theorem issue_trap {i : Info} {body : Issue → M Unit} {s : State} {b t : Nat} {cl : Clause} {c : TrapCode} {a : Nat} {ls : Half}
    (h : Executes s b t cl) (hu : Untagged (s.team b t) i.shape)
    (hb : body (s.seen i b t cl) (begun s b t) = .error (.trap c a ls)) :
    issue i body s = (begun s b t).stopped (s.seen i b t cl) (.trap c a ls) := by
  have ht := begun_team s h.clause
  have htx : ((begun s b t).team b t).openTx = (s.team b t).openTx := by rw [ht]; rfl
  simp only [issue, h.focus]
  rw [show (s.modTeam b t (·.begin s.tick)) = begun s b t from rfl]
  have hcl : ((begun s b t).team b t).clause = some cl := by rw [ht]; exact h.clause
  rw [issueLoop]
  simp only [hcl, htx, h.plain]
  have hz : ¬((if i.tx = true then (0 : Half) else 0) != 0) = true := by split <;> decide
  rw [if_neg hz, if_neg h.lanes]
  have hg : tagGuard ((begun s b t).issueOf i b t cl) (begun s b t) = .ok ((), begun s b t) := by
    apply tagGuard_free
    apply untagged_check
    simp only [State.issueOf, ht]
    exact hu
  rw [run_ok hg, show body ((begun s b t).issueOf i b t cl) (begun s b t) = .error (.trap c a ls) from hb]
  simp only []
  rw [if_pos]
  · rfl
  · rw [BitVec.and_assoc, BitVec.and_comm ls, ← BitVec.and_assoc, h.plain]; exact BitVec.zero_and

/-- A word whose meaning cannot issue now: the team keeps its place and tries again. -/
theorem issue_stall {i : Info} {body : Issue → M Unit} {s : State} {b t : Nat} {cl : Clause}
    (h : Executes s b t cl) (hu : Untagged (s.team b t) i.shape)
    (hb : body (s.seen i b t cl) (begun s b t) = .error .stall) :
    issue i body s = .next ((begun s b t).modTeam b t Team.retry) := by
  have ht := begun_team s h.clause
  have htx : ((begun s b t).team b t).openTx = (s.team b t).openTx := by rw [ht]; rfl
  simp only [issue, h.focus]
  rw [show (s.modTeam b t (·.begin s.tick)) = begun s b t from rfl]
  have hcl : ((begun s b t).team b t).clause = some cl := by rw [ht]; exact h.clause
  rw [issueLoop]
  simp only [hcl, htx, h.plain]
  have hz : ¬((if i.tx = true then (0 : Half) else 0) != 0) = true := by split <;> decide
  rw [if_neg hz, if_neg h.lanes]
  have hg : tagGuard ((begun s b t).issueOf i b t cl) (begun s b t) = .ok ((), begun s b t) := by
    apply tagGuard_free
    apply untagged_check
    simp only [State.issueOf, ht]
    exact hu
  rw [run_ok hg, show body ((begun s b t).issueOf i b t cl) (begun s b t) = .error .stall from hb]
  rfl

/-! ## Steps of the device -/

theorem deviceStep_next {body : M Unit} {s s' : State} (h : body s = .ok ((), s')) : deviceStep body s = .next s' := by
  simp [deviceStep, h]

theorem need_true {c : Bool} {f : Fault} (s : State) (h : c = true) : need c f s = .ok ((), s) := by
  simp [need, h, pure, StateT.pure, Except.pure]

theorem trapIf_false {c : Bool} {x : TrapCode} {a : Nat} (s : State) (h : c = false) : trapIf c x a s = .ok ((), s) := by
  simp [trapIf, h, pure, StateT.pure, Except.pure]

end Sys2Proof.Machine
end

