-- ==== Sys2Proof/Laws/Finish.lean ====
section
/-! SUPPORT. Translation changes nothing but translation caches; what follows a word that took effect. -/
namespace Sys2Proof.Machine
open Sys2Proof
open Sys2Proof.Claim

/-! ## Translation caches -/

/-- `u` is `s` but for what its translation caches hold. -/
def Cached (s u : State) : Prop :=
  ∃ cores tlb, (∀ c, uncached (Tab.get {} cores c) = uncached (s.core c)) ∧ u = { s with cores := cores, postTlb := tlb }

theorem Cached.refl (s : State) : Cached s s := ⟨s.cores, s.postTlb, fun _ => rfl, rfl⟩

theorem Cached.trans {s u v : State} (h : Cached s u) (g : Cached u v) : Cached s v := by
  obtain ⟨c, p, hc, rfl⟩ := h
  obtain ⟨d, q, hd, rfl⟩ := g
  exact ⟨d, q, fun k => (hd k).trans (hc k), rfl⟩

/-- A value other than the default is listed. -/
theorem tab_set_eq_put {α : Type} [DecidableEq α] (d : α) (t : Tab α) (k : Nat) (x : α) (h : x ≠ d) :
    Tab.set d t k x = Tab.put t k x := by
  induction t with
  | nil => simp [Tab.set, Tab.put, h]
  | cons e r ih => obtain ⟨i, y⟩ := e; simp only [Tab.set, Tab.put, if_neg h, ih]

theorem cached_fill (s : State) (c : Nat) (pg : Page) (n : Nat) (hn : 0 < n) :
    Cached s (s.modCore c fun k => { k with tlb := tlbInsert n pg k.tlb }) := by
  refine ⟨_, s.postTlb, ?_, rfl⟩
  intro d
  have hne : ({ s.core c with tlb := tlbInsert n pg (s.core c).tlb } : Core) ≠ {} := by
    intro h
    have ht : tlbInsert n pg (s.core c).tlb = [] := by
      have := congrArg Core.tlb h; simpa using this
    unfold tlbInsert at ht
    simp only [] at ht
    rw [List.drop_eq_nil_iff] at ht
    simp only [List.length_append, List.length_cons, List.length_nil] at ht
    omega
  rw [tab_set_eq_put _ _ _ _ hne]
  by_cases hd : d = c
  · subst hd; rw [Tab.get_put_same]; rfl
  · rw [Tab.get_put_other _ _ hd]; rfl

theorem cached_lookup (s : State) (c asid va : Nat) : Cached s (s.lookup c asid va).2 := by
  unfold State.lookup
  simp only []
  split
  · exact .refl s
  · split
    · exact cached_fill s c _ _ (by decide)
    · split
      · exact .trans ⟨s.cores, _, fun _ => rfl, rfl⟩ (cached_fill _ c _ _ (by decide))
      · exact .refl s

theorem cached_translate (s : State) (c asid va : Nat) (a : Access) : Cached s (s.translate c asid va a).2 := by
  have h := cached_lookup s c asid va
  unfold State.translate
  split <;> simp_all

theorem cached_fetchWord (s : State) (c asid va : Nat) : Cached s (s.fetchWord c asid va).2 := by
  have h := cached_translate s c asid va .fetch
  unfold State.fetchWord
  split
  · exact .refl s
  · split <;> simp_all

theorem cached_fetchWords (s : State) (c asid va n : Nat) : Cached s (s.fetchWords c asid va n).2 := by
  induction n generalizing s va with
  | zero => exact .refl s
  | succ n ih =>
    have h := cached_fetchWord s c asid va
    unfold State.fetchWords
    split
    · rename_i w u hw
      rw [hw] at h
      have g := ih u (va + 4)
      split <;> (rename_i hq; rw [hq] at g; exact h.trans g)
    all_goals (rename_i hw; rw [hw] at h; exact h)

theorem cached_marked (s : State) (c asid va : Nat) : Cached s (s.marked c asid va).2 := by
  have h := cached_fetchWords s c asid va 2
  have g := cached_fetchWord s c asid va
  unfold State.marked
  split
  · rename_i hq; rw [hq] at h; split <;> exact h
  · rename_i hq
    split
    · rename_i hw; rw [hw] at g
      split
      · rw [hq] at h; exact h
      · exact g
    all_goals (rename_i hw; rw [hw] at g; exact g)

theorem cached_fallPrio (s : State) (b va : Nat) : Cached s (s.fallPrio b va).2 := by
  have h := cached_marked s (s.block b).core (s.block b).asid va
  unfold State.fallPrio
  simp only []
  split <;> (rename_i hq; rw [hq] at h; exact h)

theorem Cached.blocks {s u : State} (h : Cached s u) : u.blocks = s.blocks := by
  obtain ⟨_, _, _, rfl⟩ := h; rfl
theorem Cached.block {s u : State} (h : Cached s u) (b : Nat) : u.block b = s.block b := by
  simp only [State.block, h.blocks]
theorem Cached.team {s u : State} (h : Cached s u) (b t : Nat) : u.team b t = s.team b t := by
  simp only [State.team, h.block]
theorem Cached.modTeam {s u : State} (h : Cached s u) (b t : Nat) (f : Team → Team) :
    Cached (s.modTeam b t f) (u.modTeam b t f) := by
  obtain ⟨c, p, hc, rfl⟩ := h
  exact ⟨c, p, hc, rfl⟩
theorem Cached.focus {s u : State} (h : Cached s u) : u.focus = s.focus := by
  obtain ⟨_, _, _, rfl⟩ := h; rfl

/-! ## A clause's end keeps all but the team's place -/

@[simp] theorem held_setJoin (m : Team) (n : Nat) (j : JMask) : held (m.setJoin n j) = held m := rfl
theorem held_release (m : Team) (n : Nat) : held (m.release n) = held m := rfl
theorem held_testJoin (m : Team) (n : Nat) : held (m.testJoin n) = held m := by
  unfold Team.testJoin
  simp only []
  repeat' split
  all_goals rfl
theorem held_testJoins (m : Team) : held m.testJoins = held m := by
  unfold Team.testJoins
  generalize List.range 8 = l
  induction l generalizing m with
  | nil => rfl
  | cons n r ih => rw [List.foldl_cons, ih, held_testJoin]
theorem held_done {m n : Team} (h : held m = held n) : m.done = n.done := by
  have := congrArg Team.done h; simpa [held] using this
theorem held_haltPending {m n : Team} (h : held m = held n) : m.haltPending = n.haltPending := by
  have := congrArg Team.haltPending h; simpa [held] using this
theorem held_context {m n : Team} (h : held m = held n) : m.context = n.context := by
  have := congrArg Team.context h; simpa [held] using this

/-! ### Some lane stays -/

/-- Entries, none of them empty. -/
def Stays (es : List Entry) : Prop := es ≠ [] ∧ ∀ e ∈ es, e.mask ≠ 0

theorem or_ne_zero {x : Half} (y : Half) (h : x ≠ 0) : x ||| y ≠ 0 := by
  intro hc; exact h (BitVec.or_eq_zero_iff.mp hc).1

theorem mergeEntry_mem {e x : Entry} {es : List Entry} (he : e.mask ≠ 0) (hs : ∀ y ∈ es, y.mask ≠ 0)
    (hx : x ∈ mergeEntry e es) : x.mask ≠ 0 := by
  induction es with
  | nil => simp only [mergeEntry, List.mem_singleton] at hx; rw [hx]; exact he
  | cons y r ih =>
    simp only [mergeEntry] at hx
    split at hx
    · rcases List.mem_cons.mp hx with rfl | h
      · exact or_ne_zero _ (hs y (by simp))
      · exact hs x (List.mem_cons_of_mem _ h)
    · rcases List.mem_cons.mp hx with rfl | h
      · exact hs x (by simp)
      · exact ih (fun z hz => hs z (List.mem_cons_of_mem _ hz)) h

theorem mergeEntry_ne_nil (e : Entry) (es : List Entry) : mergeEntry e es ≠ [] := by
  cases es with
  | nil => simp [mergeEntry]
  | cons y r => simp only [mergeEntry]; split <;> simp

theorem stays_foldl {es a : List Entry} (hs : ∀ e ∈ es, e.mask ≠ 0) (ha : ∀ e ∈ a, e.mask ≠ 0) (h : a ≠ [] ∨ es ≠ []) :
    Stays (es.foldl (fun a e => mergeEntry e a) a) := by
  induction es generalizing a with
  | nil => exact ⟨by simpa using h, ha⟩
  | cons e r ih =>
    rw [List.foldl_cons]
    exact ih (fun x hx => hs x (List.mem_cons_of_mem _ hx)) (fun x hx => mergeEntry_mem (hs e (by simp)) ha hx)
      (.inl (mergeEntry_ne_nil e a))

theorem stays_mergeAll {es : List Entry} {e : Entry} (h : e ∈ es) (hm : e.mask ≠ 0) : Stays (mergeAll es) := by
  refine stays_foldl (fun x hx => ?_) (by simp) (.inr ?_)
  · simpa using (List.mem_filter.mp hx).2
  · exact List.ne_nil_of_mem (List.mem_filter.mpr ⟨h, by simpa using hm⟩)

theorem stays_release {m : Team} {n : Nat} (h : Stays m.frontier) : Stays (m.release n).frontier := by
  obtain ⟨e, r, hr⟩ := List.exists_cons_of_ne_nil h.1
  have he : e ∈ m.frontier := by rw [hr]; simp
  have hm := h.2 e he
  unfold Team.release
  simp only []
  apply stays_mergeAll (e := if e.held = some n then { e with held := none } else e)
  · exact List.mem_map_of_mem he
  · split <;> exact hm

theorem stays_testJoin {m : Team} {n : Nat} (h : Stays m.frontier) : Stays (m.testJoin n).frontier := by
  unfold Team.testJoin
  simp only []
  repeat' split
  all_goals first | exact h | exact stays_release h

theorem stays_testJoins {m : Team} (h : Stays m.frontier) : Stays m.testJoins.frontier := by
  unfold Team.testJoins
  generalize List.range 8 = l
  induction l generalizing m with
  | nil => exact h
  | cons n r ih => rw [List.foldl_cons]; exact ih (stays_testJoin h)

theorem laneMask_ne_zero {l : Nat} (h : l < 16) : laneMask l ≠ 0 := by
  have : ∀ l : Fin 16, laneMask l.val ≠ 0 := by decide
  exact this ⟨l, h⟩

theorem exists_lane {m : Half} (h : m ≠ 0) : ∃ l, l ∈ lanesOf m := by
  by_contra hc
  apply h
  apply BitVec.eq_of_getLsbD_eq
  intro i hi
  have : i ∉ lanesOf m := fun hi => hc ⟨i, hi⟩
  simp only [lanesOf, lanes, laneIn, List.mem_filter, List.mem_range, hi, true_and, Bool.not_eq_true] at this
  simpa using this

theorem outcome_mask {cl : Clause} {r : Half} {n : Nat} {f : Option Nat} {e : Entry} (h : e ∈ cl.outcome r n f) :
    e.mask ≠ 0 := by
  simp only [Clause.outcome, List.mem_map] at h
  obtain ⟨l, hl, rfl⟩ := h
  have hl : l < 16 := by
    simp only [lanesOf, lanes, List.mem_filter, List.mem_range] at hl; exact hl.1
  repeat' split
  all_goals exact laneMask_ne_zero hl

/-- The team at a clause's end, before the rejoin tests. -/
def rebuilt (m : Team) (cl : Clause) (f : Option Nat) : Team :=
  { m with clause := none, frontier := mergeAll (dropLanes cl.mask m.frontier ++ cl.outcome m.retired cl.pc f) }

theorem stays_endClause {m : Team} {cl : Clause} {f : Option Nat} (h : cl.mask &&& ~~~m.retired ≠ 0) :
    m.endClause cl f = (rebuilt m cl f).testJoins := by
  obtain ⟨l, hl⟩ := exists_lane h
  have hs : Stays (rebuilt m cl f).testJoins.frontier := by
    apply stays_testJoins
    have hne : cl.outcome m.retired cl.pc f ≠ [] := by
      simp only [Clause.outcome, ne_eq, List.map_eq_nil_iff]; exact List.ne_nil_of_mem hl
    obtain ⟨e, r, hr⟩ := List.exists_cons_of_ne_nil hne
    have he : e ∈ cl.outcome m.retired cl.pc f := by rw [hr]; simp
    exact stays_mergeAll (List.mem_append_right _ he) (outcome_mask he)
  show (rebuilt m cl f).testJoins.settleDone = _
  have : (rebuilt m cl f).testJoins.frontier.isEmpty = false := by
    simpa [List.isEmpty_iff] using hs.1
  simp only [Team.settleDone, this, Bool.false_and, Bool.false_eq_true, if_false]

theorem held_endClause {m : Team} {cl : Clause} {f : Option Nat} (h : cl.mask &&& ~~~m.retired ≠ 0) :
    held (m.endClause cl f) = held m := by
  rw [stays_endClause h, held_testJoins]; rfl

/-- A team that stands where it does not retire is not counted. -/
theorem countTeam_idle (s : State) (b t : Nat) (h : (s.team b t).done = false) : s.countTeam b t = s := by
  simp [State.countTeam, h]
theorem teamEnd_idle (s : State) (b t : Nat) (h : (s.team b t).done = false) : s.teamEnd b t = s := by
  simp [State.teamEnd, countTeam_idle s b t h, h]

/-! ## The end of a word -/

theorem advanced_finish {v : State} {b t : Nat} {cl : Clause} (hc : (v.team b t).clause = some cl) :
    Advanced v (v.finish b t) b t cl := by
  have hl := v.team_lt hc
  constructor
  · intro hw
    simp only [State.finish, hc]
    rw [if_neg (by simpa using hw), State.modTeam_modTeam]
    rfl
  · intro hw hp hdn hr
    simp only [State.finish, hc]
    rw [if_pos (by simpa using hw)]
    generalize hv1 : (v.modTeam b t fun m =>
      { m with prev := some ⟨cl, m.frontier, m.joins, m.rejoinlost⟩, count := m.count + 1 }) = v1
    have ht1 : v1.team b t = { v.team b t with
        prev := some ⟨cl, (v.team b t).frontier, (v.team b t).joins, (v.team b t).rejoinlost⟩
        count := (v.team b t).count + 1 } := by
      rw [← hv1, State.team_modTeam_same _ _ hl]
    have hh1 : held (v1.team b t) = held (v.team b t) := by rw [ht1]; rfl
    have hr1 : cl.advance.mask &&& ~~~(v1.team b t).retired ≠ 0 := by rw [ht1]; exact hr
    unfold State.endClause
    generalize hfp : (if cl.advance.falls (v1.team b t).retired = true then v1.fallPrio b cl.advance.pc else (none, v1)) = fp
    obtain ⟨fall, v2⟩ := fp
    have h12 : Cached v1 v2 := by
      have := cached_fallPrio v1 b cl.advance.pc
      split at hfp
      · rw [hfp] at this; exact this
      · injection hfp with _ h2; rw [← h2]; exact .refl _
    simp only []
    have hl1 : t < (v1.block b).teams.length := by rw [← hv1]; simpa using hl
    have hl2 : t < (v2.block b).teams.length := by rw [h12.block]; exact hl1
    have ht3 : (v2.modTeam b t fun x => x.endClause cl.advance fall).team b t = (v1.team b t).endClause cl.advance fall := by
      rw [State.team_modTeam_same _ _ hl2, h12.team]
    have hd3 : held ((v1.team b t).endClause cl.advance fall) = held (v.team b t) := by rw [held_endClause hr1, hh1]
    have hdone : ((v1.team b t).endClause cl.advance fall).done = false := by
      rw [held_done hd3]; exact hdn
    rw [teamEnd_idle _ _ _ (by rw [ht3]; exact hdone), ht3]
    have hpp : ((v1.team b t).endClause cl.advance fall).haltPending = false := by rw [held_haltPending hd3]; exact hp
    simp only [hpp, Bool.false_and, Bool.false_eq_true, if_false, State.modTeam_focus]
    have hfo : v2.focus = v.focus := by rw [h12.focus, ← hv1]; rfl
    rw [hfo]
    obtain ⟨cs, tl, hcs, h2⟩ := h12
    refine ⟨(v1.team b t).endClause cl.advance fall, cs, tl, hd3, ?_, ?_⟩
    · intro c; rw [hcs c, ← hv1]; rfl
    · have e1 : (v2.modTeam b t fun x => x.endClause cl.advance fall) =
          v2.modTeam b t fun _ => (v1.team b t).endClause cl.advance fall := by
        have : v2.team b t = v1.team b t := by rw [h2]; rfl
        simp only [State.modTeam, State.modBlock, Block.modTeam]
        rw [show (v2.block b).team t = v2.team b t from rfl, this]
      rw [e1, h2]
      have e2 : (v1.modTeam b t fun _ => (v1.team b t).endClause cl.advance fall) =
          v.modTeam b t fun _ => (v1.team b t).endClause cl.advance fall := by
        generalize (v1.team b t).endClause cl.advance fall = q
        rw [← hv1, State.modTeam_modTeam]
      rw [← e2]
      by_cases hq : v.focus = some (.team b t)
      · rw [if_pos hq, if_pos hq]; rfl
      · rw [if_neg hq, if_neg hq, ← show v1.focus = v.focus by rw [← hv1]; rfl]; rfl

end Sys2Proof.Machine
end

