-- ==== Sys2Proof/Laws/Alu.lean ====
section
/-! SUPPORT. What a word does whose effect is on its own team: register operands, and the shapes of the arithmetic
meanings. -/
namespace Sys2Proof.Machine
open Sys2Proof
open Sys2Proof.Claim

/-! ## Writing registers -/

theorem foldl_setV (m : Team) (r : Nat) (g : Nat → Word) (ls : List Nat) :
    ls.foldl (fun m l => m.setV r l (g l)) m =
      { m with vregs := (ls.foldl (fun m l => m.setV r l (g l)) m).vregs } := by
  induction ls generalizing m with
  | nil => rfl
  | cons l r ih => rw [List.foldl_cons, ih]; rfl

/-- Writing an operand changes registers only. -/
theorem wr_eq (m : Team) (d : Opnd) (act : Half) (f : Nat → Word) (i : Nat) :
    m.wr d act f i = { m with vregs := (m.wr d act f i).vregs, sregs := (m.wr d act f i).sregs } := by
  cases d <;> simp only [Team.wr]
  · rw [foldl_setV]
  · rfl

/-- What `f` leaves of a team: its wait, its context and its clause. -/
structure Keeps (f : Team → Team) : Prop where
  stall : ∀ m, (f m).stall = m.stall
  context : ∀ m, (f m).context = m.context
  clause : ∀ m, (f m).clause = m.clause

theorem keeps_id : Keeps id := ⟨fun _ => rfl, fun _ => rfl, fun _ => rfl⟩
theorem Keeps.comp {f g : Team → Team} (hf : Keeps f) (hg : Keeps g) : Keeps fun m => g (f m) :=
  ⟨fun m => (hg.stall _).trans (hf.stall m), fun m => (hg.context _).trans (hf.context m),
    fun m => (hg.clause _).trans (hf.clause m)⟩
theorem keeps_wr (d : Opnd) (act : Half) (g : Nat → Word) (i : Nat := 0) : Keeps fun m => m.wr d act g i :=
  ⟨fun m => by rw [wr_eq], fun m => by rw [wr_eq], fun m => by rw [wr_eq]⟩
theorem keeps_setP (n : Nat) (x : Team → Half) : Keeps fun m => m.setP n (x m) := ⟨fun _ => rfl, fun _ => rfl, fun _ => rfl⟩

/-! ## A word whose effect is on its own team -/

theorem focus_begun (s : State) (b t : Nat) : (begun s b t).focus = s.focus := rfl

theorem does_ok {i : Instr} {x : Info} {body : Issue → M Unit} {s v : State} {b t : Nat} {cl cl' : Clause}
    (he : ∀ s, exec i s = issue x body s) (h : Executes s b t cl) (hu : Untagged (s.team b t) x.shape)
    (hb : body (s.seen x b t cl) (begun s b t) = .ok ((), v))
    (hs : (v.team b t).parked = false) (hx : (v.team b t).context = (s.team b t).context)
    (hc : (v.team b t).clause = some cl') (_hf : v.focus = s.focus) : Does i s v b t := by
  refine ⟨v.finish b t, cl', ?_, hc, advanced_finish hc⟩
  rw [he, issue_done h hu hb]
  simp [hs, hx]

theorem does_mod {i : Instr} {x : Info} {body : Issue → M Unit} {s : State} {b t : Nat} {cl : Clause} {f : Team → Team}
    (he : ∀ s, exec i s = issue x body s) (h : Executes s b t cl) (hu : Untagged (s.team b t) x.shape) (hf : Keeps f)
    (hb : body (s.seen x b t cl) (begun s b t) = .ok ((), (begun s b t).modTeam b t f)) :
    Does i s (onTeam s b t f) b t := by
  have hl : t < ((begun s b t).block b).teams.length := by
    simp only [begun, State.block_modTeam_teams]; exact s.team_lt h.clause
  have ht : (onTeam s b t f).team b t = f ((begun s b t).team b t) := State.team_modTeam_same _ _ hl
  have hb0 := begun_team s h.clause
  refine does_ok (cl' := cl) he h hu hb ?_ ?_ ?_ rfl
  · show ((onTeam s b t f).team b t).parked = false
    rw [ht]; simp [Team.parked, hf.stall, hb0]
  · show ((onTeam s b t f).team b t).context = _
    rw [ht, hf.context, hb0]; rfl
  · show ((onTeam s b t f).team b t).clause = _
    rw [ht, hf.clause, hb0]; exact h.clause

/-- What a meaning is told of the state it runs in. -/
structure Sees (x : Info) (k : Issue) (s : State) : Prop where
  act : k.act = k.cl.act
  info : k.info = x
  team : k.tm = s.team k.b k.t
  block : k.blk = s.block k.b
  tick : k.tick = s.tick
  last : k.tm.lastIssue = s.tick

theorem sees (s : State) (x : Info) {b t : Nat} {cl : Clause} (h : (s.team b t).clause = some cl) :
    Sees x (s.seen x b t cl) (begun s b t) where
  act := rfl
  info := rfl
  team := rfl
  block := rfl
  tick := rfl
  last := by show ((begun s b t).team b t).lastIssue = s.tick; rw [begun_team s h]; rfl

/-- The effect on the team may be read off what the meaning sees. -/
theorem onTeam_of {i : Instr} {x : Info} {body : Issue → M Unit} {f : Clause → Team → Team → Team}
    (he : ∀ s, exec i s = issue x body s) (hx : x.shape = i.shape) (hf : ∀ cl m, Keeps (f cl m))
    (hb : ∀ (k : Issue) (s : State), Sees x k s → body k s = .ok ((), s.modTeam k.b k.t (f k.cl k.tm)))
    (hv : ∀ cl m n, f cl (m.begin n) = f cl m) : OnTeam i f := by
  intro s b t cl h hu
  rw [← hv cl (s.team b t) s.tick, ← begun_team s h.clause]
  rw [← hx] at hu
  exact does_mod he h hu (hf _ _) (hb _ _ (sees s x h.clause))

/-- The same under a condition. -/
theorem onTeamWhen_of {i : Instr} {x : Info} {body : Issue → M Unit} {P : State → Nat → Nat → Clause → Prop}
    {f : Clause → Team → Team → Team}
    (he : ∀ s, exec i s = issue x body s) (hx : x.shape = i.shape) (hf : ∀ cl m, Keeps (f cl m))
    (hb : ∀ s b t cl, Executes s b t cl → P s b t cl →
      body (s.seen x b t cl) (begun s b t) = .ok ((), (begun s b t).modTeam b t (f cl ((begun s b t).team b t))))
    (hv : ∀ cl m n, f cl (m.begin n) = f cl m) : OnTeamWhen i P f := by
  intro s b t cl h hu hp
  rw [← hv cl (s.team b t) s.tick, ← begun_team s h.clause]
  rw [← hx] at hu
  exact does_mod he h hu (hf _ _) (hb _ _ _ _ h hp)

theorem modTeam_congr {s : State} {b t : Nat} {f g : Team → Team} (h : f (s.team b t) = g (s.team b t)) :
    s.modTeam b t f = s.modTeam b t g := by
  simp only [State.modTeam, State.modBlock, Block.modTeam]
  rw [show (s.block b).team t = s.team b t from rfl, h]

/-! ## Operands -/

theorem read_reg {k : Issue} {o : Opnd} (h : reg o) (s : State) : k.read o s = .ok (fun l => k.tm.rd o l, s) := by
  cases o <;> first | rfl | exact h.elim

theorem src_regLit {k : Issue} {a : Src} (h : regLit a) (s : State) : k.src a s = .ok (fun l => val k.tm a l, s) := by
  cases a with
  | reg o => exact read_reg h s
  | lit w => rfl

theorem write_reg {k : Issue} {d : Opnd} (h : reg d) (f : Nat → Word) (s : State) :
    k.write d f s = .ok ((), s.modTeam k.b k.t fun m => m.wr d k.act f) := by
  cases d <;> first | rfl | exact h.elim

theorem writePair_eq {k : Issue} {d : Opnd} (f : Nat → DWord) (s : State) :
    k.writePair d f s = .ok ((), s.modTeam k.b k.t fun m => (m.wr d k.act fun l => low (f l)).wr d k.act (fun l => high (f l)) 1) :=
  rfl

/-! ## Shapes -/

theorem alu1_ok {k : Issue} {d : Opnd} {a : Src} (hd : reg d) (ha : regLit a) (f : Word → Word) (s : State) :
    alu1 k d a f s = .ok ((), s.modTeam k.b k.t fun m => m.wr d k.act fun l => f (val k.tm a l)) := by
  rw [alu1, run_ok (src_regLit ha s), write_reg hd]

theorem alu2_ok {k : Issue} {d a : Opnd} {b : Src} (hd : reg d) (ha : reg a) (hb : regLit b) (f : Word → Word → Word) (s : State) :
    alu2 k d a b f s = .ok ((), s.modTeam k.b k.t fun m => m.wr d k.act fun l => f (k.tm.rd a l) (val k.tm b l)) := by
  rw [alu2, run_ok (read_reg ha s), run_ok (src_regLit hb s), write_reg hd]

theorem alu3_ok {k : Issue} {d a : Opnd} {b : Src} (hd : reg d) (ha : reg a) (hb : regLit b) (f : Word → Word → Word → Word) (s : State) :
    alu3 k d a b f s =
      .ok ((), s.modTeam k.b k.t fun m => m.wr d k.act fun l => f (k.tm.rd a l) (val k.tm b l) (k.tm.rd d l)) := by
  rw [alu3, run_ok (read_reg ha s), run_ok (src_regLit hb s), write_reg hd]

theorem aluWWW_ok {k : Issue} {d a : Opnd} {b : Src} (f : DWord → DWord → DWord) (s : State) :
    aluWWW k d a b f s = .ok ((), s.modTeam k.b k.t fun m =>
      (m.wr d k.act fun l => low (f (pair k.tm a l) (valW k.tm b l))).wr d k.act (fun l => high (f (pair k.tm a l) (valW k.tm b l))) 1) := by
  cases b <;> rfl

theorem aluWRR_ok {k : Issue} {d a : Opnd} {b : Src} (ha : reg a) (hb : regLit b) (f : Word → Word → DWord) (s : State) :
    aluWRR k d a b f s = .ok ((), s.modTeam k.b k.t fun m =>
      (m.wr d k.act fun l => low (f (k.tm.rd a l) (val k.tm b l))).wr d k.act (fun l => high (f (k.tm.rd a l) (val k.tm b l))) 1) := by
  rw [aluWRR, run_ok (read_reg ha s), run_ok (src_regLit hb s), writePair_eq]

theorem aluWWR_ok {k : Issue} {d a : Opnd} {b : Src} (hb : regLit b) (f : DWord → Word → DWord) (s : State) :
    aluWWR k d a b f s = .ok ((), s.modTeam k.b k.t fun m =>
      (m.wr d k.act fun l => low (f (pair k.tm a l) (val k.tm b l))).wr d k.act (fun l => high (f (pair k.tm a l) (val k.tm b l))) 1) := by
  rw [aluWWR, run_ok (src_regLit hb s), writePair_eq]; rfl

theorem cmp2_ok {k : Issue} {p : Fin 8} {a : Opnd} {b : Src} (ha : reg a) (hb : regLit b) (f : Word → Word → Bool) (s : State) :
    cmp2 k p a b f s = .ok ((), s.modTeam k.b k.t fun m =>
      m.setP p.val ((m.p p.val &&& ~~~k.act) ||| (maskOf (fun l => f (k.tm.rd a l) (val k.tm b l)) &&& k.act))) := by
  rw [cmp2, run_ok (read_reg ha s), run_ok (src_regLit hb s)]; rfl

/-! ## Floating-point results -/

theorem keeps_counts (p : Bool) : Keeps (counts p) := by
  constructor <;> intro m <;> simp only [counts] <;> split <;> rfl

theorem after_eq (k : Issue) (d : Opnd) (f : Nat → FRes) (s : State) (h : ∀ l, (f l).invq = false) :
    k.after d f s = .ok ((), s.modTeam k.b k.t (counts ((k.computing d).any fun l => (f l).draws != 0))) := by
  have h1 : ((k.computing d).any fun l => (f l).invq) = false := by simp [h]
  simp only [Issue.after, h1, Bool.false_eq_true, if_false]
  rfl

theorem computing_eq {k : Issue} (h : k.act = k.cl.act) (d : Opnd) : k.computing d = computed k.cl d := by
  simp only [Issue.computing, computed, Issue.lanes, h]

theorem writeF_ok {k : Issue} {d : Opnd} {s : State} (h : k.act = k.cl.act) (hd : reg d) (g : Team → Nat → Nat × Nat) {f : Nat → FRes}
    (hf : f = fun l => { lo := BitVec.ofNat 32 (g k.tm l).1, draws := (g k.tm l).2 }) :
    k.writeF d f s = .ok ((), s.modTeam k.b k.t (writesDrawn d g k.cl k.tm)) := by
  subst hf
  rw [Issue.writeF, run_ok (write_reg hd _ s), after_eq _ _ _ _ fun _ => rfl, State.modTeam_modTeam, h, computing_eq h]
  rfl

theorem low_append (x y : Word) : low (x ++ y) = y := by
  apply BitVec.eq_of_getLsbD_eq; intro i hi
  rw [low, BitVec.getLsbD_setWidth, BitVec.getLsbD_append]
  simp [hi]
theorem high_append (x y : Word) : high (x ++ y) = x := by
  apply BitVec.eq_of_getLsbD_eq; intro i hi
  rw [high, BitVec.getLsbD_setWidth, BitVec.getLsbD_ushiftRight, BitVec.getLsbD_append]
  simp [hi]

theorem writeF2_ok {k : Issue} {d : Opnd} {s : State} (h : k.act = k.cl.act) (g : Team → Nat → Nat × Nat) {f : Nat → FRes}
    (hf : f = fun l => { lo := BitVec.ofNat 32 (g k.tm l).1, hi := BitVec.ofNat 32 ((g k.tm l).1 / 2 ^ 32), draws := (g k.tm l).2 }) :
    k.writeF2 d f s = .ok ((), s.modTeam k.b k.t (writesDrawnPair d g k.cl k.tm)) := by
  subst hf
  rw [Issue.writeF2, run_ok (writePair_eq _ s), after_eq _ _ _ _ fun _ => rfl, State.modTeam_modTeam, h, computing_eq h]
  have e1 : ∀ x y : Word, low (x ++ y) = y := by
    intro x y; exact low_append x y
  have e2 : ∀ x y : Word, high (x ++ y) = x := by
    intro x y; exact high_append x y
  simp only [e1, e2]
  rfl

/-- Rounding to nearest even or down asks for no draw. -/
theorem rnd_nearest (f : FFmt) (v : Val) (sat : Bool) (a b : Nat) : f.rnd v 0 sat a = f.rnd v 0 sat b := by cases v <;> rfl
theorem rnd_down (f : FFmt) (v : Val) (sat : Bool) (a b : Nat) : f.rnd v 2 sat a = f.rnd v 2 sat b := by cases v <;> rfl

/-! ## Tracked instructions -/

theorem keeps_starts (setB : Bool) (o : Clause → Team → Op) (cl : Clause) (m : Team) : Keeps (starts setB o cl m) :=
  ⟨fun _ => rfl, fun _ => rfl, fun _ => rfl⟩

theorem start_ok {x : Info} {k : Issue} {s : State} (h : Sees x k s) {setB : Bool} (ht : x.track = if setB then .b else .a) (o : Op) :
    k.start o s = .ok ((), s.modTeam k.b k.t (starts setB (fun _ _ => o) k.cl k.tm)) := by
  show Except.ok ((), _) = _
  congr 2
  apply modTeam_congr
  have hf : k.flag = flagOf setB k.cl := by
    simp only [Issue.flag, h.info, ht, flagOf, flagField]; cases setB <;> rfl
  have hl : (s.team k.b k.t).lastIssue = k.tick := by rw [← h.team, h.last, h.tick]
  simp only [starts, hf, h.act, hl, Issue.pc]
  cases flagOf setB k.cl <;> rfl

theorem writesOf_eq {x : Info} {k : Issue} {s : State} (h : Sees x k s) (d : Opnd) (n : Nat) (f : Nat → Nat → Word) :
    k.writesOf d n f = owed k.cl d n f := by
  simp only [Issue.writesOf, owed, Issue.lanes, h.act, writeKey, Nat.add_zero]

theorem startValue_ok {x : Info} {k : Issue} {s : State} (h : Sees x k s) (ht : x.track = .a) (d : Opnd) (n : Nat) (g : Team → Nat → Nat → Word) :
    k.startValue d n (g k.tm) s = .ok ((), s.modTeam k.b k.t (startsValue d n g k.cl k.tm)) := by
  rw [Issue.startValue, start_ok h (setB := false) ht, writesOf_eq h]; rfl

/-! ## Meanings of the shapes, for any function -/

theorem onTeam_alu1 {i : Instr} {x : Info} {d : Opnd} {a : Src} {f : Word → Word}
    (he : ∀ s, exec i s = issue x (fun k => alu1 k d a f) s) (hx : x.shape = i.shape) (hd : reg d) (ha : regLit a) :
    OnTeam i fun cl m n => n.wr d cl.act fun l => f (val m a l) :=
  onTeam_of he hx (fun _ _ => keeps_wr _ _ _) (fun k s hk => by rw [← hk.act]; exact alu1_ok hd ha f s) (fun cl m n => by cases a <;> rfl)

theorem onTeam_alu2 {i : Instr} {x : Info} {d a : Opnd} {b : Src} {f : Word → Word → Word}
    (he : ∀ s, exec i s = issue x (fun k => alu2 k d a b f) s) (hx : x.shape = i.shape) (hd : reg d) (ha : reg a) (hb : regLit b) :
    OnTeam i fun cl m n => n.wr d cl.act fun l => f (m.rd a l) (val m b l) :=
  onTeam_of he hx (fun _ _ => keeps_wr _ _ _) (fun k s hk => by rw [← hk.act]; exact alu2_ok hd ha hb f s)
    (fun cl m n => by cases b <;> rfl)

theorem onTeam_alu3 {i : Instr} {x : Info} {d a : Opnd} {b : Src} {f : Word → Word → Word → Word}
    (he : ∀ s, exec i s = issue x (fun k => alu3 k d a b f) s) (hx : x.shape = i.shape) (hd : reg d) (ha : reg a) (hb : regLit b) :
    OnTeam i fun cl m n => n.wr d cl.act fun l => f (m.rd a l) (val m b l) (m.rd d l) :=
  onTeam_of he hx (fun _ _ => keeps_wr _ _ _) (fun k s hk => by rw [← hk.act]; exact alu3_ok hd ha hb f s)
    (fun cl m n => by cases b <;> rfl)

theorem onTeam_pair {i : Instr} {x : Info} {body : Issue → M Unit} {d : Opnd} {f : Team → Nat → DWord}
    (he : ∀ s, exec i s = issue x body s) (hx : x.shape = i.shape)
    (hb : ∀ (k : Issue) (s : State), body k s = .ok ((), s.modTeam k.b k.t fun m =>
      (m.wr d k.act fun l => low (f k.tm l)).wr d k.act (fun l => high (f k.tm l)) 1))
    (hv : ∀ m n, f (m.begin n) = f m) :
    OnTeam i fun cl m n => (n.wr d cl.act fun l => low (f m l)).wr d cl.act (fun l => high (f m l)) 1 :=
  onTeam_of he hx (fun _ _ => (keeps_wr _ _ _).comp (keeps_wr _ _ _ _)) (fun k s hk => by rw [← hk.act]; exact hb k s)
    (fun cl m n => by rw [hv])

theorem onTeam_pred {i : Instr} {x : Info} {body : Issue → M Unit} {p : Nat} {f : Half → Team → Nat → Bool}
    (he : ∀ s, exec i s = issue x body s) (hx : x.shape = i.shape)
    (hb : ∀ (k : Issue) (s : State), body k s = .ok ((), s.modTeam k.b k.t fun m =>
      m.setP p ((m.p p &&& ~~~k.act) ||| (maskOf (f k.act k.tm) &&& k.act))))
    (hv : ∀ a m n, f a (m.begin n) = f a m) :
    OnTeam i fun cl m n => n.setP p ((n.p p &&& ~~~cl.act) ||| (maskOf (f cl.act m) &&& cl.act)) :=
  onTeam_of he hx (fun _ _ => keeps_setP _ _) (fun k s hk => by rw [← hk.act]; exact hb k s) (fun cl m n => by rw [hv])

/-- The same effect in other words. -/
theorem onTeam_congr1 {i : Instr} {d : Opnd} {a : Src} {f : Word → Word}
    (g : Word → Word) (e : ∀ x, g x = f x)
    (h : OnTeam i fun cl m n => n.wr d cl.act fun l => f (val m a l)) :
    OnTeam i fun cl m n => n.wr d cl.act fun l => g (val m a l) := by
  rw [show g = f from funext e]; exact h
theorem onTeam_congr2 {i : Instr} {d a : Opnd} {b : Src} {f : Word → Word → Word}
    (g : Word → Word → Word) (e : ∀ x y, g x y = f x y)
    (h : OnTeam i fun cl m n => n.wr d cl.act fun l => f (m.rd a l) (val m b l)) : OnTeam i fun cl m n => n.wr d cl.act fun l => g (m.rd a l) (val m b l) := by
  rw [show g = f from funext fun x => funext (e x)]; exact h
theorem onTeam_congr3 {i : Instr} {d a : Opnd} {b : Src} {f : Word → Word → Word → Word}
    (g : Word → Word → Word → Word) (e : ∀ x y z, g x y z = f x y z)
    (h : OnTeam i fun cl m n => n.wr d cl.act fun l => f (m.rd a l) (val m b l) (m.rd d l)) :
    OnTeam i fun cl m n => n.wr d cl.act fun l => g (m.rd a l) (val m b l) (m.rd d l) := by
  rw [show g = f from funext fun x => funext fun y => funext (e x y)]; exact h
theorem onTeam_congrW {i : Instr} {d : Opnd} {f : Team → Nat → DWord}
    (g : Team → Nat → DWord) (e : ∀ m l, g m l = f m l)
    (h : OnTeam i fun cl m n => (n.wr d cl.act fun l => low (f m l)).wr d cl.act (fun l => high (f m l)) 1) :
    OnTeam i fun cl m n => (n.wr d cl.act fun l => low (g m l)).wr d cl.act (fun l => high (g m l)) 1 := by
  rw [show g = f from funext fun m => funext (e m)]; exact h

end Sys2Proof.Machine
end

