-- ==== Sys2Proof/Laws/Decode.lean ====
section
/-! SUPPORT. Words built from their fields decode by the row of their opcode: what a proof about decoding cites instead of the
decoder. -/
namespace Sys2Proof

theorem opndOfByte_byteOfOpnd (o : Opnd) : opndOfByte (byteOfOpnd o) = o := by
  cases o with
  | v i => have := i.isLt; simp [opndOfByte, byteOfOpnd, this]
  | s i =>
    have := i.isLt
    simp [opndOfByte, byteOfOpnd, show ¬(96 + i.val < 96) by omega, show 96 + i.val < 128 by omega]
  | pop i =>
    have := i.isLt
    simp [opndOfByte, byteOfOpnd, show ¬(128 + i.val < 96) by omega, show 128 + i.val < 192 by omega]
  | peek i =>
    have := i.isLt
    simp [opndOfByte, byteOfOpnd, show ¬(192 + i.val < 96) by omega, show ¬(192 + i.val < 128) by omega]

theorem byteOfOpnd_lt (o : Opnd) : byteOfOpnd o < 256 := by
  cases o with
  | v i => have := i.isLt; simp [byteOfOpnd]; omega
  | s i => have := i.isLt; simp [byteOfOpnd]; omega
  | pop i => have := i.isLt; simp [byteOfOpnd]; omega
  | peek i => have := i.isLt; simp [byteOfOpnd]; omega

theorem word_toNat {e : Bool} {op x y z : Nat} (ho : op < 128) (hx : x < 256) (hy : y < 256) (hz : z < 256) :
    (word e op x y z).toNat = ((((if e then 128 else 0) + op) * 256 + x) * 256 + y) * 256 + z := by
  unfold word
  rw [BitVec.toNat_ofNat, Nat.mod_eq_of_lt]
  cases e <;> simp <;> omega

theorem fieldsOf_word {e : Bool} {op x y z : Nat} (lit : Word) (ho : op < 128) (hx : x < 256) (hy : y < 256) (hz : z < 256) :
    fieldsOf (word e op x y z) lit = ⟨e, x, y, z, lit⟩ := by
  unfold fieldsOf
  rw [word_toNat ho hx hy hz]
  simp only [Fields.mk.injEq, bit, bits]
  refine ⟨?_, ?_, ?_, ?_, trivial⟩ <;> cases e <;> simp <;> omega

theorem opcode_word {e : Bool} {op x y z : Nat} (ho : op < 128) (hx : x < 256) (hy : y < 256) (hz : z < 256) :
    bits (word e op x y z).toNat 30 24 = op := by
  rw [word_toNat ho hx hy hz]
  cases e <;> simp [bits] <;> omega

/-- The word of an opcode with a row is read by that row, from its fields. -/
theorem decodeWord_word {cls op x y z : Nat} {e : Bool} {lit : Word} {g : Fields → Option Instr}
    (hg : findRow (classRows cls) op = some g) (ho : op < 128) (hx : x < 256) (hy : y < 256) (hz : z < 256) :
    decodeWord cls (word e op x y z) lit = match g ⟨e, x, y, z, lit⟩ with
      | none => .illegal .fields
      | some i => if i.WellFormed then .instr i else .illegal .operands := by
  unfold decodeWord
  rw [opcode_word ho hx hy hz, hg, fieldsOf_word lit ho hx hy hz] <;> rfl

/-! ## What the checks of a clause see is what the decoder answers -/

/-- The rows the checks use and the decoder's rows have the same opcodes, and their answers correspond. -/
def RowsAgree : List (Nat × (Fields → Option Instr)) → List (Nat × (Fields → Option Info)) → Prop
  | [], [] => True
  | a :: r, b :: q => (a.1 = b.1 ∧ ∀ f, b.2 f = (a.2 f).map Instr.info) ∧ RowsAgree r q
  | _, _ => False

theorem rows_agree_find {op : Nat} : ∀ {r : List (Nat × (Fields → Option Instr))} {q : List (Nat × (Fields → Option Info))},
    RowsAgree r q → (findRow r op = none ∧ findRow q op = none) ∨
      ∃ g h, findRow r op = some g ∧ findRow q op = some h ∧ ∀ f, h f = (g f).map Instr.info
  | [], [], _ => .inl ⟨rfl, rfl⟩
  | (k, g) :: r, (j, h) :: q, ⟨⟨hk, hf⟩, hr⟩ => by
    simp only at hk hf
    subst hk
    by_cases e : k = op
    · exact .inr ⟨g, h, by simp [findRow, e], by simp [findRow, e], hf⟩
    · simpa [findRow, e] using rows_agree_find hr
  | [], _ :: _, h => h.elim
  | _ :: _, [], h => h.elim

theorem rows_agree_alu : RowsAgree aluRows aluInfos := by
  unfold aluRows aluInfos
  repeat' apply And.intro
  all_goals first | rfl | trivial | (intro f; simp only [fCblook, fCbset, fCmp, fCvt, fFlag, fNone, fOne, fOneNoD, fPack, fPair, fScan, fTwo, fin?, when?]; first | rfl | ((repeat' split) <;> rfl))

theorem rows_agree_ctrl : RowsAgree ctrlRows ctrlInfos := by
  unfold ctrlRows ctrlInfos
  repeat' apply And.intro
  all_goals first | rfl | trivial | (intro f; simp only [fA, fBr, fBra, fIdx, fIdx16, fIdx8, fIdxCount, fIdxO, fIdxSrc, fIdxSrc16, fIdxSrc8, fNone, fOne, fOneNoD, fPmov, fPnot, fPred, fin?, when?]; first | rfl | ((repeat' split) <;> rfl))

theorem rows_agree_mem : RowsAgree memRows memInfos := by
  unfold memRows memInfos
  repeat' apply And.intro
  all_goals first | rfl | trivial | (intro f; simp only [fD, fFence, fMem, fNone, fOneNoD, fPref, fThree, fTwo, when?]; first | rfl | ((repeat' split) <;> rfl))

theorem rows_agree_mtx : RowsAgree mtxRows mtxInfos := by
  unfold mtxRows mtxInfos
  repeat' apply And.intro
  all_goals first | rfl | trivial | (intro f; simp only [fIdx, fIdx16, fMaddq, fMdecomp, fMload, fMloop, fMma, fMmovq, fMscale, fMstamp, fMstore, fMtc, fMzero, fNone, fQQ, fin?, pitch?, qsrc, when?]; first | rfl | ((repeat' split) <;> rfl))

theorem rows_agree_async : RowsAgree asyncRows asyncInfos := by
  unfold asyncRows asyncInfos
  repeat' apply And.intro
  all_goals first | rfl | trivial | (intro f; simp only [fA, fOne, fOneNoD, fRendez, fStamp, fTwo, fTwoNoD, fin?, when?]; first | rfl | ((repeat' split) <;> rfl))

theorem rows_agree_task : RowsAgree taskRows taskInfos := by
  unfold taskRows taskInfos
  repeat' apply And.intro
  all_goals first | rfl | trivial | (intro f; simp only [fD, fFlag, fOneNoD, fQstat, fTwo, fTwoNoD, fin?, when?]; first | rfl | ((repeat' split) <;> rfl))

theorem rows_agree_gfx : RowsAgree gfxRows gfxInfos := by
  unfold gfxRows gfxInfos
  repeat' apply And.intro
  all_goals first | rfl | trivial | (intro f; simp only [fOne, fOneNoD, fPair, fThree, fTrstat, fTwo, when?]; first | rfl | ((repeat' split) <;> rfl))

theorem rows_agree_sys : RowsAgree sysRows sysInfos := by
  unfold sysRows sysInfos
  repeat' apply And.intro
  all_goals first | rfl | trivial | (intro f; simp only [fA, fAOpt, fNone, fOneNoD, fPair, fSrd, fSwr, fThree, fTick, when?]; first | rfl | ((repeat' split) <;> rfl))

theorem rows_agree (cls : Nat) : RowsAgree (classRows cls) (classInfos cls) := by
  unfold classRows classInfos
  split
  · exact rows_agree_alu
  · exact rows_agree_ctrl
  · exact rows_agree_mem
  · exact rows_agree_mtx
  · exact rows_agree_async
  · exact rows_agree_task
  · exact rows_agree_gfx
  · exact rows_agree_sys
  · trivial

theorem infoWord_eq (cls : Nat) (w lit : Word) : infoWord cls w lit = match decodeWord cls w lit with
    | .instr i => some i.info
    | .illegal _ => none := by
  unfold infoWord decodeWord
  rcases rows_agree_find (op := bits w.toNat 30 24) (rows_agree cls) with ⟨h, h'⟩ | ⟨g, h, hg, hh, he⟩
  · simp [h, h']
  · rw [hg, hh]
    simp only [he]
    cases g (fieldsOf w lit) with
    | none => rfl
    | some i =>
      simp only [Option.map]
      by_cases hi : i.WellFormed = true
      · simp [hi, show i.info.shape.ok = true from hi]
      · simp [hi, show ¬i.info.shape.ok = true from hi]

end Sys2Proof
end

