-- ==== Sys2Proof/Laws/IntFns.lean ====
section
/-! SUPPORT. The integer results in the words of the pseudocode: exact values, narrowed at the end. -/
namespace Sys2Proof.Machine
open Sys2Proof

theorem testBit_bitsBelow (f : Nat → Bool) (n i : Nat) : (bitsBelow f n).testBit i = (decide (i < n) && f i) := by
  induction n with
  | zero => simp [bitsBelow]
  | succ n ih =>
    have hlt : ∀ n, bitsBelow f n < 2 ^ n := by
      intro n
      induction n with
      | zero => simp [bitsBelow]
      | succ n ih => simp only [bitsBelow, b2n, pow_succ]; split <;> omega
    rw [bitsBelow, Nat.testBit_two_pow_mul_add _ (hlt n), ih]
    by_cases h : i < n
    · simp [h, Nat.lt_succ_of_lt h]
    · rw [if_neg h]
      by_cases he : i = n
      · subst he; simp [b2n]; cases f i <;> rfl
      · have h2 : ¬ i < n + 1 := by omega
        have h3 : i - n ≠ 0 := by omega
        simp only [h2, decide_false, Bool.false_and, b2n]
        split
        · rw [show (1 : Nat) = 2 ^ 0 from rfl, Nat.testBit_two_pow]; simpa using Ne.symm h3
        · simp

@[simp] theorem getLsbD_ofBits (n : Nat) (f : Nat → Bool) (i : Nat) : (ofBits n f).getLsbD i = (decide (i < n) && f i) := by
  simp only [ofBits, BitVec.getLsbD_ofNat, testBit_bitsBelow]
  by_cases h : i < n <;> simp [h]

theorem add_word (x y : Word) : BitVec.ofNat 32 (x.toNat + y.toNat) = x + y := by simp [BitVec.ofNat_add]
theorem sub_word (x y : Word) : BitVec.ofInt 32 ((x.toNat : Int) - y.toNat) = x - y := by
  have hy := y.isLt
  apply BitVec.eq_of_toNat_eq
  rw [BitVec.toNat_ofInt, BitVec.toNat_sub]
  omega
theorem mul_word (x y : Word) : BitVec.ofNat 32 (x.toNat * y.toNat) = x * y := by simp [BitVec.ofNat_mul]
theorem addsI_word (x y : Word) : BitVec.ofInt 32 (max (-2147483648) (min 2147483647 (x.toInt + y.toInt))) = addsI x y := by
  simp only [addsI, wrap, clamp, minI32, maxI32]; congr 1; split_ifs <;> omega
theorem addsN_word (x y : Word) : BitVec.ofNat 32 (min 4294967295 (x.toNat + y.toNat)) = addsN x y := by
  simp only [addsN]; congr 1; omega
theorem subsI_word (x y : Word) : BitVec.ofInt 32 (max (-2147483648) (min 2147483647 (x.toInt - y.toInt))) = subsI x y := by
  simp only [subsI, wrap, clamp, minI32, maxI32]; congr 1; split_ifs <;> omega
theorem subsN_word (x y : Word) : (if x.toNat < y.toNat then 0 else BitVec.ofNat 32 (x.toNat - y.toNat)) = subsN x y := by
  simp only [subsN]; split
  · rw [Nat.sub_eq_zero_of_le (by omega)]; rfl
  · rfl
theorem mulhN_word (x y : Word) : BitVec.ofNat 32 (x.toNat * y.toNat / 4294967296) = mulhN x y := by
  have hx := x.isLt
  have hy := y.isLt
  apply BitVec.eq_of_toNat_eq
  simp only [mulhN, BitVec.toNat_setWidth, BitVec.toNat_ushiftRight, BitVec.toNat_mul, BitVec.toNat_ofNat, Nat.shiftRight_eq_div_pow]
  rw [Nat.mod_eq_of_lt (a := x.toNat) (by omega), Nat.mod_eq_of_lt (a := y.toNat) (by omega)]
  have : x.toNat * y.toNat < 2 ^ 64 := by nlinarith
  rw [Nat.mod_eq_of_lt this]
theorem mulhI_word (x y : Word) : BitVec.ofInt 32 (x.toInt * y.toInt / 4294967296) = mulhI x y := by
  have e : x.signExtend 64 * y.signExtend 64 = BitVec.ofInt 64 (x.toInt * y.toInt) := by
    rw [BitVec.signExtend, BitVec.signExtend, ← BitVec.ofInt_mul]
  apply BitVec.eq_of_toNat_eq
  rw [mulhI, e]
  simp only [BitVec.toNat_setWidth, BitVec.toNat_ushiftRight, BitVec.toNat_ofInt, Nat.shiftRight_eq_div_pow]
  omega
theorem minI_word (x y : Word) : (if x.toInt ≤ y.toInt then x else y) = minI x y := by
  simp only [minI, BitVec.slt]; split <;> split <;> simp_all <;> first | omega | (apply BitVec.eq_of_toInt_eq; omega)
theorem maxI_word (x y : Word) : (if x.toInt ≤ y.toInt then y else x) = maxI x y := by
  simp only [maxI, BitVec.slt]; split <;> split <;> simp_all <;> first | omega | (apply BitVec.eq_of_toInt_eq; omega)
theorem minN_word (x y : Word) : (if x.toNat ≤ y.toNat then x else y) = minN x y := by
  simp only [minN, BitVec.lt_def]; split <;> split <;> first | rfl | omega | (apply BitVec.eq_of_toNat_eq; omega)
theorem maxN_word (x y : Word) : (if x.toNat ≤ y.toNat then y else x) = maxN x y := by
  simp only [maxN, BitVec.lt_def]; split <;> split <;> first | rfl | omega | (apply BitVec.eq_of_toNat_eq; omega)
theorem shl_word (x y : Word) : BitVec.ofNat 32 (x.toNat * 2 ^ (y.toNat % 256)) = shl x y := by
  apply BitVec.eq_of_toNat_eq
  simp [shl, shCount8, Nat.shiftLeft_eq]
theorem shrn_word (x y : Word) : BitVec.ofNat 32 (x.toNat / 2 ^ (y.toNat % 256)) = shrn x y := by
  apply BitVec.eq_of_toNat_eq
  simp only [shrn, shCount8, BitVec.toNat_ushiftRight, BitVec.toNat_ofNat, Nat.shiftRight_eq_div_pow]
  exact Nat.mod_eq_of_lt (lt_of_le_of_lt (Nat.div_le_self _ _) x.isLt)
theorem shra_word (x y : Word) : BitVec.ofInt 32 (x.toInt / 2 ^ min (y.toNat % 256) 31) = shra x y := by
  apply BitVec.eq_of_toInt_eq
  rw [shra, BitVec.toInt_sshiftRight, Int.shiftRight_eq_div_pow, BitVec.toInt_ofInt, shCount8]
  have h1 := x.toInt_lt
  have h2 := x.le_toInt
  have hp : (1 : Int) ≤ 2 ^ min (y.toNat % 256) 31 := one_le_pow₀ (by norm_num)
  have h3 : x.toInt / 2 ^ min (y.toNat % 256) 31 < 2 ^ 31 := by
    apply Int.ediv_lt_of_lt_mul (by omega); simp only [Nat.reduceSub] at h1; nlinarith
  have h4 : -2 ^ 31 ≤ x.toInt / 2 ^ min (y.toNat % 256) 31 := by
    apply Int.le_ediv_of_mul_le (by omega); simp only [Nat.reduceSub] at h2; nlinarith
  rw [Int.bmod_eq_of_le] <;> push_cast <;> omega
theorem rotl_word (x y : Word) : x.rotateLeft (y.toNat % 256) = rotl x y := by
  rw [rotl, shCount8, BitVec.rotateLeft_mod_eq_rotateLeft]
theorem bfxI_word (x y : Word) :
    (let k := min (y.toNat / 256 % 256) 32
     let f := (x.signExtend 64).toNat / 2 ^ min (y.toNat % 256) 32 % 2 ^ k
     BitVec.ofInt 32 (if k = 0 then 0 else if f < 2 ^ (k - 1) then (f : Int) else f - 2 ^ k)) = bfxI x y := by
  show (let k := fieldK y
        let f := (x.signExtend 64).toNat / 2 ^ fieldO y % 2 ^ k
        BitVec.ofInt 32 (if k = 0 then 0 else if f < 2 ^ (k - 1) then (f : Int) else f - 2 ^ k)) = _
  by_cases h : fieldK y = 0
  · simp [bfxI, h]
  · simp only [bfxI, h, if_false, wrap, sext, Nat.mod_mod, Nat.cast_pow, Nat.cast_ofNat]

theorem bit_word (x : Word) (i : Nat) : bit x.toNat i = x.getLsbD i := by
  rw [bit, BitVec.getLsbD, Nat.testBit_eq_decide_div_mod_eq]; rfl
theorem popc_word (x : Word) : BitVec.ofNat 32 ((List.range 32).filter x.getLsbD).length = popc x := by
  simp only [popc, popcount]; congr 4; funext i; rw [bit_word]
theorem clz_word (x : Word) : BitVec.ofNat 32 (if x = 0 then 32 else 31 - Nat.log2 x.toNat) = clz x := by
  simp only [clz, bitLen]
  have : x = 0 ↔ x.toNat = 0 := ⟨fun h => by rw [h]; rfl, fun h => BitVec.eq_of_toNat_eq h⟩
  by_cases h : x = 0
  · rw [if_pos h, if_pos (this.mp h)]
  · rw [if_neg h, if_neg (fun hc => h (this.mpr hc))]; congr 1; omega
theorem bfi_word (x y z : Word) :
    (let o := min (y.toNat % 256) 32
     let k := min (y.toNat / 256 % 256) 32
     (ofBits 32 fun i => if o ≤ i ∧ i < o + k then x.getLsbD (i - o) else z.getLsbD i : Word)) = bfi x y z := by
  simp only [bfi, fieldO, fieldK]
  generalize min (y.toNat % 256) 32 = o
  generalize min (y.toNat / 256 % 256) 32 = k
  apply BitVec.eq_of_getLsbD_eq
  intro i hi
  simp only [getLsbD_ofBits, hi, decide_true, Bool.true_and, BitVec.getLsbD_or, BitVec.getLsbD_and, BitVec.getLsbD_not,
    BitVec.getLsbD_ofNat, Nat.testBit_mul_two_pow, Nat.testBit_two_pow_sub_one, Nat.testBit_mod_two_pow]
  by_cases h1 : o ≤ i
  · have e : (i < o + k) = (i - o < k) := by apply propext; omega
    by_cases h2 : i - o < k <;> simp [h1, h2, e, BitVec.getLsbD]
  · simp [h1]
theorem idot4_word (x y z : Word) :
    BitVec.ofInt 32 ((z.toNat : Int) +
      (((List.range 4).map fun i => (x.extractLsb' (8 * i) 8).toInt * (y.extractLsb' (8 * i) 8).toInt).sum)) = idot4 x y z := by
  have e : ∀ (w : Word) (i : Nat), (w.extractLsb' (8 * i) 8).toInt = sext (w.toNat / 256 ^ i) 8 := by
    intro w i
    rw [BitVec.toInt_eq_toNat_cond, BitVec.extractLsb'_toNat, sext, Nat.shiftRight_eq_div_pow, pow_mul]
    norm_num
    split <;> split <;> first | rfl | omega
  simp only [idot4, wrap, e]
  congr 1
  simp [List.range, List.range.loop]; ring

theorem abs_word (x : Word) : BitVec.ofInt 32 x.toInt.natAbs = absW x := by
  rw [absW]
  have h1 := x.toInt_lt
  have h2 := x.le_toInt
  split
  · rename_i h
    have hs : x.toInt < 0 := by simpa [BitVec.slt] using h
    rw [Int.ofNat_natAbs_of_nonpos (by omega), BitVec.ofInt_neg, BitVec.ofInt_toInt]
  · rename_i h
    have hs : 0 ≤ x.toInt := by simpa [BitVec.slt] using h
    rw [Int.natAbs_of_nonneg hs, BitVec.ofInt_toInt]
theorem neg_word (x : Word) : BitVec.ofInt 32 (-x.toNat) = -x := by
  rw [BitVec.ofInt_neg]; congr 1; simp

theorem mulwN_word (x y : Word) : BitVec.ofNat 64 (x.toNat * y.toNat) = mulwN x y := by
  apply BitVec.eq_of_toNat_eq; simp [mulwN]
theorem mulwI_word (x y : Word) : BitVec.ofInt 64 (x.toInt * y.toInt) = mulwI x y := by
  rw [mulwI, BitVec.signExtend, BitVec.signExtend, ← BitVec.ofInt_mul]
theorem shlW_word (x : DWord) (y : Word) : BitVec.ofNat 64 (x.toNat * 2 ^ (y.toNat % 256)) = shlW x y := by
  apply BitVec.eq_of_toNat_eq
  simp [shlW, shCount8, Nat.shiftLeft_eq]
theorem shrnW_word (x : DWord) (y : Word) : BitVec.ofNat 64 (x.toNat / 2 ^ (y.toNat % 256)) = shrnW x y := by
  apply BitVec.eq_of_toNat_eq
  simp only [shrnW, shCount8, BitVec.toNat_ushiftRight, BitVec.toNat_ofNat, Nat.shiftRight_eq_div_pow]
  exact Nat.mod_eq_of_lt (lt_of_le_of_lt (Nat.div_le_self _ _) x.isLt)
theorem lea_word (n : Nat) (x : DWord) (y : Word) : BitVec.ofInt 64 (x.toNat + n * y.toInt) = lea n x y := by
  rw [lea, BitVec.ofInt_add, BitVec.ofInt_mul, BitVec.signExtend, BitVec.mul_comm]
  simp

theorem imad_word (x y z : Word) : BitVec.ofNat 32 (x.toNat * y.toNat + z.toNat) = x * y + z := by
  rw [BitVec.ofNat_add, mul_word, BitVec.ofNat_toNat, BitVec.setWidth_eq]

end Sys2Proof.Machine
end

