-- ==== Sys2Proof/Tests/Slice0.lean ====
section
/-! SUPPORT. Small checks of the model's own work: what the well-formedness checks refuse, words written out from the spec's
encodings, results of the spec's worked examples, and for each statement a state and operands that meet its hypotheses. -/
namespace Sys2Proof.Tests
open Sys2Proof Sys2Proof.Machine Sys2Proof.Claim

/-! ## Well-formedness: each check refuses -/

theorem test_ill_file : (Instr.argmax (.s 1) (.v 2)).WellFormed = false := by decide
theorem test_ill_align : (Instr.iaddW (.v 3) (.v 2) (.reg (.v 4))).WellFormed = false := by decide
theorem test_ill_beyond : (Instr.fork (.s 30) (.reg (.s 31))).WellFormed = true ∧ (Instr.jobcard (.s 31) (.reg (.s 1))).WellFormed = true ∧
    (Instr.stampOpen (.s 30)).WellFormed = false := by decide
theorem test_ill_channel_pair : (Instr.iaddW (.v 2) (.pop 1) (.reg (.v 4))).WellFormed = false := by decide
theorem test_ill_peek_destination : (Instr.iadd (.peek 1) (.v 1) (.reg (.v 2))).WellFormed = false := by decide
theorem test_ill_uniform : (Instr.iadd (.s 1) (.v 1) (.reg (.s 2))).WellFormed = false := by decide
theorem test_ill_extra : (Instr.fence 7 1 1).WellFormed = false ∧ (Instr.rdig true (.v 1) (.v 2) (.reg (.v 3))).WellFormed = false := by decide
theorem test_well_formed : (Instr.iadd (.v 1) (.pop 1) (.reg (.v 2))).WellFormed = true := by decide
theorem test_window : (Instr.ldgB128 (.v 20) (.s 2) (.lit 0 0)).inWindow 24 = true ∧
    (Instr.ldgB128 (.v 20) (.s 2) (.lit 0 0)).inWindow 16 = false := by decide

/-! ## Decoding: words written from the encodings, a family each (02 R44-R51, R68) -/

theorem test_decode_alu : decodeWord 0 0x02050661 0 = .instr (.iadd (.v 5) (.v 6) (.reg (.s 1))) := rfl
theorem test_decode_alu_literal : decodeWord 0 0x82050600 7 = .instr (.iadd (.v 5) (.v 6) (.lit 7)) := rfl
theorem test_decode_rank : decodeWord 0 0x7C050300 0 = .instr (.rank (.v 5) (.v 3)) := rfl
theorem test_decode_ctrl : decodeWord 1 0x12036200 0 = .instr (.barrive 3 (.reg 2)) := rfl
theorem test_decode_mem : decodeWord 2 0x04086400 0 = .instr (.ldgB32 (.v 8) (.s 4) (.reg (.v 0))) := rfl
theorem test_decode_mtx : decodeWord 3 0x08018203 0 = .instr (.mma 1 true 2 false 3) := rfl
theorem test_decode_async : decodeWord 4 0x0D006112 0 = .instr (.stampEv 2 (.reg (.s 1))) := rfl
theorem test_decode_task : decodeWord 5 0x80626101 0x40 = .instr (.qpop true (.s 2) (.s 1) (.lit 0x40)) := rfl
theorem test_decode_gfx : decodeWord 6 0x18040861 0 = .instr (.tex (.v 4) (.v 8) (.s 1)) := rfl
theorem test_decode_sys : decodeWord 7 0x03620001 0 = .instr (.tickC (.s 2)) := rfl
theorem test_unassigned : decodeWord 0 0x6D000000 0 = .illegal .unassigned := rfl
theorem test_reserved_field : decodeWord 1 0x06000001 0 = .illegal .fields := rfl
theorem test_table_word : decodeTableWord 32 0x02050661 = some (.iadd (.v 5) (.v 6) (.reg (.s 1))) ∧ decodeTableWord 16 0x0205 = none := ⟨rfl, rfl⟩

/-! ## A small machine -/

/-- A clause of four words at address 4096, all lanes active, flags 0 and 1 named. -/
def cl0 : Clause :=
  { addr := 4096, body := 4100, cls := 0, setA := 0, setB := 1, mask := 0xFFFF, prio := 0, act := 0xFFFF, pc := 4100, words := [0, 0, 0, 0] }
/-- The same clause for lane 0 only, at its last word. -/
def cl1 : Clause := { cl0 with mask := 1, act := 1, words := [0] }
def m0 : Team := { frontier := [⟨4096, 0, 0xFFFF, none⟩], clause := some cl0 }
/-- A page that maps the first 2 MiB to the same physical addresses, and one of lane-private space. -/
def code : Page := { asid := 0, base := 0, size := 2097152, pa := 0, w := true, x := true, h := false, p := false }
def lanePage : Page := { code with size := 2 ^ 56, p := true }
/-- A marked clause of priority 5 stands at 8192, an empty unmarked one at 12288. -/
def memory : List Host.Cell := [(8192, 1), (8196, 5)]
/-- Block 0 in focus. -/
def on (x : Block) : State :=
  { State.reset.setBlock 0 x with focus := some (.team 0 0), mem := memory, cores := [(0, { tlb := [code] })] }
def x0 : Block := { regs := 96, trapvec := 8192, stashSize := 4096, teams := [m0] }
/-- Block 0 with its team changed. -/
def by_ (f : Team → Team) : State := on { x0 with teams := [f m0] }
def s0 : State := on x0

theorem executes {x : Block} {cl : Clause} {m : Team} (ht : x.teams = [m]) (hc : m.clause = some cl) (ha : cl.act ≠ 0)
    (hp : m.txs = []) : Executes (on x) 0 0 cl := by
  have hm : (on x).team 0 0 = m := by
    show Block.team x 0 = m
    simp [Block.team, ht]
  refine ⟨rfl, by rw [hm]; exact hc, ha, ?_⟩
  rw [hm]
  have : m.openTx = 0 := by
    have : (fun l => (m.tx l).isSome) = fun _ => false := by
      funext l
      simp [Team.tx, hp, Tab.get]
    simp only [Team.openTx, this]
    rfl
  simp [this]

theorem untagged {m : Team} (h : m.tags = []) (x : Shape) : Untagged m x := fun r _ k _ => by simp [Team.tag, h, Tab.find]
theorem run0 : Executes s0 0 0 cl0 := executes rfl rfl (by decide) rfl
theorem free0 (x : Shape) : Untagged (s0.team 0 0) x := untagged rfl x

/-! ## For each statement, a state and operands that meet its hypotheses -/

theorem test_meets_IntegerTwoSourceResults : Executes s0 0 0 cl0 ∧ Untagged (s0.team 0 0) (Instr.iadd (.v 95) (.s 31) (.lit 0xFFFFFFFF)).shape ∧
    reg (.v 95) ∧ reg (.s 31) ∧ regLit (.lit 0xFFFFFFFF) ∧ (Instr.iadd (.v 95) (.s 31) (.lit 0xFFFFFFFF)).WellFormed = true :=
  ⟨run0, free0 _, trivial, trivial, trivial, by decide⟩
theorem test_meets_IntegerOneSourceAndAccumulateResults : Executes s0 0 0 cl0 ∧ Untagged (s0.team 0 0) (Instr.imad (.s 0) (.s 1) (.reg (.s 2))).shape ∧
    Untagged (s0.team 0 0) (Instr.mov (.v 0) (.lit 0)).shape ∧ reg (.s 0) ∧ regLit (.reg (.s 2)) := ⟨run0, free0 _, free0 _, trivial, trivial⟩
theorem test_meets_PairResults : Executes s0 0 0 cl0 ∧ Untagged (s0.team 0 0) (Instr.iaddW (.v 94) (.s 30) (.lit 0x80000000)).shape ∧
    reg (.s 30) ∧ regLit (.lit 0x80000000) := ⟨run0, free0 _, trivial, trivial⟩
theorem test_meets_CompareAndSelectResults : Executes s0 0 0 cl0 ∧ Untagged (s0.team 0 0) (Instr.icmpLtI32 7 (.v 0) (.lit 0)).shape ∧
    Untagged (s0.team 0 0) (Instr.selP 7 (.s 0) (.s 1) (.reg (.s 2))).shape ∧ reg (.s 0) ∧ regLit (.lit 0) := ⟨run0, free0 _, free0 _, trivial, trivial⟩
theorem test_meets_LaneCrossingResults : Executes s0 0 0 cl0 ∧ Untagged (s0.team 0 0) (Instr.shflUp (.v 1) (.v 2) (.lit 16)).shape ∧
    Untagged (s0.team 0 0) (Instr.ballot (.v 1) (.v 2)).shape ∧ Untagged (s0.team 0 0) (Instr.rdlane (.v 1) (.v 2) (.reg (.s 0))).shape ∧
    isV (.v 1) = true ∧ isS (.s 0) = true := ⟨run0, free0 _, free0 _, free0 _, rfl, rfl⟩
theorem test_meets_ChannelOperands : Executes s0 0 0 cl0 ∧ reg (.v 1) ∧ regLit (.lit 0) ∧
    (chanPop (s0.issueOf (Instr.iadd (.v 1) (.pop 0) (.lit 0)).info 0 0 cl0) 0 (begun s0 0 0) =
      .error (.trap .illegal 0 0xFFFF)) := ⟨run0, trivial, trivial, rfl⟩
theorem test_meets_RandomAndModeResults : Executes s0 0 0 cl0 ∧ Untagged (s0.team 0 0) (Instr.rng (.s 1) (.lit 1)).shape ∧
    Untagged (s0.team 0 0) (Instr.modeset (.lit 0xFF)).shape := ⟨run0, free0 _, free0 _⟩
theorem test_meets_FloatArithmeticResults : Executes s0 0 0 cl0 ∧ Untagged (s0.team 0 0) (Instr.ffma (.v 1) (.s 31) (.reg (.s 1))).shape ∧
    Untagged (s0.team 0 0) (Instr.hfma2F16 (.v 1) (.v 2) (.lit 0x3C003C00)).shape ∧
    Untagged (s0.team 0 0) (Instr.dadd (.v 2) (.v 4) (.lit 0x3FF00000)).shape := ⟨run0, free0 _, free0 _, free0 _⟩
theorem test_meets_FloatCompareAndMinMaxResults : Executes s0 0 0 cl0 ∧ Untagged (s0.team 0 0) (Instr.fmin (.v 1) (.v 2) (.lit 0x80000000)).shape ∧
    Untagged (s0.team 0 0) (Instr.fcmpUn 0 (.v 2) (.lit 0x7FC00000)).shape ∧ Untagged (s0.team 0 0) (Instr.dcmpLt 1 (.v 2) (.lit 0)).shape :=
  ⟨run0, free0 _, free0 _, free0 _⟩
theorem test_meets_SpecialFunctionResults : Executes s0 0 0 cl0 ∧ Untagged (s0.team 0 0) (Instr.frcp (.v 1) (.lit 0)).shape ∧
    Untagged (s0.team 0 0) (Instr.fdiv (.v 1) (.v 2) (.lit 0)).shape ∧ Untagged (s0.team 0 0) (Instr.frndRu (.s 1) (.s 2 |> .reg)).shape ∧
    Untagged (s0.team 0 0) (Instr.ffract (.v 1) (.lit 0x7F800000)).shape ∧ Untagged (s0.team 0 0) (Instr.fsat (.v 1) (.lit 0)).shape :=
  ⟨run0, free0 _, free0 _, free0 _, free0 _, free0 _⟩
theorem test_meets_ConversionResults : Executes s0 0 0 cl0 ∧ bookOf s0 0 0 = bookOf s0 0 0 ∧ Untagged (s0.team 0 0) (Instr.cvt (.v 4) (.lit 0) 14 0).shape ∧
    (14 : Fin 16).val ≠ 15 ∧ Untagged (s0.team 0 0) (Instr.pack (.v 4) (.v 8) 7 0).shape ∧ Untagged (s0.team 0 0) (Instr.unpack (.v 4) (.lit 0) 0 7).shape ∧
    Untagged (s0.team 0 0) (Instr.cblook 7 (.v 1) (.v 2 |> .reg)).shape ∧ Untagged (s0.team 0 0) (Instr.cbset 7 7 (.reg (.s 1))).shape :=
  ⟨run0, rfl, free0 _, by decide, free0 _, free0 _, free0 _, free0 _⟩
theorem test_meets_RankingResults : Executes s0 0 0 cl0 ∧ Untagged (s0.team 0 0) (Instr.rdig true (.v 1) (.v 2) (.lit 0x0818)).shape ∧
    (∀ l ∈ lanesOf (0xFFFF : Half), (fun q => if q = 2 then (9 : Word) else 8) l ≠ 0) := ⟨run0, free0 _, by decide⟩

/-- Where a branch finds a marked clause. -/
theorem marked0 : MarkedAt (begun s0 0 0) 0 8192 5 (begun s0 0 0) := rfl
theorem test_meets_BranchesMoveTheirLanes : Executes s0 0 0 cl0 ∧ MarkedAt (begun s0 0 0) 0 8192 5 (begun s0 0 0) ∧
    (begun s0 0 0).marked 0 0 12288 = (.ok none, begun s0 0 0) ∧
    (((cl0.pc : Int) + 4 * (1023 : BitVec 16).toInt) % 18446744073709551616).toNat = 8192 := ⟨run0, rfl, rfl, by decide⟩
def mLane : Team :=
  { m0 with frontier := [⟨4096, 0, 1, none⟩], clause := some cl1, lanePages := [(0, some lanePage)], depth := [(0, 63)], sregs := [(2, 8192)] }
def sLane : State := on { x0 with teams := [mLane] }
theorem test_meets_CallsPushAndReturnsPop : Executes sLane 0 0 cl1 ∧ (sLane.team 0 0).laneOps = false ∧
    (∀ l ∈ lanesOf cl1.act, Tab.get 0 (sLane.team 0 0).depth l < 64 ∧ 16 * (Tab.get 0 (sLane.team 0 0).depth l + 1) ≤ (sLane.block 0).lpsize ∧
      Reaches (begun sLane 0 0) 0 0 l ((sLane.block 0).lpAddr 0 0 l) .laneStore ∧ (pair (sLane.team 0 0) (.s 2) l).toNat = 8192 ∧
      Reaches (begun sLane 0 0) 0 0 l ((sLane.block 0).lpAddr 0 16 l) .laneLoad) := by
  refine ⟨executes rfl rfl (by decide) rfl, rfl, ?_⟩
  intro l hl
  have : l = 0 := by
    have : lanesOf cl1.act = [0] := by decide
    rw [this] at hl
    simpa using hl
  subst this
  exact ⟨by decide, by decide, ⟨lanePage, rfl⟩, by decide, ⟨lanePage, rfl⟩⟩
theorem test_meets_ExitRetiresItsLanes : Executes sLane 0 0 cl1 ∧ cl1.advance.words = [] ∧ cl1.act = cl1.mask ∧
    (sLane.team 0 0).frontier = [⟨4096, 0, 1, none⟩] ∧ (sLane.team 0 0).kept = none ∧ (sLane.team 0 0).view = none ∧
    (sLane.team 0 0).context = .normal ∧ (sLane.team 0 0).haltPending = false :=
  ⟨executes rfl rfl (by decide) rfl, rfl, rfl, rfl, rfl, rfl, rfl, rfl⟩
theorem test_meets_ClauseEndsPlaceTheirLanes : (∀ e ∈ m0.frontier, e.held = none) ∧ cl0.hold = none ∧
    (∀ l, (m0.frontier.filter fun e => e.mask.getLsbD l).length ≤ 1) :=
  ⟨by decide, rfl, fun l => by simp only [m0, List.filter]; split <;> simp⟩
def held0 : Team := { frontier := [⟨8, 3, 1, some 2⟩, ⟨12, 3, 2, none⟩], joins := [(2, ⟨3, 1⟩)] }
theorem test_meets_RejoinMasks : Executes s0 0 0 cl0 ∧ (∀ e ∈ (s0.team 0 0).frontier, e.held ≠ some 15) ∧ (s0.team 0 0).kept = none ∧
    held0.kept = none ∧ (∃ e ∈ held0.frontier, e.held = some 2) ∧ (∀ e ∈ held0.frontier, e.prio ≤ 4095) ∧
    (held0.join 2).expect &&& ~~~(held0.join 2).arrived &&& ~~~held0.retired ≠ 0 := ⟨run0, by decide⟩
theorem test_meets_PredicateLogicResults : Executes s0 0 0 cl0 ∧ (0xFFFF : Word).toNat < 65536 ∧ 65536 ≤ (0x10000 : Word).toNat ∧
    (s0.team 0 0).context ≠ .trap ∧ MarkedAt (onTeam s0 0 0 (noted 1 cl0.pc 0 cl0.pc)) 0 (s0.block 0).trapvec 5 (onTeam s0 0 0 (noted 1 cl0.pc 0 cl0.pc)) :=
  ⟨run0, by decide, by decide, by decide, rfl⟩
/-- Core 0 holds line 0 in its L1, under a lease. -/
def sL1 : State := { s0 with cores := [(0, { tlb := [code], l1 := [(0, { data := [], wts := 0, rts := 5 })] })] }
theorem test_meets_WordsThatOnlyGoOnOrSleep : Executes s0 0 0 cl0 ∧ (begun s0 0 0).fenceOwed 0 0 31 = false ∧ (begun s0 0 0).staleIn 0 4 = false ∧
    sL1.staleIn 0 4 = false ∧ (∃ c k l x, (c, k) ∈ sL1.cores ∧ (l, x) ∈ k.l1 ∧ sL1.inScope 0 4 c = true ∧
      (sL1.homeLine l).writer = (sL1.block 0).asid ∧ (sL1.homeLine l).wts ≤ sL1.pts (sL1.block 0).core ∧ sL1.pts c ≤ x.rts) ∧
    (∀ j x, (j, x) ∈ s0.jobs → False) :=
  ⟨run0, by decide, by decide, by decide, ⟨0, _, 0, _, .head _, .head _, by decide, by decide, by decide, by decide⟩, fun _ _ h => by cases h⟩
theorem test_meets_BarrierWordsReachTheUnit : Executes s0 0 0 cl0 ∧ (s0.block 0).mtx.trap = none ∧ (s0.team 0 0).arrivedAt = none ∧
    1 ≤ (val (s0.team 0 0) (.lit 4095) 0).toNat ∧ (val (s0.team 0 0) (.lit 4095) 0).toNat ≤ 4095 ∧ 4095 < (val (s0.team 0 0) (.lit 4096) 0).toNat ∧
    (val (s0.team 0 0) (.lit 15) 0).toNat = 15 ∧ fwPlain 0x00000000 = true := ⟨run0, rfl, rfl, by decide, by decide, by decide, by decide, by decide⟩
def hitched : State := { on { x0 with hitch := some (9, 0) } with blocks := [(0, { x0 with hitch := some (9, 0) }), (1, { x0 with hitch := some (9, 1) })] }
/-- An access of the team to the other member's stash is on its way. -/
def owing : Op := { id := 0, kind := .load, act := 1, els := [{ lane := 0, va := 16777216, n := 4, place := some (.stash 1 0) }] }
def hitchedOwing : State := { hitched with blocks := [(0, { x0 with hitch := some (9, 0), teams := [{ m0 with ops := [owing] }] })] }
theorem test_meets_Hitches : Executes s0 0 0 cl0 ∧ (s0.block 0).hitch = none ∧ Untagged (s0.team 0 0) (Instr.hitch (.s 5) (.lit 9)).shape ∧
    Untagged (s0.team 0 0) (Instr.hmap (.s 5) (.lit 1)).shape ∧ Untagged (s0.team 0 0) (Instr.barrivePeer 3 (.s 6)).shape ∧
    Executes hitched 0 0 cl0 ∧ (hitched.block 0).hitch = some (9, 0) ∧ (begun hitched 0 0).member 0 1 = some 1 ∧
    (∃ c y, (c, y) ∈ (begun hitched 0 0).blocks ∧ y.hitch = some (9, 1) ∧ y.core / 8 = (hitched.block 0).core / 8) ∧
    (∀ n ∈ (hitched.block 0).teams, n.ops = []) ∧ Executes hitchedOwing 0 0 cl0 ∧ (hitchedOwing.block 0).hitch = some (9, 0) ∧
    (∃ n ∈ (hitchedOwing.block 0).teams, ∃ o ∈ n.ops, ∃ e ∈ o.els, e.done = false ∧ ∃ h p, e.place = some (.stash h p) ∧ h ≠ 0) ∧
    7 < (8 : Word).toNat ∧ (begun hitched 0 0).member 0 7 = none :=
  ⟨run0, rfl, free0 _, free0 _, free0 _, ⟨rfl, rfl, by decide, rfl⟩, rfl, rfl, ⟨1, _, .tail _ (.head _), rfl, rfl⟩, by decide,
    ⟨rfl, rfl, by decide, rfl⟩, rfl, ⟨_, .head _, _, .head _, _, .head _, rfl, 1, 0, rfl, by decide⟩, by decide, rfl⟩

/-- The team in trap context, one register naming block 1's place or an address. -/
def sTrap : State := by_ fun m => { m with context := .trap, recorded := .normal, frontier := [⟨8192, 5, 0xFFFF, none⟩], trapresume := 4100,
                                           kept := some ⟨[⟨4096, 0, 0xFFFF, none⟩], { cl0 with pc := 4108, words := [0, 0] }, 4116⟩ }
theorem runTrap : Executes sTrap 0 0 cl0 := ⟨rfl, rfl, by decide, rfl⟩
theorem freeTrap (x : Shape) : Untagged (sTrap.team 0 0) x := untagged rfl x
def sDebug : State := s0.modSuite 0 fun u => { u with dbgctl := 1, trctl := 0x8000000000000000, trbase := 4096, evq := List.replicate 16 0 }
theorem test_meets_TrapsAndHalts : Executes s0 0 0 cl0 ∧ Untagged (s0.team 0 0) (Instr.trap (.lit 7)).shape ∧ (s0.team 0 0).context ≠ .trap ∧
    MarkedAt (onTeam s0 0 0 (noted 0x10 cl0.pc 7 cl0.advance.pc)) 0 (s0.block 0).trapvec 5 (onTeam s0 0 0 (noted 0x10 cl0.pc 7 cl0.advance.pc)) ∧
    (s0.suite (s0.block 0).suite).dbgctl.getLsbD 0 = false ∧
    Executes sDebug 0 0 cl0 ∧ (sDebug.suite (sDebug.block 0).suite).dbgctl.getLsbD 0 = true :=
  ⟨run0, free0 _, by decide, rfl, rfl, ⟨rfl, rfl, by decide, rfl⟩, rfl⟩
theorem test_meets_TrapReturns : Executes sTrap 0 0 cl0 ∧ (sTrap.team 0 0).context = .trap ∧ (sTrap.team 0 0).haltPending = false ∧
    (sTrap.team 0 0).done = false ∧ (sTrap.team 0 0).recorded ≠ .trap ∧ (sTrap.team 0 0).trapresume.toNat < 4116 ∧
    (∃ ws w, (begun sTrap 0 0).fetchWords 0 0 4100 4 = (.ok ws, w)) ∧
    (∃ k, (sTrap.team 0 0).kept = some k ∧ k.clause.hold = none ∧ (∀ e ∈ k.frontier, e.held = none) ∧ k.clause.body ≤ 4100) :=
  ⟨runTrap, rfl, rfl, rfl, by decide, by decide, ⟨_, _, rfl⟩, ⟨_, rfl, rfl, by decide, by decide⟩⟩
theorem test_meets_TrapReturnsAtTheEnd : (4116 = (⟨[], cl0, 4116⟩ : Kept).next ∧ cl0.body ≤ 4116) ∧
    ¬(cl0.body ≤ 8192 ∧ 8192 ≤ (⟨[], cl0, 4116⟩ : Kept).next) ∧ MarkedAt (begun sTrap 0 0) 0 8192 5 (begun sTrap 0 0) := ⟨by decide, by decide, rfl⟩
theorem test_meets_SpecialRegisterReads : Executes s0 0 0 cl0 ∧ Untagged (s0.team 0 0) (Instr.srd (.s 31) 0x3F).shape ∧ reg (.s 31) ∧
    (0x3F : Byte) = BitVec.ofNat 8 (0x20 + 31) ∧ Untagged (s0.team 0 0) (Instr.srd (.v 94) 0x08).shape := ⟨run0, free0 _, trivial, rfl, free0 _⟩
theorem test_meets_SpecialRegisterWrites : Executes s0 0 0 cl0 ∧ Executes sTrap 0 0 cl0 ∧ (s0.team 0 0).context = .normal ∧
    (sTrap.team 0 0).context ≠ .normal ∧ Untagged (s0.team 0 0) (Instr.swr 0x1F (.lit 0)).shape ∧
    Untagged (sTrap.team 0 0) (Instr.swr 0x1F (.lit 0xFFFFFFFF)).shape := ⟨run0, runTrap, rfl, by decide, free0 _, freeTrap _⟩
theorem test_meets_TimeTranslationsAndEvents : Executes s0 0 0 cl0 ∧ (s0.team 0 0).ops = [] ∧ Executes sTrap 0 0 cl0 ∧
    Untagged (sTrap.team 0 0) (Instr.tlbinv (.s 4) (some (.s 6))).shape ∧ ((sTrap.team 0 0).rd (.s 4) 0).toNat < 8192 ∧
    sTrap.suiteOfAsid 0 = (sTrap.block 0).suite ∧
    ((begun sTrap 0 0).invalidate 0 (some (pair (sTrap.team 0 0) (.s 6) 0).toNat)).asidBusy 0 = false ∧
    (pair (sTrap.team 0 0) (.s 6) 0).toNat % 131072 = 0 ∧ (s0.suite 0).evq.length < 16 ∧ 16 ≤ (sDebug.suite 0).evq.length ∧
    (s0.suite 0).trctl.getLsbD 63 = false ∧ (sDebug.suite 0).trctl.getLsbD 63 = true ∧ (sDebug.suite 0).trlost = 0 :=
  ⟨run0, rfl, runTrap, freeTrap _, by decide, rfl, by decide, by decide, by decide, by decide, rfl, rfl, rfl⟩
/-- Two blocks, the second at place 32 of its core. -/
def sTwo : State := { sTrap with blocks := [(0, sTrap.block 0), (1, { x0 with core := 1, teams := [{ frontier := [⟨4096, 0, 0xFFFF, none⟩] }] })] }
/-- The second is saved at 4096, where no frame stands. -/
def sFramed : State := { sTwo with blocks := [(0, sTrap.block 0), (1, { x0 with core := 1, saved := some 4096 })] }
set_option maxRecDepth 4000 in
theorem test_meets_SaveAndRestoreInstructions : Executes sTrap 0 0 cl0 ∧ Executes s0 0 0 cl0 ∧ (s0.team 0 0).context = .normal ∧
    (sTrap.team 0 0).context ≠ .normal ∧ (pair (sTrap.team 0 0) (.s 6) 0).toNat % 256 = 0 ∧ isS (.s 2) = true ∧
    (begun sTrap 0 0).residents 1 0 = [] ∧ (begun sTwo 0 0).residents 1 0 = [1] ∧ (sTwo.block 1).killed = none ∧ (sTwo.block 1).saving = none ∧
    ((begun sTwo 0 0).modBlock 1 fun y => { y with saving := some 0, frameAsid := 0, forced := true, parked := true }).saveReady 1 = true ∧
    (∃ r w, (begun sFramed 0 0).engRead 0 0 4096 256 = .ok (.ok r, w) ∧ w.frameOwner 0 4096 r = some 1 ∧ frameOk r = false) :=
  ⟨runTrap, run0, rfl, by decide, by decide, rfl, rfl, rfl, rfl, rfl, by decide, ⟨_, _, rfl, rfl, by decide⟩⟩

/-! ## Memory -/

/-- Every entry of core 0's collector is another line's. -/
def sFull : State := { s0 with cores := [(0, { tlb := [code], collector := (List.range 64).map fun i => { line := 1000 + i, const := false, reqs := [] } })] }
theorem notFull : ¬Collects sFull 0 0 [(0, 16)] := by
  rintro (h | h)
  · exact absurd h (by decide)
  · obtain ⟨e, he, hl⟩ := h (0, 16) (by simp) 0 rfl
    exact absurd he (by revert hl; revert e; decide)
theorem test_meets_GlobalAccessesStart : Executes s0 0 0 cl0 ∧ Untagged (s0.team 0 0) (Instr.ldgB128 (.v 20) (.s 2) (.lit 16 0)).shape ∧
    Unwatched (s0.block 0) ∧ InRange 16 ((accessing (uniOff (.s 2) (.lit 16 0)) cl0).map (address (s0.team 0 0) (.s 2) (.lit 16 0))) ∧
    Collects s0 0 0 [(0, 16)] ∧ ¬Collects sFull 0 0 [(0, 16)] ∧ ({ x0 with watchctl := 1 } : Block).watchctl &&& 0xF ≠ 0 ∧
    (2 ^ 56 < address { m0 with sregs := [(2, 0xFFFFFFFD), (3, 0x00FFFFFF)] } (.s 2) (.lit 0 0) 0 + 4) ∧
    address (s0.team 0 0) (.s 2) (.lit 2 0) 0 % 4 ≠ 0 :=
  ⟨run0, free0 _, rfl, by unfold InRange; decide, .inl (by decide), notFull, by decide, by decide, by decide⟩
theorem test_meets_LanePrivateAccessesStart : Executes sLane 0 0 cl1 ∧
    (∀ l ∈ accessing (uniOff (.s 0) (.lit 1008 0)) cl1, address (sLane.team 0 0) (.s 0) (.lit 1008 0) l % 4294967296 + 16 ≤ (sLane.block 0).lpsize ∧
      address (sLane.team 0 0) (.s 0) (.lit 1008 0) l % 4294967296 % 4 = 0) := ⟨⟨rfl, rfl, by decide, rfl⟩, by decide⟩
def sMapped : State := on { x0 with maps := [(3, { va := 65536, line := 8, count := 4 })] }
theorem test_meets_StashAccessesStart : Executes s0 0 0 cl0 ∧ Unwatched (s0.block 0) ∧ ((begun s0 0 0).stashAt 0 4080 16).isSome = true ∧
    (∀ e ∈ (s0.block 0).maps, ¬(e.2.line ≤ 4080 / 128 ∧ 4080 / 128 < e.2.line + e.2.count)) ∧
    (sMapped.block 0).maps = [(3, { va := 65536, line := 8, count := 4 })] ∧ 8 ≤ 1024 / 128 ∧ 1024 / 128 < 8 + 4 ∧
    (s0.core 0).replay - 2 * (s0.tick - (s0.core 0).replayAt) < 32 ∧ 32 ≤ ({ replay := 32 } : Core).replay - 2 * (0 - 0) :=
  ⟨run0, rfl, by decide, by decide, rfl, by decide, by decide, by decide, by decide⟩
theorem test_meets_MapInstructions : Executes s0 0 0 cl0 ∧ Untagged (s0.team 0 0) (Instr.smap (.s 5) (.s 2) (.lit 0x1008)).shape ∧
    0x1008 / 8388608 = 0 ∧ 0x1008 / 2048 % 4096 = 2 ∧ (pair (s0.team 0 0) (.s 2) 0).toNat % 128 = 0 ∧ (8 + 2) * 128 ≤ (s0.block 0).stashSize ∧
    Tab.find (s0.block 0).maps 0 = none ∧ (begun s0 0 0).stashPending 0 8 10 = false ∧ Executes sMapped 0 0 cl0 ∧
    Tab.find (sMapped.block 0).maps 3 = some { va := 65536, line := 8, count := 4 } ∧ (begun sMapped 0 0).stashPending 0 8 12 = false :=
  ⟨run0, free0 _, rfl, rfl, by decide, by decide, rfl, by decide, ⟨rfl, rfl, by decide, rfl⟩, rfl, by decide⟩
theorem test_meets_AtomicsStart : Executes s0 0 0 cl0 ∧ Untagged (s0.team 0 0) (Instr.stage (.v 4) (.s 2) (.lit 32 0)).shape ∧
    Unwatched (s0.block 0) ∧ InRange 32 ((accessing (isS (.v 4)) cl0).map (address (s0.team 0 0) (.s 2) (.lit 32 0))) :=
  ⟨run0, free0 _, rfl, by unfold InRange; decide⟩
def tx0 : Tx := { reg := 7, abortPc := 8192, abortPrio := 5, begun := 0, senior := false }
def sTx : State := on { x0 with teams := [{ m0 with clause := some cl1, txs := [(0, some tx0)], lanePages := [(0, some code)] }] }
theorem test_meets_Transactions : Executes s0 0 0 cl0 ∧ Runs s0 0 0 cl0 ∧ Runs sTx 0 0 cl1 ∧ (∀ l ∈ lanesOf cl0.act, (s0.team 0 0).tx l = none) ∧
    0 ∈ lanesOf cl1.act ∧ (sTx.team 0 0).tx 0 = some tx0 ∧ (∀ q ∈ lanesOf cl1.act, q ≠ 0 → (sTx.team 0 0).tx q = none) ∧
    (sTx.team 0 0).quiet = true ∧ (begun sTx 0 0).locks 0 0 0 tx0 = .free ∧ (begun sTx 0 0).readsHold tx0 = true ∧
    InRange 4 [address (sTx.team 0 0) (.s 2) (.lit 64 0) 0] ∧ cl1.act = laneMask 0 ∧
    (∀ q ∈ tx0.rlines ++ tx0.wlines, (begun sTx 0 0).mayServe q 0 = true) ∧ (∀ h, (Tab.get [] ((begun sTx 0 0).core 0).unacked h).length < 32) ∧
    (∃ pg, (begun sTx 0 0).translateLane 0 0 0 64 .store = (.ok pg, begun sTx 0 0) ∧ pg.place 64 = .dev 64) :=
  ⟨run0, ⟨rfl, rfl, by decide⟩, ⟨rfl, rfl, by decide⟩, by decide, by decide, rfl, by decide, rfl, rfl, rfl, by unfold InRange; decide, by decide,
    by decide, fun _ => Nat.zero_lt_succ _, ⟨code, rfl, rfl⟩⟩

/-! ## The memory system -/

def elem0 : Elem := { lane := 0, va := 64, n := 4, data := 0x01020304 }
def opn (k : OpKind) (e : Elem) : Op := { id := 3, kind := k, act := 1, els := [e] }
def sOp (k : OpKind) (e : Elem) : State := on { x0 with teams := [{ m0 with ops := [opn k e] }] }
def placed : Elem := { elem0 with place := some (.dev 64) }
def inStash (l off : Nat) : Elem := { lane := l, va := off, n := 4, data := 7, place := some (.stash 0 off) }
def stashOp : Op := { id := 3, kind := .load, act := 3, els := [inStash 0 16, inStash 1 20] }
def sLocal : State := on { x0 with teams := [{ m0 with ops := [stashOp] }] }
theorem test_meets_AccessesTranslateAndComplete : (sLocal.team 0 0).op 3 = some stashOp ∧
    sLocal.nextLocal 0 0 stashOp = some (0, inStash 0 16) ∧ stashOp.els[1]? = some (inStash 1 20) ∧ (inStash 1 20).done = false ∧
    ((sOp .load (inStash 0 16)).team 0 0).op 3 = some (opn .load (inStash 0 16)) ∧
    (sOp .load (inStash 0 16)).nextLocal 0 0 (opn .load (inStash 0 16)) = some (0, inStash 0 16) ∧ ((sOp .load elem0).team 0 0).op 3 = some (opn .load elem0) ∧
    (opn .load elem0).indexed.find? (fun x => x.2.place.isNone) = some (0, elem0) ∧ ((sOp .load elem0).block 0).saved = none ∧
    (sOp .load elem0).mayTranslate 0 0 (opn .load elem0) elem0 = true ∧
    (∃ pg w, (sOp .load elem0).translateElem 0 0 (opn .load elem0) elem0 = (.ok pg, w)) ∧
    (∀ e ∈ (opn .load { placed with done := true }).els, e.done = true) ∧
    ((sOp .load { placed with done := true }).team 0 0).op 3 = some (opn .load { placed with done := true }) ∧
    (∃ x, ({ sTx with tick := 65536 }.team 0 0).tx 0 = some x ∧ x.begun + 65536 ≤ 65536) :=
  ⟨rfl, by decide, rfl, rfl, rfl, by decide, rfl, rfl, rfl, by decide, ⟨code, _, rfl⟩, by decide, rfl, ⟨tx0, rfl, by decide⟩⟩
theorem test_meets_HomesPerform : ((sOp .store placed).team 0 0).op 3 = some (opn .store placed) ∧
    ((sOp .store placed).team 0 0).nextStore (opn .store placed) = some (0, placed) ∧ (sOp .store placed).lineHeld placed = true ∧
    (sOp .store placed).elServed 0 placed = true ∧ (sOp .store placed).viaUp placed = true ∧
    placed.place = some (.dev 64) ∧ 64 % 128 + placed.n ≤ 128 ∧ s0.holder 0 = none ∧ Memory.wf s0.mem = true ∧
    ((sOp (.atomic .add false) placed).team 0 0).op 3 = some (opn (.atomic .add false) placed) ∧
    ((sOp (.atomic .add false) placed).team 0 0).earlierTranslated 3 = true ∧ ((sOp (.atomic .add false) placed).team 0 0).earlierFor 3 0xFFFF = true ∧ placed.lane < 16 ∧
    placed.isHost = false ∧ (opn .store placed).uni = false ∧ (opn (.atomic .add false) placed).translated = true ∧ (opn (.atomic .add false) placed).first (fun e => !e.isHost) = some (0, placed) ∧
    (sOp (.atomic .add false) placed).provisionalOn 0 0 = false ∧ (sOp (.atomic .add false) placed).mayServe 0 0 = true ∧
    (∀ z ∈ (opn (.atomic .add false) placed).els, z.done = false → z.via = none ∧ ∃ q, z.place = some (.dev q) ∧ q / 128 = 0) ∧
    (Tab.get [] (((sOp (.atomic .add false) placed).release 0 (homeOfPa 0)).core 0).unacked (homeOfPa 0)).length < 32 ∧ Tab.wf {} s0.cores = true :=
  ⟨rfl, rfl, rfl, by decide, by decide, rfl, by decide, rfl, by decide, rfl, by decide, by decide, by decide, rfl, rfl, by decide, rfl, by decide, by decide, fun z hz _ => by
    obtain rfl : z = placed := by simpa [opn] using hz
    exact ⟨rfl, 64, rfl, rfl⟩, by decide, by decide⟩
theorem test_meets_AtomicResults : (.minI = AtomOp.minI → 0xFFFFFFFF < 4294967296 ∧ 0x80000000 < 4294967296) ∧
    0xFFFFFFFFFFFFFFFF < 2 ^ 64 := by decide
def sent0 : CollEntry := { line := 0, const := false, reqs := [⟨0, 0, 3, 0⟩], state := .sent }
def sSent : State := { sOp .load placed with cores := [(0, { tlb := [code], collector := [sent0] })] }
def homed0 : CollEntry := { sent0 with state := .homed (List.replicate 128 7) [] 0 16 }
theorem test_meets_CollectorSteps : (sOp .load placed).coreReqs 0 0 ≠ [] ∧ (sOp .load placed).sectorMode = false ∧ sent0.opened + 8 ≤ ({ s0 with tick := 8 }).tick ∧
    (sSent.core 0).l1.length < sSent.l1Lines 0 ∧ ((sOp .load placed).core 0).collector.length < 64 ∧
    Tab.find ((sOp .load placed).core 0).l1 0 = none ∧
    (sSent.core 0).collector.find? (fun e => e.line == 0 && e.state == .sent) = some sent0 ∧ sSent.mayServe 0 0 = true ∧ sSent.provisionalOn 0 0 = false ∧
    (∀ q ∈ sent0.reqs, sSent.isFill q = false) ∧ (∀ i < 4, ¬ 0 * 4 + i ∈ sSent.poison) ∧ homed0.state = .homed (List.replicate 128 7) [] 0 16 ∧
    sSent.reqEl ⟨0, 0, 3, 0⟩ = some (opn .load placed, placed) :=
  ⟨by decide, rfl, by decide, by decide, by decide, rfl, rfl, by decide, by decide, by decide, by decide, rfl, rfl⟩

/-! ## Jobs, rings, stamps, forks -/

def copy0 : Job := { owner := some 0, suite := 0, core := 0, asid := 0, kind := .copy [⟨0, 64, 32, false, true⟩] 2, toks := [⟨1, some 4, 1, 0⟩] }
def sJob : State := { s0 with jobs := [(0, copy0)], nextJob := 1 }
theorem test_meets_JobsAreSubmitted : Executes s0 0 0 cl0 ∧ Untagged (s0.team 0 0) (Instr.copy (.s 5) (.s 4) (.lit 64)).shape ∧
    (∃ r w, RecordAt (begun s0 0 0) 0 0 0 128 32 r w ∧ w.entries 0 < 32 ∧ w.openCopies 0 = []) ∧ (pair (s0.team 0 0) (.s 4) 0).toNat % 64 = 0 ∧
    (sJob.openCopies 0).find? (fun e => !(s0.team 0 0).joined.contains e.1) = some (0, 2) ∧ Tab.find sJob.jobs 0 = some copy0 ∧
    copy0.kind = .copy [⟨0, 64, 32, false, true⟩] 2 :=
  ⟨run0, free0 _, ⟨_, _, ⟨by decide, rfl, rfl, rfl⟩, by decide, rfl⟩, by decide, rfl, rfl, rfl⟩
/-- A fork record for two arrivals. -/
def sFork : State := on { x0 with stash := [(8, 2)] }
def fork0 : Fork := ⟨0, 0, 2, 1, 0, []⟩
def sOpen : State := on { x0 with fork := some fork0 }
def sLive : State := on { x0 with forkRun := some ⟨0, [none], false⟩ }
theorem test_meets_ForksAndRendezvous : Executes sFork 0 0 cl0 ∧ (sFork.block 0).fork = none ∧ (sFork.block 0).forkRun = none ∧
    (∃ r w, RecordAt (begun sFork 0 0) 0 0 0 64 64 r w ∧ field r 10 1 ≤ 4 ∧ 1 < field r 8 2 ∧ field r 0 8 < 2 ^ 56) ∧ fwPlain 0 = true ∧
    (∀ l ∈ lanesOf cl0.act, (sFork.team 0 0).rd (.v 3) l = 0) ∧
    Executes sOpen 0 0 cl0 ∧ (sOpen.block 0).fork = some fork0 ∧ fork0.expected ≤ fork0.arrivals + 1 ∧ fork0.srecs = [] ∧
    (∀ l ∈ lanesOf cl0.act, (sOpen.team 0 0).rd (.v 3) l = fork0.value) ∧
    (∃ l ∈ lanesOf cl0.act, Team.rd { m0 with sregs := [(3, 1)] } (.s 3) l ≠ fork0.value) ∧
    Executes sLive 0 0 cl0 ∧ (sLive.block 0).mtx.trap = none ∧ (∃ f, (sLive.block 0).forkRun = some f ∧ none ∈ f.codes) :=
  ⟨⟨rfl, rfl, by decide, rfl⟩, rfl, rfl, ⟨_, _, ⟨by decide, rfl, rfl, rfl⟩, by decide, by decide, by decide⟩, by decide, by decide,
    ⟨rfl, rfl, by decide, rfl⟩, rfl, by decide, rfl, by decide, ⟨0, by decide, by decide⟩, ⟨rfl, rfl, by decide, rfl⟩, rfl, ⟨_, rfl, by decide⟩⟩
def ringBytes : Tab Byte := [(256, 4), (259, 1), (260, 32), (272, 3), (276, 1), (512, 4), (515, 2), (516, 32), (528, 3), (536, 1)]
/-- A fill ring of four slots at 256, one of them filled; a slot of a second one at 512 is out. -/
def sRing : State := on { x0 with rings := [(256, {}), (512, { cur := some (0, 1) })], stash := ringBytes
                                  stamps := [(1, some { addr := 65536, tile := 9, events := [(2, 5)] })] }
theorem test_meets_RingAndStampInstructions : Executes s0 0 0 cl0 ∧ Untagged (s0.team 0 0) (Instr.rinit (.s 5) (.s 4) (.lit 0x01001004)).shape ∧
    1 ≤ 0x01001004 % 128 ∧ 0x01001004 % 128 ≤ 64 ∧ 32 ≤ 0x01001004 / 4096 % 4096 * 32 ∧ (s0.block 0).ring 0 = none ∧
    (begun s0 0 0).ringNamed 0 0 = false ∧ (∃ z, (onBlock s0 0 0 (·.setRing 0 {})).stashPut 0 0 (leBytes 8 4) = .ok z) ∧
    Executes sRing 0 0 cl0 ∧ (sRing.block 0).ring 256 = some {} ∧
    (∃ bytes w, (begun sRing 0 0).stashGet 0 256 32 = .ok (bytes, w) ∧ (RingHdr.of bytes).slots = 4 ∧ (RingHdr.of bytes).mode = 0 ∧
      0 < (RingHdr.of bytes).filled ∧ (RingHdr.of bytes).share = 1 ∧ (RingHdr.of bytes).size = 32) ∧
    (∃ bytes w, (begun sRing 0 0).stashGet 0 512 32 = .ok (bytes, w) ∧ 1 < (RingHdr.of bytes).share ∧ (RingHdr.of bytes).held = 1 ∧
      (RingHdr.of bytes).filled = 0) ∧
    (sRing.block 0).stampAt 0 = none ∧ (∃ z, (sRing.block 0).stampAt 1 = some z ∧ Tab.find z.events 0 = none ∧ (Tab.find z.events 2).isSome = true) ∧
    (begun sRing 0 0).entries 0 < 32 :=
  ⟨run0, free0 _, by decide, by decide, by decide, rfl, rfl, ⟨_, rfl⟩, ⟨rfl, rfl, by decide, rfl⟩, rfl,
    ⟨_, _, rfl, rfl, rfl, by decide, rfl, rfl⟩, ⟨_, _, rfl, by decide, rfl, rfl⟩, rfl, ⟨_, rfl, rfl, rfl⟩, by decide⟩

/-! ## The matrix stream -/

def cq : Clause := { cl0 with cls := 3, mask := 1, act := 1 }
def sSeq (f : Mtx → Mtx) : State := { on { x0 with usesMtx := true, mtx := f { qstat := 0x80000000, clause := some cq } } with focus := some (.seq 0) }
theorem seq0 (f : Mtx → Mtx) (h : ∀ m, (f m).clause = m.clause) : Sequences (sSeq f) 0 cq := ⟨rfl, h _⟩
def mq (m : Mtx) : Mtx := { m with q := [(1, 1), (2, 256)] }
def mTag (m : Mtx) : Mtx := { m with tags := [(17, (0, true))], ops := [⟨0, some 0, 0, none⟩] }
theorem test_meets_MatrixControlWords : Sequences (sSeq mq) 0 cq ∧ Unclaimed ((sSeq mq).block 0).mtx ([16 + 1, 16 + 2] ++ qreads (.q 15)) ∧
    ((sSeq mq).block 0).mtx.qr 1 = 1 ∧ ((sSeq mq).block 0).mtx.qr 2 ≠ 1 ∧ tileValid 0 = false ∧ ((sSeq mq).block 0).mtx.reads 0 = false ∧
    Sequences (sSeq mTag) 0 cq ∧ Tab.find ((sSeq mTag).block 0).mtx.tags (16 + 1) = some (0, true) ∧ ((sSeq mTag).block 0).mtx.ops ≠ [] ∧
    ((sSeq mq).block 0).stampAt 3 = none :=
  ⟨seq0 _ fun _ => rfl, by unfold Unclaimed; decide, rfl, by decide, by decide, by decide, seq0 _ fun _ => rfl, rfl, by decide, rfl⟩
/-- Tiles 0 and 1 are 8 by 32 of format 3, dense and with a bitmap; accumulator 0 takes their product. -/
def mTiles (m : Mtx) : Mtx := { m with tiles := [(0, { ctl := 0x13200008 }), (1, { ctl := 0x53200008 }), (2, { ctl := 0x93100008 })]
                                       accs := [(0, { ctl := 0x00000808 })], fmt := 0x33 }
def mFull (m : Mtx) : Mtx := { mTiles m with ops := [⟨0, some 0, 0, some ⟨false, 0, 0, 1, 0x33, []⟩⟩], fmt := 0x0F }
set_option maxRecDepth 4000 in
theorem test_meets_MatrixTileAndArrayWords : Sequences (sSeq mTiles) 0 cq ∧ Unclaimed ((sSeq mTiles).block 0).mtx ([8] ++ [0, 1]) ∧
    tileValid 0x13200008 = true ∧ ctlForm 0x13200008 = 0 ∧ tileValid 0x53200008 = true ∧ ctlForm 0x53200008 = 1 ∧ tileValid 0x93100008 = true ∧
    ctlForm 0x93100008 = 2 ∧ accValid 0x0808 = true ∧ ((sSeq mTiles).block 0).mtx.reads 0 = false ∧
    (∃ bytes w, UnitAt (sSeq mTiles) 0 0 (fun _ => [(0, 256)]) bytes w) ∧ allRead (fun _ => [(0, 256)]) (fill 256 0) ∧
    ¬allRead (fun _ => [(0, 256)]) (fill 32 0) ∧
    fwCause 0x33 = none ∧ (∃ c, fwCause ((sSeq mFull).block 0).mtx.fmt = some c) ∧
    mmaCause 0 0x33 (((sSeq mTiles).block 0).mtx.tile 0) (((sSeq mTiles).block 0).mtx.tile 1) (((sSeq mTiles).block 0).mtx.acc 0) = none ∧
    (∃ c, mmaCause 1 0x10000033 (((sSeq mTiles).block 0).mtx.tile 0) (((sSeq mTiles).block 0).mtx.tile 7) (((sSeq mTiles).block 0).mtx.acc 0) = some c) ∧
    ctlCols 0x13200008 % 4 = 0 ∧ 16 ≤ ctlCols 0x13200008 ∧ ctlFmt 0x13200008 ≠ 8 ∧
    ((sSeq mFull).block 0).mtx.ops.find? (fun p => p.id == 0) = some ⟨0, some 0, 0, some ⟨false, 0, 0, 1, 0x33, []⟩⟩ ∧
    7 < accRows 0x0808 ∧ 7 < accCols 0x0808 ∧ accCols 0x0808 ≤ 32 ∧ (Val.fin false 1 0).isZero = false ∧ (Val.fin false 0 0).isZero = true :=
  ⟨seq0 _ fun _ => rfl, by unfold Unclaimed; decide, by decide, by decide, by decide, by decide, by decide, by decide, by decide, by decide,
    ⟨_, _, by decide, by decide, by decide, 0, 32, _, by decide, rfl, rfl⟩, by unfold allRead; decide, by unfold allRead; decide, by decide, ⟨1, by decide⟩,
    by decide, ⟨2, by decide⟩, by decide, by decide, by decide, rfl, by decide, by decide, by decide, by decide, by decide⟩

/-! ## Tasks and the ostler -/

theorem test_meets_TaskInstructionsStart : Executes s0 0 0 cl0 ∧ Untagged (s0.team 0 0) (Instr.qpop true (.s 5) (.s 6) (.lit 0)).shape ∧
    ((s0.team 0 0).rd (.s 6) 0).toNat ≤ 4095 ∧ 0 + 256 ≤ (s0.block 0).stashSize ∧
    (∃ r w z, RecordAt (begun s0 0 0) 0 0 0 32 32 r w ∧ w.stashGet 0 0 32 = .ok (r, z)) ∧
    (∃ r w, RecordAt (begun s0 0 0) 0 0 0 256 32 r w) ∧ (0x00800000 : Word).toNat < 2 ^ 26 ∧
    (∃ r w, RecordAt (begun s0 0 0) 0 0 0 (32 * ((0x00800000 : Word).toNat / 2 ^ 23 % 8)) 32 r w) ∧
    isS (.s 6) = true ∧ 4095 < (Team.rd { m0 with sregs := [(6, 4096)] } (.s 6) 0).toNat :=
  ⟨run0, free0 _, by decide, by decide, ⟨_, _, _, ⟨by decide, rfl, rfl, rfl⟩, rfl⟩, ⟨_, _, ⟨by decide, rfl, rfl, rfl⟩⟩, by decide,
    ⟨_, _, ⟨by decide, rfl, rfl, rfl⟩⟩, rfl, by decide⟩
def task (x : TaskOp) : Op := { id := 3, kind := .task x, dests := [101], act := 0xFFFF }
/-- Queue 5 takes waybills and is popped by teams, queue 6 has a closed reservation before it. -/
def q5 : Queue := { ok := true, base := 16384, size := 128, kind := 1, mode := 9, fulltmo := 10, segs := [{ len := 32, tick := 0 }] }
def q6 : Queue := { ok := true, base := 16512, size := 128, kind := 2, mode := 9, resv := [{ off := 0, len := 32, b := 0, t := 0 }] }
def su : Suite := { ctl := 1, used := { arenasz := 4, arena := 20480, htable := 24576 }, queues := [(5, q5), (6, q6)] }
def sTask (x : TaskOp) : State :=
  { on { x0 with teams := [{ m0 with ops := [task x] }] } with suites := [(0, su)], mem := [(8192, 1), (8196, 5), (16384, 1), (20486, 1), (24583, 0x80)] }
theorem task0 (x : TaskOp) (h : ((sTask x).team 0 0).taskReady (task x) x = true) : AtOstler (sTask x) 0 0 3 (task x) x :=
  ⟨rfl, rfl, h, rfl, rfl, rfl, rfl⟩
theorem test_meets_OstlerPerformsTasks : AtOstler (sTask (.pop 5 0 true)) 0 0 3 (task (.pop 5 0 true)) (.pop 5 0 true) ∧
    ((sTask (.pop 5 0 true)).queue 0 5).pops = true ∧
    (∀ e ∈ (sTask (.pop 5 0 true)).poppers 0 5, x0.core ≤ e.1 ∧ (e.1 = x0.core → ((sTask (.pop 5 0 true)).team 0 0).slot % 4 ≤ e.2)) ∧
    (sTask (.succ 0)).putsOwed 0 0 3 0 = false ∧
    (∃ e v w, (sTask (.pop 5 0 true)).headEntry 0 5 = (some e, v) ∧ v.stashPut 0 0 (e.take 4096) = .ok w ∧ (Waybill.of e).kind ≠ 4) ∧
    (∃ v, (sTask (.pop 6 0 true)).headEntry 0 6 = (none, v)) ∧ ((sTask (.pop 7 0 true)).queue 0 7).pops = false ∧
    AtOstler (sTask (.push 5 0 (leBytes 32 1))) 0 0 3 (task (.push 5 0 (leBytes 32 1))) (.push 5 0 (leBytes 32 1)) ∧
    (Waybill.of (leBytes 32 1)).malformed = false ∧ (Waybill.of (leBytes 32 0)).malformed = true ∧
    ((sTask (.succ 0)).enqueue 0 5 (leBytes 32 1)).isSome = true ∧
    AtOstler (sTask (.reserve 5 32)) 0 0 3 (task (.reserve 5 32)) (.reserve 5 32) ∧ ((sTask (.reserve 5 32)).queue 0 5).accepts = true ∧
    ((sTask (.reserve 5 32)).queue 0 5).total + 32 ≤ 128 ∧
    AtOstler (sTask (.commit 6 0)) 0 0 3 (task (.commit 6 0)) (.commit 6 0) ∧
    (∃ r, ((sTask (.commit 6 0)).queue 0 6).resv = [r] ∧ r.off = 0 ∧ r.state = 0) ∧
    AtOstler (sTask (.succ 0)) 0 0 3 (task (.succ 0)) (.succ 0) ∧
    (∃ r, (sTask (.succ 0)).ostRead 0 20480 8 = r ∧ field r.1 6 2 = 1) ∧
    (∃ v, (sTask (.succ 0)).handlerOf 0 1 = (some 0, v)) ∧ (∃ v, (sTask (.succ 0)).handlerOf 0 0 = (none, v)) ∧
    (sTask (.succ 0)).suiteExists 0 = true ∧ Solid q5 ∧ Tab.wf {} (sTask (.succ 0)).suites = true :=
  ⟨task0 _ (by decide), by decide, by decide, by decide, ⟨_, _, _, rfl, rfl, by decide⟩, ⟨_, rfl⟩, by decide, task0 _ (by decide), by decide, by decide, by decide,
    task0 _ (by decide), by decide, by decide, task0 _ (by decide), ⟨_, rfl, rfl, rfl⟩, task0 _ (by decide), ⟨_, rfl, by decide⟩, ⟨_, rfl⟩,
    ⟨_, rfl⟩, by decide, by unfold Solid; decide, by decide⟩
/-- A launch record at 16384: kernel 8192, trap vector 8192, one block of one team. -/
def recBytes : List Host.Cell := [(8192, 1), (8196, 5), (16385, 0x20), (16393, 0x20), (16416, 1), (16424, 1), (16425, 8), (16429, 1)]
def q3 : Queue := { ok := true, base := 16384, size := 128, kind := 0, mode := 8, segs := [{ len := 64, tick := 0 }] }
def sOst : State := { s0 with suites := [(0, { ctl := 1, queues := [(3, q3)] })], mem := recBytes, roots := [(0, 0)] }
def l0 : Launch := { suite := 0, record := (readBytes recBytes 16384 64) }
def sLaunch : State := { sOst with launches := [(0, l0)] }
def xOver : Block := { x0 with teams := [{ done := true }] }
theorem test_meets_OstlerDispatches : (s0.suite 0).ctl.getLsbD 0 = false ∧ (sOst.queue 0 3).hostMade = false ∧ { q3 with mode := 10 }.hostMade = true ∧
    { x0 with persistent := true }.persistent = true ∧ (on xOver).jobs = [] ∧ xOver.persistent = false ∧ xOver.mtx.midway = false ∧
    (sOst.suite 0).dispatches = true ∧ 0 ∈ sOst.roomsOf 0 ∧ sOst.savedCands 0 = [] ∧
    (∃ c e v, sOst.headCand 0 3 = some c ∧ sOst.headEntry 0 3 = (some e, v) ∧ isEngine 0 e = false ∧
      ∃ a, sOst.asked 0 3 e = .ok a ∧ a.record = l0.record ∧ a.ranges = []) ∧
    sOst.pickOrder 0 = [(.head 3, some (0, 3))] ∧ (sOst.place 0 0 (.head 3)).isSome = true ∧ Tab.find sLaunch.launches 0 = some l0 ∧
    (∃ p w, sLaunch.marked 0 0 8192 = (.ok (some p), w)) ∧ l0.done + 1 ≤ field l0.record 32 4 ∧
    (∃ x, Tab.find (on xOver).blocks 0 = some x ∧ x.saved = none ∧ (∀ m ∈ x.teams, m.done = true ∧ m.ops = []) ∧ x.fork = none) :=
  ⟨by decide, by decide, by decide, rfl, rfl, rfl, rfl, by decide, by decide, by decide,
    ⟨_, _, _, rfl, rfl, by decide, ⟨_, rfl, by decide, rfl⟩⟩, by decide, by decide, rfl, ⟨_, _, rfl⟩, by decide, ⟨xOver, rfl, rfl, by decide, rfl⟩⟩
def f0 : PFault := { asid := 0, va := 8192, kind := 2, readOnly := false, who := .block 0 }
def sFault : State := { s0 with faults := [f0], blocks := [(0, { x0 with faulted := [0] })], suites := [(0, { used := { nframes := 1 } })] }
def uPosted : Suite := { pfout := [⟨0, 8192, 2, false, 0, 0, false⟩], drainAt := some 0, used := { nframes := 1, drainlim := 0 } }
def sPosted : State := { s0 with faults := [{ f0 with tag := some 0 }], suites := [(0, uPosted)] }
theorem test_meets_FaultQueueAndSavedBlocks : sFault.nextFault 0 = some (0, f0) ∧ (∀ e ∈ (sFault.suite 0).pfout, ¬(e.asid = 0 ∧ e.va = 8192)) ∧
    (sFault.suite 0).pfq.length < 64 ∧ (sPosted.suite 0).pfout.find? (fun e => e.tag == (0 : Word).toNat && !e.resolved) = some ⟨0, 8192, 2, false, 0, 0, false⟩ ∧
    f0.who = .block 0 ∧ (sFault.block 0).killed = none ∧ (sFault.block 0).faulted ≠ [] ∧ (sFault.block 0).parked = false ∧
    sFault.freeFrame 0 = some 0 ∧ (sFault.poolSave 0 false).isSome = true ∧ 1 ≤ 4 ∧ (0xF : BitVec 4) ≠ 0 ∧
    Tab.find sOst.roots 0 ≠ none ∧ Tab.find s0.roots 0 = none ∧ (s0.suite 0).mcq.length < 64 ∧
    (sPosted.suite 0).drainAt = some 0 ∧ 0 + (sPosted.suite 0).used.drainlim.toNat ≤ sPosted.tick ∧
    (s0.setHomeLine 0 { dirty := true }).homeLine 0 = { dirty := true } ∧ (s0.setHomeLine 0 { reader := some 7 }).homeLine 0 = { reader := some 7 } ∧
    0 ∉ s0.poison ∧ { f0 with who := FaultWho.retry }.who = .retry ∧ (∀ e ∈ sPosted.jobs, False) ∧
    sPosted.blocks.filter (fun e => e.2.suite == 0 && e.2.savable) = [(0, x0)] :=
  ⟨rfl, by decide, by decide, rfl, rfl, rfl, by decide, rfl, by decide, by decide, by decide, by decide, by decide, by decide, by decide, rfl,
    by decide, rfl, rfl, by decide, rfl, by decide, rfl⟩

/-! ## Graphics and traversal -/

/-- A view record: layout 8 and 8 bits, 64 by 64 pixels, one mesh team, unit scales. -/
def viewRecord : List Byte := List.replicate 96 0
def tile0 : TileSt := { phase := .resolved, handle := 0x00010000, store := List.replicate 4 (7, 0x3F800000) }
def view0 : View := { id := 0, addr := 65536, asid := 0, suite := 0, record := viewRecord, room := 0, closed := true, tiles := [(0, tile0)] }
def sView : State := { on { x0 with refs := [0x00010000], meshCheck := true, teams := [{ m0 with view := some 65536 }] } with views := [view0] }
def texBytes : Tab Byte := [(8, 4), (10, 4), (12, 1), (14, 1)]
def sTex : State := on { x0 with stash := texBytes }
theorem test_meets_GraphicsInstructions : Executes sView 0 0 cl0 ∧ (sView.team 0 0).view = some 65536 ∧ (s0.team 0 0).view = none ∧
    Team.rd { m0 with sregs := [(4, 0x00010000)] } (.s 4) 0 ∈ (sView.block 0).refs ∧ ¬(sView.team 0 0).rd (.s 4) 0 ∈ (sView.block 0).refs ∧
    (0x0405 : Word).toNat = 5 + 256 * 4 ∧ (∀ r ∈ groupBytes (.v 92) 4, (sView.team 0 0).tag r = none) ∧ 92 + 4 ≤ (sView.block 0).regs ∧
    (sView.block 0).regs < 93 + 4 ∧
    (∃ r w, RecordAt (begun sTex 0 0) 0 0 0 32 32 r w ∧ texOk r = true) ∧ Executes sTex 0 0 cl0 ∧
    sView.viewAt 0 65536 = some view0 ∧ sView.viewAt 0 0 = none ∧ (sView.team 0 0).calm = true ∧
    (∃ r z, sView.acquire 0 0 0 = some (r, z)) ∧ (moutBad (sView.team 0 0).batch false 0 [0, 0, 0, 0] = some 0) ∧ Unwatched (sView.block 0) ∧
    (∃ lay w, (uWord (.lane 0 0 0) (65536 + 72)).whole 4096 (begun sView 0 0) [] = .done lay w) ∧
    (∃ r w, (uRead (.lane 0 0 0) 65536 96).whole 4096 (begun sView 0 0) [] = .done r w) :=
  ⟨⟨rfl, rfl, by decide, rfl⟩, rfl, rfl, by decide, by decide, by decide, by decide, by decide, by decide,
    ⟨_, _, ⟨by decide, rfl, rfl, rfl⟩, by decide⟩, ⟨rfl, rfl, by decide, rfl⟩, rfl, rfl, by decide, ⟨_, _, rfl⟩, by decide, rfl, ⟨_, _, rfl⟩, ⟨_, _, rfl⟩⟩
def walk0 : RayWalk := { root := 65536, budget := 4, ray := [0, 0, 0, 0, 0x3F800000, 0, 0, 0x7F800000] }
def over0 : RayWalk := { walk0 with ended := some (0, 0) }
def walkOp (ws : List RayWalk) (done : Nat) : Op := { id := 3, kind := .walk 0, act := 1, els := [{ lane := 0, va := 0, n := 0 }], walks := ws, aux := [done] }
def sWalk (ws : List RayWalk) (done : Nat) : State := on { x0 with teams := [{ mLane with ops := [walkOp ws done] }] }
def batch0 : Job := { owner := none, suite := 0, core := 0, asid := 0, kind := .batch (fill 64 0) {} }
theorem test_meets_TraversalInstructionsAndWalks : Executes sLane 0 0 cl1 ∧
    (∃ r w, RecordAt (begun sLane 0 0) 0 0 0 32 32 r w ∧ field r 12 4 % 128 = 0) ∧ 0 + 1152 ≤ 2048 ∧ (∀ o ∈ (sLane.team 0 0).ops, o.isWalk = false) ∧
    ((sWalk [walk0] 0).team 0 0).op 3 = some (walkOp [walk0] 0) ∧ ((sWalk [walk0] 0).team 0 0).earlierDone 3 = true ∧
    ((sWalk [walk0] 0).team 0 0).earlierTranslated 3 = true ∧
    (walkOp [walk0] 0).walks.zipIdx.find? (fun (w, i) => w.ended.isNone || bit ((walkOp [walk0] 0).aux.headD 0) i == false) = some (walk0, 0) ∧
    (∃ v l, walk0.step ⟨.core 0 0, none⟩ (sWalk [walk0] 0) [] = .more v l) ∧
    (walkOp [over0] 0).walks.zipIdx.find? (fun (w, i) => w.ended.isNone || bit ((walkOp [over0] 0).aux.headD 0) i == false) = some (over0, 0) ∧
    (∀ e ∈ (walkOp [over0] 1).walks.zipIdx, e.1.ended.isSome = true ∧ bit ((walkOp [over0] 1).aux.headD 0) e.2 = true) ∧
    rayMisses walk0.ray = false ∧ rayMisses (List.replicate 8 0) = true ∧ (List.replicate 8 (0 : Word)).length = 8 ∧
    ({ s0 with jobs := [(0, batch0)] }).jobRuns 0 batch0 = true ∧ field (fill 64 0) 48 4 ≤ batch0.pos :=
  ⟨⟨rfl, rfl, by decide, rfl⟩, ⟨_, _, ⟨by decide, rfl, rfl, rfl⟩, by decide⟩, by decide, by decide, rfl, by decide, by decide, rfl,
    ⟨_, _, rfl⟩, rfl, by decide, by decide, by decide, rfl, by decide, by decide⟩
def unitOp : Op := { id := 3, kind := .unit (.vbdec 0x0808 65536), act := 1, els := [{ lane := 0, va := 0, n := 0 }], args := [[0xFFFFFFFF, 0xFFFFFFFF]] }
def sUnit : State := on { x0 with teams := [{ m0 with ops := [unitOp] }] }
def sPoison : State := { sUnit with poison := [0] }
def open0 : View := { view0 with tiles := [(0, { tile0 with phase := .opened })] }
def prim0 : Prim := { key := [0], verts := List.replicate 3 [0x7FC00000, 0, 0, 0x3F800000], ident := 5 }
theorem test_meets_GraphicsUnitSteps : (sUnit.team 0 0).op 3 = some unitOp ∧ (sUnit.team 0 0).earlierDone 3 = true ∧
    (∃ ws v, (unitRun 0 0 unitOp (.vbdec 0x0808 65536)).step sUnit (List.replicate 3 (some (fill 32 0))) = .done ws v) ∧
    (∃ v l, (unitRun 0 0 unitOp (.vbdec 0x0808 65536)).step sUnit [] = .more v l) ∧ (∃ v l, (uRead (.core 0 0) 4096 96).step s0 [] = .more v l) ∧
    Performed 4096 96 (List.replicate 3 (some (fill 32 0))) (fill 96 0) ∧
    (∀ e ∈ open0.tiles, e.2.phase = .opened → 0 ≤ e.1) ∧
    recKind (List.replicate 4 0) = .raster ∧ culls 0 prim0 = true ∧ sView.viewOf 0 = some view0 ∧ view0.closed = true ∧
    Tab.find open0.tiles 0 = some { tile0 with phase := .opened } ∧
    (List.range 32).find? (fun n => !(({ sView with views := [open0] }).pins 0 0).contains n) = some 0 ∧
    Tab.find view0.tiles 0 = some tile0 ∧ (sView.block 0).refs.length < 8 ∧ 3 < tile0.store.length ∧ 3 < 4 :=
  ⟨rfl, by decide, ⟨_, _, rfl⟩, ⟨_, _, rfl⟩, ⟨_, _, rfl⟩, ⟨List.replicate 3 (fill 32 0), rfl, rfl, by decide⟩, fun _ _ _ => Nat.zero_le _, by decide, by decide, rfl, rfl, rfl, by decide, rfl, by decide, by decide, by decide⟩

/-! ## The engines and the barrier unit -/

def jobOf (k : JobKind) : Job := { owner := some 0, suite := 0, core := 0, asid := 0, kind := k, toks := [⟨0, some 4, 1, 0⟩] }
def sHas (k : JobKind) : State := { s0 with jobs := [(0, jobOf k)], nextJob := 1, nearQueue := [(0, true, 0)] }
theorem test_meets_EngineSteps : (sHas (.bad 7)).job 0 = some (jobOf (.bad 7)) ∧ (sHas (.bad 7)).jobRuns 0 (jobOf (.bad 7)) = true ∧
    (sHas (.copy [⟨4096, 64, 32, false, true⟩] 1)).jobRuns 0 (jobOf (.copy [⟨4096, 64, 32, false, true⟩] 1)) = true ∧
    sliceAt 0 [⟨4096, 64, 32, false, true⟩] = some (⟨4096, 64, 32, false, true⟩, 0) ∧ sliceAt 32 [⟨4096, 64, 32, false, true⟩] = none ∧
    (∃ bytes v w, (sHas (.bad 7)).jobRead (jobOf (.bad 7)) false 4096 32 = .ok (bytes, v) ∧ v.jobWrite (jobOf (.bad 7)) true 64 bytes = .ok w) ∧
    (∃ w, (sHas (.fill 64 32 0x01020304 true)).jobWrite (jobOf (.bad 7)) true 64 (fill 32 0) = .ok w) ∧
    (jobOf (.bad 7)).owner = some 0 ∧ (jobOf (.bad 7)).bar = none ∧ (jobOf (.bad 7)).toks = [⟨0, some 4, 1, 0⟩] ∧
    (sHas (.near true 5 (fill 128 0) false none)).nearQueue.filter (fun e => e.1 == 0 && e.2.1 == true) = [(0, true, 0)] :=
  ⟨rfl, by decide, by decide, by decide, by decide, ⟨_, _, _, rfl, rfl⟩, ⟨_, rfl⟩, rfl, rfl, rfl, rfl⟩
def xBar (o : List BarMsg) : Block :=
  { x0 with barOps := o, barriers := [(15, { valid := true, expect := 2, arrived := 2 })], teams := [{ m0 with stall := some (.sleep 0) }] }
def arriving : BarMsg := ⟨0, .arrive 0 15 4095 false⟩
def fromPeer : BarMsg := ⟨0, .peer 15 0 1 0 3⟩
theorem test_meets_BarrierUnitSteps : ((on (xBar [fromPeer, arriving])).block 0).nextBar ((on (xBar [fromPeer, arriving])).block 0).barOps =
      some (arriving, [fromPeer]) ∧ ((on (xBar [fromPeer])).block 0).nextBar ((on (xBar [fromPeer])).block 0).barOps = some (fromPeer, []) ∧
    (((on (xBar [fromPeer, arriving])).block 0).barOwed && ((on (xBar [fromPeer, arriving])).block 0).owesCompletion) = false ∧
    (Tab.get {} ((on (xBar [])).block 0).barriers 15).valid = true ∧ (Tab.get {} ((on (xBar [])).block 0).barriers 14).valid = false ∧
    ((on (xBar [])).block 0).waiters 15 = [] ∧ ((on (xBar [])).block 0).mtx.waitsOn 15 = false ∧ ((on (xBar [])).team 0 0).clause = some cl0 ∧
    (Tab.get {} ((on (xBar [])).block 0).barriers 15).expect ≤ (Tab.get {} ((on (xBar [])).block 0).barriers 15).arrived ∧
    ((on (xBar [])).team 0 0).stall = some (.sleep 0) ∧ 0 ≤ (on (xBar [])).tick :=
  ⟨by decide, by decide, by decide, by decide, by decide, by decide, by decide, rfl, by decide, rfl, by decide⟩

/-! ## The device in its system -/

theorem test_meets_HostWindowsAndRegisters : 0xFFFFF8 < 2 ^ 24 ∧ 0xFFFFF8 % 8 = 0 ∧ s0.page0 0x810040 = some (some 0, 0x10040) ∧
    s0.page0 0 ≠ some (some 0, 0x10040) ∧ s0.suiteExists 7 = true ∧ (s0.suite 0).segasid.getLsbD 31 = false ∧ s0.suiteOfAsid 1023 = 0 ∧
    (∃ pg w, s0.translate (ostCore 0) 0 4096 .load = (.ok pg, w) ∧ pg.p = false ∧ pg.place 4096 = .dev 4096) ∧
    (∀ i, i < 1 → s0.installed (0 + i) = true ∧ roomOfPa (0 + i) ∈ ({ s0 with fenceHost := [0] }).fenceHost) ∧
    (∃ i, i < 1 ∧ ¬(s0.installed (0 + i) = true ∧ roomOfPa (0 + i) ∈ s0.fenceHost)) ∧
    s0.haltNames 0 0 = [(0, 0)] ∧ (s0.team 0 0).done = false ∧ (s0.team 0 0).halted = false ∧ (s0.team 0 0).context ≠ .trap ∧
    (s0.team 0 0).clause ≠ none ∧ (s0.team 0 0).stall = none :=
  ⟨by decide, by decide, by decide, by decide, by decide, rfl, by decide, ⟨code, _, rfl, rfl, rfl⟩, by decide, ⟨0, by decide, by decide⟩,
    by decide, rfl, rfl, by decide, by decide, rfl⟩
def request (w0 w1 : DWord) : State := { State.reset with rmbstat := 1, rmbSent := [(0, w0), (1, w1)] }
/-- A head whose next frame is due, its planes read, its encoder on. -/
def head0 : Head := { dctl := 1, planes := some (fill 128 0), ectl := 1 }
theorem test_meets_RootMailboxAndDisplayHeads : (request 1 0x0706050404020200).rmbstat.getLsbD 0 = true ∧
    (∀ r, r < 8 → ∃ n, (n = 1 ∨ n = 2 ∨ n = 4 ∨ n = 8) ∧ [0, 2, 2, 4, 4, 5, 6, 7].getD r 0 % 1 = 0) ∧
    (Tab.get 0 (request 2 0).rmbSent 0).toNat % 256 = 2 ∧ (request 3 0).rmbDone = none ∧
    (Tab.get {} State.reset.heads 7).dctl.getLsbD 0 = false ∧ (3 : DWord).getLsbD 0 = true ∧ ((3 : DWord).toNat / 2 % 4 = 1 → 1 < 2) ∧
    ({ dctl := 1, dnext := 16384 } : Head).dnext.toNat ≤ State.reset.tick + 16384 ∧ Tab.wf {} State.reset.heads = true ∧
    head0.dctl.getLsbD 0 = true ∧ head0.planes = some (fill 128 0) ∧ head0.dnext.toNat ≤ State.reset.tick ∧ Tab.wf {} [(0, head0)] = true ∧
    head0.dctl.toNat / 2 % 4 = 0 ∧ head0.ectl.toNat % 4 ≠ 0 ∧ head0.waiting = none :=
  ⟨rfl, fun _ _ => ⟨1, .inl rfl, by omega⟩, by decide, rfl, rfl, rfl, fun _ => by omega, by decide, by decide, rfl, rfl, by decide, by decide,
    by decide, by decide, rfl⟩
/-- 17 R449: a degraded part with a room of 3 channels, its identity registers and its memory. -/
def lesser : Part := { masks := (List.range 8).flatMap fun r => [0x7F, 0xFE, 0xDF, 0xFB].zipIdx.map fun e => (r * 6 + e.2, e.1)
                       channels := [(0, 3), (1, 3), (2, 3), (3, 3)] }
theorem test_parts : State.reset.part.legal = true ∧ lesser.legal = true ∧ ({ State.reset with part := lesser }).regRead 0 = 0x12E19 ∧
    ({ State.reset with part := lesser }).regRead 0x100 = 0x0003FFFFFBDFFE7F ∧ State.reset.regRead 0x100 = 0x0004FFFFFFFFFFFF ∧
    ({ State.reset with part := lesser }).installed 19327352832 = false ∧ State.reset.installed 19327352832 = true ∧
    ({ State.reset with part := lesser }).present 7 = false := by decide
set_option maxRecDepth 4000 in
/-- The check value of CRC-32: that of the characters 1 to 9. -/
theorem test_crc : crc32 [0x31, 0x32, 0x33, 0x34, 0x35, 0x36, 0x37, 0x38, 0x39] = 0xCBF43926 := by decide
/-- A device with a lower-numbered peer that its route reaches. -/
def second : State := { s0 with device := 1, peers := [0] }
theorem test_meets_LinksTimeAndResets : (Tab.get {} s0.ports 3).up = true ∧ 3 < 4 ∧ (Tab.get {} s0.ports 3).failed < 16 ∧
    (Tab.get {} [(3, ({ up := false, failed := 16 } : Port))] 3).up = false ∧ s0.lastSync = none ∧ s0.fabricIn = [] ∧
    s0.suiteExists 0 = true ∧ (∃ v, s0.engWrite 0 0 4096 (fill 4 0) = .ok v) ∧ (∃ r v, s0.engRead 0 0 4096 4 = .ok (.ok r, v)) ∧
    (∃ m, s0.engRead 0 0 (2 ^ 40) 4 = .error m ∧ m.why = .fault false) ∧ s0.thermal = false ∧ s0.agenda = [] ∧ (fill 256 0).length = 256 ∧
    (Tab.get {} s0.ports 3).replay = [] ∧ Tab.wf {} s0.ports = true ∧ (∃ d ∈ second.peers, d < second.device ∧ second.portTo d ≠ none) ∧
    Tab.get (0, 1) s0.routes 5 = (0, 1) ∧ State.reset.bootstat.toNat < 6 ∧ State.reset.focus = none ∧ State.reset.holdFor = 0 ∧
    State.reset.armed = none ∧ State.reset.bootFault = none ∧ State.reset.agenda = [] ∧ State.reset.clockOff = false :=
  ⟨rfl, by decide, by decide, rfl, rfl, rfl, by decide, ⟨_, rfl⟩, ⟨_, _, rfl⟩, ⟨_, rfl, rfl⟩, rfl, rfl, List.length_replicate, rfl, by decide,
    ⟨0, by decide, by decide, by decide⟩, rfl, by decide, rfl, rfl, rfl, rfl, rfl, rfl⟩

/-! ## Clauses, steps, encodings -/

/-- A code clause at 4096: class 0, one word `IADD`, no active guard. -/
def sCode (hdr w : Nat) : State :=
  { on { x0 with teams := [{ frontier := [⟨4096, 0, 0xFFFF, none⟩] }] } with
    focus := none, mem := (leBytes 4 hdr ++ leBytes 4 w).zipIdx.filterMap (fun e => if e.1 = 0 then none else some (4096 + e.2, e.1)) ++ memory }
/-- Another ready team of the same issue slot has waited longer. -/
def twoTeams : State :=
  let m : Team := { frontier := [⟨4096, 0, 0xFFFF, none⟩] }
  { sCode 0 0 with blocks := [(0, { x0 with teams := [{ m with slot := 4, lastIssue := 9 }, { m with slot := 8 }] })] }
theorem test_meets_ClausesStart : issueEntry ((sCode 0 0).team 0 0).frontier = some ⟨4096, 0, 0xFFFF, none⟩ ∧ ((sCode 0 0).team 0 0).idle = true ∧
    ((sCode 0 0).block 0).runs 0 = true ∧ (sCode 0 0).heldUp 0 0 = false ∧ (sCode 0 0).ranksFirst 0 0 = true ∧ (sCode 0 0).focus = none ∧
    ((sCode 0 0).team 0 0).vecUnread = false ∧ ((sCode 0 0).team 0 0).openTx = 0 ∧ twoTeams.ranksFirst 0 0 = false ∧
    (twoTeams.team 0 0).idle = true ∧ (twoTeams.block 0).runs 0 = true ∧ twoTeams.heldUp 0 0 = false ∧ (∃ f w, (sCode 0 0).fetchClause 0 0 4096 = (.ok f, w)) ∧ ((sCode 0 0).team 0 0).delayed = [] ∧
    decodeWord 0 0x6D000000 0 = .illegal .unassigned ∧ decodeWord 0 0x02050661 0 = .instr (.iadd (.v 5) (.v 6) (.reg (.s 1))) ∧
    (Instr.iadd (.v 5) (.v 6) (.reg (.s 1))).inWindow 8 = true ∧ (Instr.iadd (.v 5) (.v 8) (.reg (.s 1))).inWindow 8 = false ∧
    Executes s0 0 0 cl0 ∧ (on { x0 with teams := [{ m0 with delayed := [{ code := .ecc, pc := 0, addr := 0 }] }] }).focus = some (.team 0 0) ∧
    MarkedAt (onTeam s0 0 0 (noted 1 4096 0 4096)) 0 8192 5 (onTeam s0 0 0 (noted 1 4096 0 4096)) ∧
    ({ sSeq (fun m => { m with clause := none }) with focus := none }.block 0).seqIdle = true :=
  ⟨rfl, rfl, rfl, by decide, by decide, rfl, rfl, by decide, by decide, rfl, by decide, by decide, ⟨_, _, rfl⟩, rfl, rfl, rfl, by decide, by decide, run0, rfl, rfl, by decide⟩
def cAdd : Clause := { cl0 with words := [0x02050661] }
def cNop : Clause := { cq with words := [0x00000000] }
theorem test_meets_StepRunsTheDecodedInstruction :
    (∃ i, decodeWord cAdd.cls 0x02050661 0 = .instr i ∧ checkWord cAdd.cls cAdd.setA (s0.block 0).regs 0x02050661 [] = none) ∧
    (∃ i, decodeWord 3 (cNop.words.headD 0) 0 = .instr i) ∧
    s0.agenda = [] ∧ s0.thermal = false ∧ s0.clockOff = false ∧ s0.focus = some (.team 0 0) ∧
    ((by_ fun m => { m with clause := some cAdd }).team 0 0).clause = some cAdd ∧ (s0.block 0).runs 0 = true ∧ (s0.team 0 0).done = false ∧
    (s0.team 0 0).halted = false ∧ (s0.team 0 0).stall = none ∧ (s0.team 0 0).delayed = [] ∧ s0.heldUp 0 0 = false ∧ s0.ranksFirst 0 0 = true ∧
    ((sSeq fun m => m).block 0).mtx.qstat.getLsbD 31 = true ∧ ((sSeq fun m => m).block 0).mtx.held = false ∧
    ({ s0 with agenda := [⟨3, .dev .ptsTick⟩] }.elapse 3).clockOff = false :=
  ⟨⟨_, rfl, rfl⟩, ⟨_, rfl⟩, rfl, rfl, rfl, rfl, rfl, rfl, rfl, rfl, rfl, rfl, by decide, by decide, rfl, rfl, rfl⟩
theorem test_meets_DecodeEncodeRoundTrip : classOf (.iadd (.v 95) (.s 31) (.lit 0xFFFFFFFF)) = some 0 ∧
    (Instr.iadd (.v 95) (.s 31) (.lit 0xFFFFFFFF)).WellFormed = true ∧ encode (.iadd (.v 95) (.s 31) (.lit 0xFFFFFFFF)) = [0x825F7F00, 0xFFFFFFFF] :=
  ⟨rfl, by decide, rfl⟩
theorem test_meets_StepKeepsMemoryFormAndTime : Memory.wf s0.mem = true ∧ Memory.wf s0.hostMem = true ∧
    ∃ u, step { s0 with agenda := [⟨16, .dev .ptsTick⟩] } = .next u := ⟨by decide, by decide, ⟨_, rfl⟩⟩

/-! ## Results of the spec's worked examples -/

/-- What a register of the team holds after one instruction, lane 0's or lane `l`'s. -/
def after (i : Instr) (f : Team → Team) (o : Opnd) (l : Nat := 0) : Option Word :=
  match exec i (by_ f) with
  | .next u => some ((u.team 0 0).rd o l)
  | _ => none
def regs (l : List (Nat × Word)) (m : Team) : Team := { m with sregs := l }
def lanes (r : Nat) (l : List Word) (m : Team) : Team := { m with vregs := l.zipIdx.filterMap fun e => if e.1 = 0 then none else some (r * 16 + e.2, e.1) }

/-- 04 R114's example: the saturating sums, the high products, the field extracts. -/
theorem test_iadds : after (.iaddsI32 (.s 3) (.s 1) (.lit 1)) (regs [(1, 0x7FFFFFFF)]) (.s 3) = some 0x7FFFFFFF := by decide
theorem test_isubs : after (.isubsN32 (.s 3) (.s 1) (.lit 7)) (regs [(1, 5)]) (.s 3) = some 0 := by decide
theorem test_imulh : after (.imulhN32 (.s 3) (.s 1) (.reg (.s 1))) (regs [(1, 0xFFFFFFFF)]) (.s 3) = some 0xFFFFFFFE ∧
    after (.imulhI32 (.s 3) (.s 1) (.reg (.s 1))) (regs [(1, 0xFFFFFFFF)]) (.s 3) = some 0 := by decide
theorem test_shra_rotl : after (.shra (.s 3) (.s 1) (.lit 40)) (regs [(1, 0x80000000)]) (.s 3) = some 0xFFFFFFFF ∧
    after (.rotl (.s 3) (.s 1) (.lit 33)) (regs [(1, 0x80000001)]) (.s 3) = some 3 := by decide
theorem test_bfx : after (.bfxN32 (.s 3) (.s 1) (.lit 0x081C)) (regs [(1, 0xF0F01234)]) (.s 3) = some 0xF ∧
    after (.bfxI32 (.s 3) (.s 1) (.lit 0x081C)) (regs [(1, 0xF0F01234)]) (.s 3) = some 0xFFFFFFFF ∧
    after (.bfxI32 (.s 3) (.s 1) (.lit 0x0804)) (regs [(1, 0xF0F01234)]) (.s 3) = some 0x23 := by decide
/-- 04, the example of the lane instructions: lanes 0 to 14 active. -/
def scanned (m : Team) : Team :=
  { lanes 1 [1, 0, 1, 1, 0, 0, 1, 0, 0, 1, 0, 0, 1, 1, 0, 1] m with clause := some { cl0 with act := 0x7FFF } }
theorem test_scan : after (.scanAdd true (.v 2) (.v 1)) scanned (.v 2) 14 = some 7 ∧ after (.scanAdd true (.v 2) (.v 1)) scanned (.v 2) 3 = some 2 ∧
    after (.scanAdd true (.v 2) (.v 1)) scanned (.v 2) 15 = some 0 := by decide
theorem test_ballot : after (.ballot (.v 4) (.v 1)) scanned (.v 4) 3 = some 0x324D := by decide
/-- 05, "Worked rounding": 1.0625 and 500.0 to `e4m3`; the example of `PACK`. -/
theorem test_cvt : after (.cvt (.s 3) (.reg (.s 1)) 3 0) (regs [(1, 0x3F880000)]) (.s 3) = some 0x38 ∧
    after (.cvt (.s 3) (.reg (.s 1)) 3 0) (regs [(1, 0x43FA0000)]) (.s 3) = some 0x7F := by decide
theorem test_pack : after (.pack (.s 4) (.s 8) 3 0) (regs [(8, 0x3F880000), (9, 0xC3960000), (10, 0x43FA0000), (11, 0x3B400000)]) (.s 4) =
    some 0x027EF938 := by decide
/-- 06, the example: a tie, a fused product, a sine. -/
theorem test_fmul : after (.fmul (.s 2) (.s 1) (.reg (.s 1))) (regs [(1, 0x3F800800)]) (.s 2) = some 0x3F801000 := by decide
theorem test_ffma : after (.ffma (.s 3) (.s 1) (.reg (.s 1))) (regs [(1, 0x3F800800), (3, 0xBF801000)]) (.s 3) = some 0x33800000 := by decide
/-- 09, the example of `ATOM.cas`: a comparison that holds, and one that does not. -/
theorem test_cas : atomicStep .cas 4 5 5 9 = (5, leBytes 4 9) ∧ atomicStep .cas 4 9 5 6 = (9, leBytes 4 9) := by decide
/-- 12, the example of `SELJOB`: four of seven entries. -/
def entries : List SelEntry := [⟨0xC0000000, 10, 0⟩, ⟨0x80000000, 3, 0⟩, ⟨0xC0000000, 4, 0⟩, ⟨0xBF800000, 7, 0⟩, ⟨0xBF800000, 2, 0⟩, ⟨0, 9, 0⟩, ⟨0xBF800000, 5, 0⟩]
theorem test_select : (selectTop entries 4).taken = [⟨0xC0000000, 4, 0⟩, ⟨0xC0000000, 10, 0⟩, ⟨0xBF800000, 2, 0⟩, ⟨0xBF800000, 5, 0⟩] ∧
    (selectTop entries 8).taken.length = 6 := by decide

end Sys2Proof.Tests
end

section
/-! SUPPORT. A word whose meaning traps, taken where the vector is a marked clause (16 R413). -/
namespace Sys2Proof.Machine
open Sys2Proof
open Sys2Proof.Claim

theorem State.block_modTeam_same (s : State) (b t : Nat) (f : Team → Team) :
    (s.modTeam b t f).block b = (s.block b).modTeam t f := State.block_modBlock_same _ _ _

/-- The trap registers are written, and the handler's lanes, the active ones, stand at the marked vector. -/
theorem State.takeTrap_marked {v w : State} {b t q : Nat} {cl : Clause} {i : TrapInfo}
    (hf : v.focus = some (.team b t)) (hl : cl.act ≠ 0) (hc : (v.team b t).context ≠ .trap)
    (hi : i.word = BitVec.ofNat 32 i.code.num)
    (hm : MarkedAt (v.modTeam b t (noted i.code.num i.pc i.addr i.resume)) b (v.block b).trapvec q w) :
    v.takeTrap b t cl i = { w.modTeam b t (enters (v.block b).trapvec q cl cl.act) with focus := none } := by
  simp only [MarkedAt, State.block_modTeam_same, Block.modTeam_core, Block.modTeam_asid] at hm
  have hw : w.focus = some (.team b t) := by
    have hq := cached_marked (v.modTeam b t (noted i.code.num i.pc i.addr i.resume)) (v.block b).core (v.block b).asid
      (v.block b).trapvec
    rw [hm] at hq
    exact hq.focus.trans hf
  delta noted at hm
  simp only [State.takeTrap, if_neg hc, hi, Clause.handlerMask, if_neg hl, hm]
  exact if_pos hw

/-- An instruction whose meaning traps has the trap taken at its own word. -/
theorem traps_of {i : Instr} {x : Info} {body : Issue → M Unit} {s : State} {b t : Nat} {cl : Clause} {c : TrapCode} {a : Nat}
    {ls : Half} (he : ∀ s, exec i s = issue x body s) (h : Executes s b t cl) (hu : Untagged (s.team b t) x.shape)
    (hb : body (s.seen x b t cl) (begun s b t) = .error (.trap c a ls)) :
    Traps i s b t cl c.num a (resumeOf c (s.seen x b t cl)) := by
  intro hc q w hm
  have hblk : ((begun s b t).block b).trapvec = (s.block b).trapvec := by simp [begun, State.block_modTeam_same]
  have hctx : ((begun s b t).team b t).context ≠ .trap := by rw [begun_team s h.clause]; exact hc
  rw [he, issue_trap h hu hb, ← hblk]
  rw [← hblk] at hm
  exact congrArg Host.Outcome.next (State.takeTrap_marked h.focus h.lanes hctx rfl hm)

end Sys2Proof.Machine
end

section
/-! SUPPORT. Predicate logic (03 R89): the sources, a predicate or the low half of a literal, and the bits written. -/
namespace Sys2Proof.Machine
open Sys2Proof
open Sys2Proof.Claim

/-- The literal of a predicate source, where it is one, has no bit above 15. -/
def predFits : PSrc → Prop
  | .p _ => True
  | .lit w => w.toNat < 65536

/-- Lane `l`'s bit of a predicate source. -/
def predBit (m : Team) : PSrc → Nat → Bool
  | .p r, l => (m.p r.val).getLsbD l
  | .lit w, l => w.getLsbD l

/-- What every word of predicate logic is issued with: no register operands, no tracking. -/
def predInfo : Info := ⟨Shape.none, .no, false, true⟩

/-- The meaning that `PAND`, `POR` and `PXOR` share, the literal first. -/
def predOp (d a : Fin 8) (c : PSrc) (f : Bool → Bool → Bool) (k : Issue) : M Unit := do
  let y ← k.predSrc c
  let x ← k.predSrc (.p a)
  k.writePred d.val fun l => f (x l) (y l)

theorem exec_pand (d a : Fin 8) (c : PSrc) (s : State) : exec (.pand d a c) s = issue predInfo (predOp d a c (· && ·)) s := rfl
theorem exec_por (d a : Fin 8) (c : PSrc) (s : State) : exec (.por d a c) s = issue predInfo (predOp d a c (· || ·)) s := rfl
theorem exec_pxor (d a : Fin 8) (c : PSrc) (s : State) : exec (.pxor d a c) s = issue predInfo (predOp d a c (· != ·)) s := rfl
theorem exec_pnot (d a : Fin 8) (s : State) :
    exec (.pnot d a) s = issue predInfo (fun k => k.writePred d.val fun l => !predBit k.tm (.p a) l) s := rfl
theorem exec_pmov (d : Fin 8) (c : PSrc) (s : State) :
    exec (.pmov d c) s = issue predInfo (fun k => k.predSrc c >>= k.writePred d.val) s := rfl

theorem predBit_begin (m : Team) (n : Nat) (c : PSrc) : predBit (m.begin n) c = predBit m c := by cases c <;> rfl

theorem untagged_none (m : Team) : Untagged m Shape.none := fun _ h => absurd h List.not_mem_nil

/-! ## Sources -/

theorem predSrc_fits {k : Issue} {c : PSrc} (h : predFits c) (s : State) : k.predSrc c s = .ok (predBit k.tm c, s) := by
  cases c with
  | p r => rfl
  | lit w => simp only [Issue.predSrc, if_neg (Nat.not_le.mpr h)]; rfl

/-- A literal with a bit above 15 stops the instruction when it executes (log 15), and names no address (log 19). -/
theorem predSrc_wide {k : Issue} {w : Word} (h : 65536 ≤ w.toNat) (s : State) :
    k.predSrc (.lit w) s = .error (.trap .illegal 0 0xFFFF) := by
  simp only [Issue.predSrc, if_pos h]; rfl

theorem predOp_fits {k : Issue} {d a : Fin 8} {c : PSrc} (h : predFits c) (f : Bool → Bool → Bool) (s : State) :
    predOp d a c f k s = k.writePred d.val (fun l => f (predBit k.tm (.p a) l) (predBit k.tm c l)) s := by
  rw [predOp, run_ok (predSrc_fits h s), run_ok (predSrc_fits (c := .p a) trivial s)]

/-! ## Instructions -/

/-- A word of predicate logic whose meaning comes to one write of a predicate. -/
theorem onTeam_writePred {i : Instr} {body : Issue → M Unit} {d : Fin 8} {g : Team → Nat → Bool}
    (he : ∀ s, exec i s = issue predInfo body s) (hx : Shape.none = i.shape)
    (hb : ∀ (k : Issue) (s : State), body k s = k.writePred d.val (g k.tm) s) (hv : ∀ m n, g (m.begin n) = g m) :
    OnTeam i (writesPred d.val fun _ m l => g m l) :=
  onTeam_pred (f := fun _ => g) he hx (fun k s => hb k s) (fun _ => hv)

theorem onTeam_predOp {i : Instr} {d a : Fin 8} {c : PSrc} {f : Bool → Bool → Bool}
    (he : ∀ s, exec i s = issue predInfo (predOp d a c f) s) (hx : Shape.none = i.shape) (hc : predFits c) :
    OnTeam i (writesPred d.val fun _ m l => f (predBit m (.p a) l) (predBit m c l)) :=
  onTeam_writePred he hx (fun _ s => predOp_fits hc f s) (fun m n => by simp only [predBit_begin])

/-- A word that reads a literal with a bit above 15 before all else is `ILLEGAL`. -/
theorem traps_predSrc_wide {i : Instr} {w : Word} {g : Issue → (Nat → Bool) → M Unit} {s : State} {b t : Nat} {cl : Clause}
    (he : ∀ s, exec i s = issue predInfo (fun k => k.predSrc (.lit w) >>= g k) s) (hw : 65536 ≤ w.toNat)
    (h : Executes s b t cl) : Traps i s b t cl 0x01 0 cl.pc :=
  traps_of (c := .illegal) (ls := 0xFFFF) he h (untagged_none _) (run_error (predSrc_wide hw _))

/-- Settles O18: each instruction comes to one write of a predicate, or stops at the literal that it reads first. -/
theorem predicateLogicResults : Obligations.PredicateLogicResults := by
  unfold Obligations.PredicateLogicResults
  intro bit fits
  have hbit : bit = predBit := by funext m c l; cases c <;> rfl
  have hfits : fits = predFits := by funext c; cases c <;> rfl
  clear_value bit fits
  subst hbit hfits
  refine ⟨?_, ?_, ?_, ?_⟩
  · intro e he d a c hc
    simp only [List.mem_cons, List.not_mem_nil, or_false] at he
    rcases he with rfl | rfl | rfl
    · exact onTeam_predOp (exec_pand d a c) rfl hc
    · exact onTeam_predOp (exec_por d a c) rfl hc
    · exact onTeam_predOp (exec_pxor d a c) rfl hc
  · intro d a
    exact onTeam_writePred (exec_pnot d a) rfl (fun _ _ => rfl) fun _ _ => rfl
  · intro d c hc
    exact onTeam_writePred (exec_pmov d c) rfl (fun _ s => run_ok (predSrc_fits hc s)) fun m n => predBit_begin m n c
  · intro e he d a w hw s b t cl h
    simp only [List.mem_cons, List.not_mem_nil, or_false] at he
    rcases he with rfl | rfl | rfl | rfl
    · exact traps_predSrc_wide (exec_pand d a _) hw h
    · exact traps_predSrc_wide (exec_por d a _) hw h
    · exact traps_predSrc_wide (exec_pxor d a _) hw h
    · exact traps_predSrc_wide (exec_pmov d _) hw h

end Sys2Proof.Machine
end

section
/-! SUPPORT. Values across lanes (04 R119-R124): the bits of a mask, sums and extremes over a list of lanes, and the words that
write a value taken from several lanes. -/
namespace Sys2Proof.Machine
open Sys2Proof
open Sys2Proof.Claim

/-! ## Masks -/

theorem foldl_two_pow_eq_bitsBelow (p : Nat → Bool) (n : Nat) :
    ((List.range n).filter p).foldl (fun a l => a + 2 ^ l) 0 = bitsBelow p n := by
  induction n with
  | zero => rfl
  | succ n ih =>
    rw [List.range_succ, List.filter_append, List.foldl_append, ih, bitsBelow]
    cases hp : p n <;> simp [hp, b2n, Nat.add_comm]

theorem maskOf_eq_ofBits (p : Nat → Bool) : maskOf p = ofBits 16 p :=
  congrArg (BitVec.ofNat 16) (foldl_two_pow_eq_bitsBelow p 16)

/-- A mask of active lanes, widened to a register, has no bit beside theirs. -/
theorem setWidth_maskOf_and (act : Half) (p : Nat → Bool) :
    (maskOf fun l => laneIn act l && p l).setWidth 32 = ofBits 32 fun l => act.getLsbD l && p l := by
  apply BitVec.eq_of_getLsbD_eq
  intro i hi
  rw [maskOf_eq_ofBits, BitVec.getLsbD_setWidth, getLsbD_ofBits, getLsbD_ofBits, laneIn]
  by_cases h : i < 16
  · simp [h]
  · simp [h, BitVec.getLsbD_of_ge act i (Nat.le_of_not_lt h)]

/-! ## Sums and extremes over lanes -/

theorem lanesOf_ne_nil {act : Half} (h : act ≠ 0) : lanesOf act ≠ [] :=
  List.ne_nil_of_mem (exists_lane h).choose_spec

theorem foldl_add_eq_sum (x : Nat → Word) (ls : List Nat) : ls.foldl (fun a j => a + x j) 0 = (ls.map x).sum := by
  rw [List.sum_eq_foldl, List.foldl_map]

theorem reduceLanes_append_singleton (f : Word → Word → Word) (x : Nat → Word) (l j : Nat) (r : List Nat) :
    reduceLanes f x (l :: (r ++ [j])) = f (reduceLanes f x (l :: r)) (x j) := by
  simp [reduceLanes]

/-- Where `f` picks the one of two words that the measure `μ` says is less, `REDUCE` picks one of the least. -/
theorem reduceLanes_least {f : Word → Word → Word} {μ : Word → Int} (hf : ∀ u v, f u v = u ∨ f u v = v)
    (hμ : ∀ u v, μ (f u v) ≤ μ u ∧ μ (f u v) ≤ μ v) (x : Nat → Word) {ls : List Nat} (h : ls ≠ []) :
    (∃ l ∈ ls, reduceLanes f x ls = x l) ∧ ∀ l ∈ ls, μ (reduceLanes f x ls) ≤ μ (x l) := by
  obtain ⟨i, r, rfl⟩ := List.exists_cons_of_ne_nil h
  clear h
  induction r using List.reverseRecOn with
  | nil => simp [reduceLanes]
  | append_singleton r j ih =>
    obtain ⟨⟨l, hl, he⟩, hle⟩ := ih
    rw [reduceLanes_append_singleton]
    obtain ⟨hu, hv⟩ := hμ (reduceLanes f x (i :: r)) (x j)
    have hm : ∀ k, k ∈ i :: (r ++ [j]) ↔ k ∈ i :: r ∨ k = j := by simp [or_assoc]
    constructor
    · rcases hf (reduceLanes f x (i :: r)) (x j) with h | h
      · exact ⟨l, (hm l).mpr (.inl hl), h.trans he⟩
      · exact ⟨j, (hm j).mpr (.inr rfl), h⟩
    · intro k hk
      rcases (hm k).mp hk with hk | rfl
      · exact hu.trans (hle k hk)
      · exact hv

theorem minI_select (u v : Word) : minI u v = u ∨ minI u v = v := by rw [← minI_word]; split <;> simp
theorem maxI_select (u v : Word) : maxI u v = u ∨ maxI u v = v := by rw [← maxI_word]; split <;> simp
theorem toInt_minI_le (u v : Word) : (minI u v).toInt ≤ u.toInt ∧ (minI u v).toInt ≤ v.toInt := by
  rw [← minI_word]; split <;> omega
theorem le_toInt_maxI (u v : Word) : u.toInt ≤ (maxI u v).toInt ∧ v.toInt ≤ (maxI u v).toInt := by
  rw [← maxI_word]; split <;> omega

/-- What `REDUCE` combines with `f` over the lanes of a mask (R123). -/
def reduced (f : Word → Word → Word) (act : Half) (x : Nat → Word) : Word := reduceLanes f x (lanesOf act)

theorem reduced_minI (act : Half) (x : Nat → Word) (h : act ≠ 0) :
    (∃ l ∈ lanesOf act, reduced minI act x = x l) ∧ ∀ l ∈ lanesOf act, (reduced minI act x).toInt ≤ (x l).toInt :=
  reduceLanes_least minI_select toInt_minI_le x (lanesOf_ne_nil h)

theorem reduced_maxI (act : Half) (x : Nat → Word) (h : act ≠ 0) :
    (∃ l ∈ lanesOf act, reduced maxI act x = x l) ∧ ∀ l ∈ lanesOf act, (x l).toInt ≤ (reduced maxI act x).toInt := by
  have hμ : ∀ u v : Word, -(maxI u v).toInt ≤ -u.toInt ∧ -(maxI u v).toInt ≤ -v.toInt := fun u v => by
    have := le_toInt_maxI u v
    omega
  obtain ⟨hx, hle⟩ := reduceLanes_least (μ := fun w => -w.toInt) maxI_select hμ x (lanesOf_ne_nil h)
  exact ⟨hx, fun l hl => Int.neg_le_neg_iff.mp (hle l hl)⟩

/-! ## The results in the words of the pseudocode -/

theorem ballot_word (act : Half) (x : Nat → Word) :
    (ofBits 32 fun l => act.getLsbD l && x l != 0) = (maskOf fun l => laneIn act l && decide (x l ≠ 0)).setWidth 32 := by
  simp only [setWidth_maskOf_and, bne, beq_eq_decide, ne_eq, decide_not]

theorem match_word (act : Half) (x : Nat → Word) (l : Nat) :
    (ofBits 32 fun j => act.getLsbD j && x j == x l) = (maskOf fun j => laneIn act j && decide (x j = x l)).setWidth 32 := by
  simp only [setWidth_maskOf_and, beq_eq_decide]

theorem scan_word (act : Half) (x : Nat → Word) (l : Nat) :
    (((lanesOf act).filter (· ≤ l)).map x).sum = scanSum x false (lanesOf act) l := (foldl_add_eq_sum x _).symm

theorem scanEx_word (act : Half) (x : Nat → Word) (l : Nat) :
    (((lanesOf act).filter (· < l)).map x).sum = scanSum x true (lanesOf act) l := (foldl_add_eq_sum x _).symm

theorem sum_word (act : Half) (x : Nat → Word) (_ : Nat) :
    ((lanesOf act).map x).sum = reduceLanes (· + ·) x (lanesOf act) := by
  rw [← foldl_add_eq_sum]
  cases lanesOf act with
  | nil => rfl
  | cons l r => rw [List.foldl_cons, zero_add]; rfl

/-! ## Words that write one register -/

theorem reg_of_isV : ∀ {d : Opnd}, isV d = true → reg d
  | .v _, _ => trivial

theorem rd_begin (m : Team) (n : Nat) (o : Opnd) (l i : Nat) : (m.begin n).rd o l i = m.rd o l i := rfl
theorem val_begin (m : Team) (n : Nat) (a : Src) : val (m.begin n) a = val m a := by cases a <;> rfl
theorem uni_eq_val (k : Issue) (a : Src) : k.uni a = val k.tm a 0 := by cases a <;> rfl

/-- A word whose meaning comes to one write of values of the active set and the team. -/
theorem onTeam_write {i : Instr} {x : Info} {body : Issue → M Unit} {d : Opnd} {g : Half → Team → Nat → Word}
    (he : ∀ s, exec i s = issue x body s) (hx : x.shape = i.shape) (hd : reg d)
    (hb : ∀ (k : Issue) (s : State), body k s = k.write d (g k.act k.tm) s) (hv : ∀ act m n, g act (m.begin n) = g act m) :
    OnTeam i (writes d fun cl m l => g cl.act m l) :=
  onTeam_of he hx (fun _ _ => keeps_wr _ _ _) (fun k s hk => by rw [hb, write_reg hd, hk.act]; rfl)
    (fun cl m n => congrArg (fun v u => Team.wr u d cl.act v) (hv cl.act m n))

/-- A word that reads register `a` across lanes; `g` says in the pseudocode's words what `f` computes. -/
theorem onTeam_across {i : Instr} {d a : Opnd} {f g : Half → (Nat → Word) → Nat → Word}
    (hg : ∀ act x l, g act x l = f act x l) (hd : isV d = true)
    (he : ∀ s, exec i s = issue ⟨shLane d a, .no, false, true⟩ (fun k => across k d a (f k.act)) s) (hx : shLane d a = i.shape) :
    OnTeam i (writes d fun cl m l => g cl.act (fun l => m.rd a l) l) := by
  obtain rfl : g = f := funext fun act => funext fun x => funext (hg act x)
  exact onTeam_write (g := fun act m l => g act (fun l => m.rd a l) l) he hx (reg_of_isV hd) (fun _ _ => rfl)
    (fun act m n => by simp only [rd_begin])

theorem onTeam_reduce {i : Instr} {d a : Opnd} {f : Word → Word → Word} (hd : isV d = true)
    (he : ∀ s, exec i s = issue ⟨shLane d a, .no, false, true⟩ (fun k => across k d a fun x _ => reduceLanes f x k.lanes) s)
    (hx : shLane d a = i.shape) : OnTeam i (writes d fun cl m _ => reduced f cl.act fun l => m.rd a l) :=
  onTeam_across (f := fun act x _ => reduced f act x) (g := fun act x _ => reduced f act x) (fun _ _ _ => rfl) hd he hx

/-- The value of source lane `q`, lane `l`'s own where `q` is none of the active ones (R119). -/
def fromLane (act : Half) (x : Nat → Word) (l : Nat) (q : Int) : Word :=
  if 0 ≤ q ∧ q ≤ 15 ∧ act.getLsbD q.toNat then x q.toNat else x l

theorem shfl_ok {k : Issue} {d a : Opnd} {b : Src} (hb : regLit b) (q : Nat → Word → Int) (s : State) :
    shfl k d a b q s = k.write d (fun l => fromLane k.act (fun l => k.tm.rd a l) l (q l (val k.tm b l))) s := by
  rw [shfl, run_ok (src_regLit hb s)]
  congr 1
  funext l
  generalize q l (val k.tm b l) = j
  rw [laneOfInt, fromLane]
  by_cases h : 0 ≤ j ∧ j ≤ 15
  · simp only [h, true_and, if_true, laneIn]
    rfl
  · rw [if_neg h, if_neg fun hc => h ⟨hc.1, hc.2.1⟩]

theorem onTeam_shfl {i : Instr} {d a : Opnd} {b : Src} {q : Nat → Word → Int} (hd : isV d = true) (hb : regLit b)
    (he : ∀ s, exec i s = issue ⟨shShfl d a b, .no, false, true⟩ (fun k => shfl k d a b q) s) (hx : shShfl d a b = i.shape) :
    OnTeam i (writes d fun cl m l => fromLane cl.act (fun l => m.rd a l) l (q l (val m b l))) :=
  onTeam_write (g := fun act m l => fromLane act (fun l => m.rd a l) l (q l (val m b l))) he hx (reg_of_isV hd)
    (fun _ s => shfl_ok hb q s) (fun act m n => by simp only [rd_begin, val_begin])

/-- Settles O5: each instruction comes to one write, whose values across the lanes are those of the pseudocode. -/
theorem laneCrossingResults : Obligations.LaneCrossingResults := by
  unfold Obligations.LaneCrossingResults
  refine ⟨?_, ?_, fun d a hd _ => ⟨?_, ?_⟩, ?_⟩
  · intro e he d a b hd _ hb
    simp only [List.mem_cons, List.not_mem_nil, or_false] at he
    rcases he with rfl | rfl | rfl | rfl <;> exact onTeam_shfl hd hb (fun _ => rfl) rfl
  · intro e he d a hd _
    simp only [List.mem_cons, List.not_mem_nil, or_false] at he
    rcases he with rfl | rfl | rfl | rfl | rfl
    · exact onTeam_across (fun act x _ => ballot_word act x) hd (fun _ => rfl) rfl
    · exact onTeam_across scan_word hd (fun _ => rfl) rfl
    · exact onTeam_across scanEx_word hd (fun _ => rfl) rfl
    · exact onTeam_across sum_word hd (fun _ => rfl) rfl
    · exact onTeam_across match_word hd (fun _ => rfl) rfl
  · exact ⟨reduced minI, onTeam_reduce hd (fun _ => rfl) rfl, reduced_minI⟩
  · exact ⟨reduced maxI, onTeam_reduce hd (fun _ => rfl) rfl, reduced_maxI⟩
  · intro d a b hd _ _
    exact onTeam_write (g := fun _ m _ => m.rd a ((val m b 0).toNat % 16)) (fun _ => rfl) rfl (reg_of_isV hd)
      (fun k s => by rw [uni_eq_val]) (fun _ m n => by simp only [rd_begin, val_begin])

end Sys2Proof.Machine
end

section
/-! SUPPORT. The random counter and the mode word (04 R125-R129). -/
namespace Sys2Proof.Machine
open Sys2Proof
open Sys2Proof.Claim

theorem wr_rng (m : Team) (d : Opnd) (act : Half) (f : Nat → Word) : (m.wr d act f).rng = m.rng := by rw [wr_eq]

theorem getLsbD_fmodeMask {i : Nat} (h : i < 32) : (0xF8 : Word).getLsbD i = (decide (3 ≤ i) && decide (i < 8)) := by
  revert i; decide

/-- Bits [7:3] of a word in their place. -/
theorem and_fmodeMask (w : Word) : w &&& 0xF8 = BitVec.ofNat 32 (w.toNat % 2 ^ 8 / 2 ^ 3 * 2 ^ 3) := by
  apply BitVec.eq_of_getLsbD_eq
  intro i hi
  rw [BitVec.getLsbD_and, getLsbD_fmodeMask hi, BitVec.getLsbD_ofNat, Nat.testBit_mul_two_pow, Nat.testBit_div_two_pow,
    Nat.testBit_mod_two_pow]
  by_cases h3 : 3 ≤ i
  · simp [hi, h3, BitVec.getLsbD, Bool.and_comm]
  · simp [h3]

theorem and_byteMask (w : Word) : w &&& 0xFF = BitVec.ofNat 32 (w.toNat % 2 ^ 8) := by
  apply BitVec.eq_of_toNat_eq
  rw [BitVec.toNat_and, BitVec.toNat_ofNat, Nat.mod_eq_of_lt (by omega)]
  exact Nat.and_two_pow_sub_one_eq_mod w.toNat 8

theorem fmode_word (w : Word) : (if 6 ≤ w.toNat % 8 then w &&& 0xF8 else w &&& 0xFF) = fmodeOf w := by
  rw [fmodeOf, and_fmodeMask, and_byteMask, Nat.mod_mod_of_dvd _ (by norm_num : 8 ∣ 256), apply_ite (BitVec.ofNat 32)]
  rfl

/-- What `RNG` makes of the team: the values written, then the counter one further. -/
def randomWritten (d : Opnd) (a : Src) (cl : Clause) (m n : Team) : Team :=
  { n.wr d cl.act (fun l => rngmix (val m a l) m.rng (laneKey d l)) with rng := m.rng + 1 }

theorem keeps_randomWritten (d : Opnd) (a : Src) (cl : Clause) (m : Team) : Keeps (randomWritten d a cl m) :=
  (keeps_wr d cl.act _).comp (g := fun n => { n with rng := m.rng + 1 }) ⟨fun _ => rfl, fun _ => rfl, fun _ => rfl⟩

theorem randomWritten_begin (d : Opnd) (a : Src) (cl : Clause) (m : Team) (n : Nat) :
    randomWritten d a cl (m.begin n) = randomWritten d a cl m := by
  funext u; simp only [randomWritten, val_begin, Team.begin_rng]

theorem onTeam_rng {d : Opnd} {a : Src} (hd : reg d) (ha : regLit a) : OnTeam (.rng d a) (randomWritten d a) := by
  refine onTeam_of (fun _ => rfl) rfl (keeps_randomWritten d a) (fun k s hk => ?_) (randomWritten_begin d a)
  rw [run_ok (src_regLit ha s), run_ok (write_reg hd _ s)]
  show Except.ok ((), (s.modTeam k.b k.t _).modTeam k.b k.t _) = _
  rw [State.modTeam_modTeam]
  congr 2
  apply modTeam_congr
  rw [← hk.team, wr_rng, randomWritten, hk.act]

/-- A word that changes its team by the value of a uniform source. -/
theorem onTeam_uniform {i : Instr} {a : Src} {f : Word → Team → Team}
    (he : ∀ s, exec i s = issue ⟨shS1 a, .no, false, true⟩ (fun k => k.mod (f (k.uni a))) s) (hx : shS1 a = i.shape)
    (hf : ∀ w, Keeps (f w)) : OnTeam i fun _ m n => f (val m a 0) n :=
  onTeam_of he hx (fun _ _ => hf _) (fun k s _ => by rw [uni_eq_val]; rfl) (fun _ m n => by simp only [val_begin])

/-- Settles O7: the counter is read before it goes on, and the mode word's masks are its fields. -/
theorem randomAndModeResults : Obligations.RandomAndModeResults := by
  unfold Obligations.RandomAndModeResults
  refine ⟨fun d a hd ha => onTeam_rng hd ha, fun a _ => ?_, fun a _ => ?_⟩
  · simp only [fmode_word]
    exact onTeam_uniform (f := fun w n => { n with fmode := fmodeOf w }) (fun _ => rfl) rfl
      fun _ => ⟨fun _ => rfl, fun _ => rfl, fun _ => rfl⟩
  · exact onTeam_uniform (f := fun w n => { n with rng := w }) (fun _ => rfl) rfl
      fun _ => ⟨fun _ => rfl, fun _ => rfl, fun _ => rfl⟩

end Sys2Proof.Machine
end

section
/-! SUPPORT. Ranking (12 R310-R313): when a binary32 pattern is a NaN, the lane that a search through a mask finds, and how
many lanes go before another. -/
namespace Sys2Proof.Machine
open Sys2Proof
open Sys2Proof.Claim

/-! ## Keys and digits -/

/-- The NaNs of a format whose greatest exponent field is reserved (05 R134). -/
theorem isNan_val_iff {f : FFmt} (hf : f.ieee = true) (x : Nat) :
    (f.val x).isNan = true ↔ bits x (f.eb + f.fb - 1) f.fb = 2 ^ f.eb - 1 ∧ x % 2 ^ f.fb ≠ 0 := by
  simp only [FFmt.val, hf, and_true]
  split_ifs <;> simp_all [Val.isNan]

/-- A binary32 pattern is a NaN where its magnitude exceeds that of the infinities. -/
theorem isNan_f32_iff (x : Nat) : (fmtF32.val x).isNan = true ↔ 0x7F800000 < x % 2147483648 := by
  rw [isNan_val_iff rfl]
  simp only [fmtF32, bits, Nat.reduceAdd, Nat.reduceSub, Nat.reducePow]
  omega

theorem rkey_word (x : Word) :
    (if 0x7F800000 < x.toNat % 2147483648 then 0 else if x = 0x80000000 then 0x80000000
      else if x.toNat < 2147483648 then x ^^^ 0x80000000 else ~~~x) = rkey x := by
  simp only [rkey, isNan_f32_iff]
  by_cases hz : x = 0x80000000
  · subst hz; rfl
  · have hs : x.getLsbD 31 = true ↔ ¬ x.toNat < 2147483648 := by
      rw [← BitVec.msb_eq_getLsbD_last, BitVec.msb_eq_decide]
      simp
    simp only [if_neg hz, hs, ite_not]

theorem digit_word (desc : Bool) (x y : Word) :
    BitVec.ofNat 32 (if desc then
        2 ^ min (y.toNat / 256 % 256) 16 - 1 - x.toNat / 2 ^ (y.toNat % 256) % 2 ^ min (y.toNat / 256 % 256) 16
      else x.toNat / 2 ^ (y.toNat % 256) % 2 ^ min (y.toNat / 256 % 256) 16) = radixDigit x y desc := by
  simp [radixDigit, bits]

/-! ## The lane of the largest key -/

/-- What `ARGMAX` finds among the lanes of a mask (R312). -/
def largestLane (act : Half) (x : Nat → Word) : Word := argmaxLane (lanesOf act) x

/-- A search through the lanes of a mask answers the lowest of those that satisfy `p`. -/
theorem find?_lanesOf_eq_some {act : Half} {p : Nat → Bool} {l : Nat} (hl : l ∈ lanesOf act) (hp : p l = true)
    (hlow : ∀ q ∈ lanesOf act, q < l → p q = false) : (lanesOf act).find? p = some l := by
  obtain ⟨hr, hact⟩ := List.mem_filter.mp hl
  rw [lanesOf, lanes, List.find?_filter, List.find?_range_eq_some]
  refine ⟨by simp [hact, hp], hr, fun q hq => ?_⟩
  have hqr : q ∈ lanes := List.mem_range.mpr (hq.trans (List.mem_range.mp hr))
  simp only [Bool.not_eq_true', decide_eq_false_iff_not, not_and, Bool.not_eq_true]
  exact fun h => hlow q (List.mem_filter.mpr ⟨hqr, h⟩) hq

/-- Of the lanes whose key no active lane exceeds, the lowest is found. -/
theorem largestLane_lowest {act : Half} {x : Nat → Word} {l : Nat} (hl : l ∈ lanesOf act) (h0 : x l ≠ 0)
    (hle : ∀ q ∈ lanesOf act, (x q).toNat ≤ (x l).toNat) (hlow : ∀ q ∈ lanesOf act, q < l → x q ≠ x l) :
    largestLane act x = BitVec.ofNat 32 l := by
  have hvalid : l ∈ (lanesOf act).filter fun q => x q != 0 := List.mem_filter.mpr ⟨hl, by simpa using h0⟩
  have hfind : ((lanesOf act).filter fun q => x q != 0).find?
      (fun q => ((lanesOf act).filter fun q => x q != 0).all fun r => decide ((x r).toNat ≤ (x q).toNat)) = some l := by
    rw [List.find?_filter]
    refine find?_lanesOf_eq_some hl ?_ fun q hq hlt => ?_
    · simpa using ⟨h0, fun q hq => Or.inr (hle q hq)⟩
    · simp only [decide_eq_false_iff_not, decide_eq_true_eq, List.all_eq_true]
      rintro ⟨-, hge⟩
      exact hlow q hq hlt (BitVec.eq_of_toNat_eq (le_antisymm (hle q hq) (hge l hvalid)))
  simp only [largestLane, argmaxLane, hfind]

theorem largestLane_zero {act : Half} {x : Nat → Word} (h : ∀ l ∈ lanesOf act, x l = 0) :
    largestLane act x = 0xFFFFFFFF := by
  have hnil : ((lanesOf act).filter fun l => x l != 0) = [] := by
    rw [List.filter_eq_nil_iff]
    intro l hl
    simp [h l hl]
  simp only [largestLane, argmaxLane, hnil, List.find?_nil]

/-! ## Ranks -/

theorem length_filter_or_of_disjoint {p r : Nat → Bool} (h : ∀ q, p q = true → r q = false) (ls : List Nat) :
    (ls.filter fun q => p q || r q).length = (ls.filter p).length + (ls.filter r).length := by
  induction ls with
  | nil => rfl
  | cons q ls ih =>
    cases hp : p q with
    | true => simp [hp, h q hp, ih, Nat.add_right_comm]
    | false => cases hr : r q <;> simp [hp, hr, ih, Nat.add_assoc]

theorem rank_word (act : Half) (x : Nat → Word) (l : Nat) :
    BitVec.ofNat 32 (((lanesOf act).filter fun q => (x l).toNat < (x q).toNat).length +
      ((lanesOf act).filter fun q => x q = x l ∧ q < l).length) = rankOf (lanesOf act) x l := by
  have hdis : ∀ q, decide ((x l).toNat < (x q).toNat) = true → decide (x q = x l ∧ q < l) = false := by
    intro q hq
    simp only [decide_eq_true_eq, decide_eq_false_iff_not] at hq ⊢
    rintro ⟨he, -⟩
    exact hq.ne (congrArg BitVec.toNat he.symm)
  rw [← length_filter_or_of_disjoint hdis]
  simp only [rankOf, gt_iff_lt, Bool.decide_and, beq_eq_decide]

/-! ## The instructions -/

/-- A word that reads register `a` for every lane before it writes. -/
theorem onTeam_readAcross {i : Instr} {d a : Opnd} {f : Half → (Nat → Word) → Nat → Word}
    (hd : isV d = true) (ha : isV a = true)
    (he : ∀ s, exec i s = issue ⟨shLane d a, .no, false, true⟩ (fun k => k.read a >>= fun x => k.write d (f k.act x)) s)
    (hx : shLane d a = i.shape) : OnTeam i (writes d fun cl m l => f cl.act (fun l => m.rd a l) l) :=
  onTeam_write (g := fun act m l => f act (fun l => m.rd a l) l) he hx (reg_of_isV hd)
    (fun _ s => run_ok (read_reg (reg_of_isV ha) s)) (fun act m n => by simp only [rd_begin])

/-- Settles O12: each instruction comes to one write, whose values are the keys, digits, lanes and ranks of the pseudocode. -/
theorem rankingResults : Obligations.RankingResults := by
  unfold Obligations.RankingResults
  refine ⟨?_, ?_, ?_, ?_⟩
  · intro e he d a hd ha
    simp only [List.mem_cons, List.not_mem_nil, or_false] at he
    simp only [rkey_word]
    rcases he with rfl | rfl
    · exact onTeam_alu1 (f := rkey) (fun _ => rfl) rfl hd ha
    · exact onTeam_alu1 (f := fun x => rkey (x <<< 16)) (fun _ => rfl) rfl hd ha
  · intro desc d a b hd ha hb
    simp only [digit_word]
    exact onTeam_alu2 (f := fun x y => radixDigit x y desc) (fun _ => rfl) rfl hd ha hb
  · intro d a hd ha
    refine ⟨largestLane, ?_, fun act x => ⟨fun l => largestLane_lowest, largestLane_zero⟩⟩
    exact onTeam_readAcross (f := fun act x _ => largestLane act x) hd ha (fun _ => rfl) rfl
  · intro d a hd ha
    simpa only [← rank_word] using
      onTeam_readAcross (i := .rank d a) (f := fun act => rankOf (lanesOf act)) hd ha (fun _ => rfl) rfl

end Sys2Proof.Machine
end
